-- ==== Sys2Proof/Word.lean ====
section
/-! DEFINITION. The word types of the KV-OP40 and their plainest arithmetic (00 R8, 03 R68). -/

namespace Sys2Proof

/-- One byte. -/
abbrev Byte := BitVec 8
/-- A scalar register, a control register, a post (R68, R330). -/
abbrev Word := BitVec 64
/-- A vector register or the 32 data bytes of a granule (R68, R33). -/
abbrev Vec := BitVec 256
/-- The number of a scalar register x0 to x31 (R39). -/
abbrev Reg := BitVec 5
/-- A 9-bit operand code (R41). -/
abbrev OpCode := BitVec 9

/-- All ones of a width. -/
abbrev ones (w : Nat) : BitVec w := BitVec.allOnes w

/-- One bit of a Bool. -/
def bit (b : Bool) : BitVec 1 := BitVec.ofBool b

end Sys2Proof
end

