-- ==== Sys2Proof/Machine/Flags.lean ====
section
/-! DEFINITION. The sticky flags of cr.fflags and of the timed flags (01 R27, R28, 09 R246). Which operation sets which
flag stands with the operation, in Num, Pattern and the vector meanings. -/

namespace Sys2Proof.Machine

/-- The sticky flags of cr.fflags and of the timed flags (R28). -/
structure Flags where
  saturate : Bool := false
  trit : Bool := false
  invalid : Bool := false
  divzero : Bool := false
  overflow : Bool := false
  underflow : Bool := false
  inexact : Bool := false
  deriving DecidableEq, Repr

/-- No flag. -/
def Flags.none : Flags := {}

def Flags.or (a b : Flags) : Flags :=
  ⟨a.saturate || b.saturate, a.trit || b.trit, a.invalid || b.invalid, a.divzero || b.divzero,
    a.overflow || b.overflow, a.underflow || b.underflow, a.inexact || b.inexact⟩

/-- The layout of R28, bit 6 first. -/
def Flags.toBits (f : Flags) : BitVec 7 :=
  bit f.saturate ++ bit f.trit ++ bit f.invalid ++ bit f.divzero ++ bit f.overflow ++ bit f.underflow ++ bit f.inexact

def flagInvalid : Flags := { invalid := true }
def flagDivzero : Flags := { divzero := true }
def flagSaturate : Flags := { saturate := true }
def flagTrit : Flags := { trit := true }

/-- Flags ORed into the 7-bit field of cr.fflags or of the timed flags (R28). -/
def orFlags (old : BitVec 7) (f : Flags) : BitVec 7 := old ||| f.toBits

end Sys2Proof.Machine
end

