-- ==== Sys2Proof/Machine/Num.lean ====
section
/-! DEFINITION. Number formats, rounding and floating-point arithmetic (01 R12 to R31): every operation computes an
exact value, or an exact value cut short with a sticky bit, and rounds it once. -/

namespace Sys2Proof.Machine

/-- The floating-point formats (R12). -/
inductive Fmt where
  | f32 | bf16 | f16 | e4m3 | e5m2 | e2m1
  deriving DecidableEq, Repr

/-- Bits of an element, exponent bits, mantissa bits (R12). -/
def Fmt.width : Fmt → Nat
  | .f32 => 32 | .bf16 => 16 | .f16 => 16 | .e4m3 => 8 | .e5m2 => 8 | .e2m1 => 4
def Fmt.ebits : Fmt → Nat
  | .f32 => 8 | .bf16 => 8 | .f16 => 5 | .e4m3 => 4 | .e5m2 => 5 | .e2m1 => 2
def Fmt.mbits : Fmt → Nat
  | .f32 => 23 | .bf16 => 7 | .f16 => 10 | .e4m3 => 3 | .e5m2 => 2 | .e2m1 => 1
/-- The exponent bias (R12). -/
def Fmt.bias : Fmt → Nat
  | .f32 => 127 | .bf16 => 127 | .f16 => 15 | .e4m3 => 7 | .e5m2 => 15 | .e2m1 => 1
/-- The code of the largest finite magnitude (R12). -/
def Fmt.maxFinite : Fmt → Nat
  | .f32 => 0x7F7FFFFF | .bf16 => 0x7F7F | .f16 => 0x7BFF | .e4m3 => 0x7E | .e5m2 => 0x7B | .e2m1 => 0x7
/-- The canonical NaN a result takes; +0 for E2M1, which has none (R13, R27). -/
def Fmt.nan : Fmt → Nat
  | .f32 => 0x7FC00000 | .bf16 => 0x7FC0 | .f16 => 0x7E00 | .e4m3 => 0x7F | .e5m2 => 0x7E | .e2m1 => 0
/-- FP32, BF16 and FP16 overflow to infinity under the mode; the others saturate (R27). -/
def Fmt.wide : Fmt → Bool
  | .f32 | .bf16 | .f16 => true
  | _ => false
/-- Formats with infinities (R12). -/
def Fmt.hasInf : Fmt → Bool
  | .e4m3 | .e2m1 => false
  | _ => true

/-- The format of a floating element type (02 R45). -/
def fmtOf (et : BitVec 4) : Fmt :=
  match et.toNat with
  | 8 => .f32 | 9 => .bf16 | 10 => .f16 | 11 => .e4m3 | 12 => .e5m2 | _ => .e2m1

/-- Rounding modes (R25); SR carries the draw s[31:8] of R26. -/
inductive Mode where
  | rne | rtz | rup | rdn | rna
  | sr (draw : BitVec 24)
  deriving DecidableEq, Repr

/-- A floating value: a NaN, an infinity, or (-1)^s m 2^e, cut short below by a positive part smaller than 2^e when
sticky. -/
inductive Num where
  | nan (signalling : Bool)
  | inf (s : Bool)
  | fin (s : Bool) (m : Nat) (e : Int) (sticky : Bool)
  deriving DecidableEq, Repr

/-- The value of an element code (R12, R13). -/
def Num.ofBits (f : Fmt) (c : Nat) : Num :=
  let s := c.testBit (f.width - 1)
  let ex := (c >>> f.mbits) % 2 ^ f.ebits
  let m := c % 2 ^ f.mbits
  let top := ex = 2 ^ f.ebits - 1
  if f.hasInf && top then
    if m = 0 then .inf s else .nan (!m.testBit (f.mbits - 1))
  else if f = .e4m3 && top && m = 7 then .nan false
  else if ex = 0 then .fin s m (1 - (f.bias : Int) - f.mbits) false
  else .fin s (2 ^ f.mbits + m) ((ex : Int) - f.bias - f.mbits) false

/-- The rounded quotient of m by 2^k with a sticky bit under a mode, and whether it is inexact (R25, R26). -/
def roundShift (mode : Mode) (s : Bool) (m : Nat) (sticky : Bool) (k : Nat) : Nat × Bool :=
  let t := m >>> k
  let r := m % 2 ^ k
  let inexact := r ≠ 0 || sticky
  let up : Bool :=
    match mode with
    | .rne => 2 * r > 2 ^ k || (2 * r = 2 ^ k && (sticky || t % 2 = 1))
    | .rtz => false
    | .rup => inexact && !s
    | .rdn => inexact && s
    | .rna => 2 * r ≥ 2 ^ k
    | .sr draw => (r * 2 ^ 24) / 2 ^ k + draw.toNat ≥ 2 ^ 24
  (if up && inexact then t + 1 else t, inexact)

/-- Bits of a magnitude. -/
def bitLength (m : Nat) : Nat := if m = 0 then 0 else Nat.log2 m + 1

/-- Where ±∞ goes in a format: the infinity, or the largest finite value with overflow (R27). -/
def infBits (f : Fmt) (s : Bool) : Nat × Flags :=
  let sign := if s then 2 ^ (f.width - 1) else 0
  if f.hasInf then (sign + (2 ^ f.ebits - 1) * 2 ^ f.mbits, {}) else (sign + f.maxFinite, { overflow := true })

/-- The code that overflow of a finite result takes (R27). -/
def overflowBits (f : Fmt) (mode : Mode) (s : Bool) : Nat :=
  let sign := if s then 2 ^ (f.width - 1) else 0
  let toInf : Bool :=
    f.wide && match mode with
      | .rtz => false
      | .rup => !s
      | .rdn => s
      | _ => true
  sign + if toInf then (2 ^ f.ebits - 1) * 2 ^ f.mbits else f.maxFinite

/-- RoundTo of a finite value: the code and the flags (R12, R25 to R27). Tininess is decided after rounding with the
exponent range unbounded. -/
def roundFin (f : Fmt) (mode : Mode) (s : Bool) (m : Nat) (e : Int) (sticky : Bool) : Nat × Flags :=
  let sign := if s then 2 ^ (f.width - 1) else 0
  if m = 0 then (sign, {}) else
    let p := f.mbits + 1
    let emin : Int := 1 - (f.bias : Int) - f.mbits
    let qu : Int := e + bitLength m - p
    let q := max qu emin
    -- a shift below zero scales the magnitude up; the sticky part then lies below the last place
    let at_ (q : Int) : Nat × Bool :=
      if q ≥ e then roundShift mode s m sticky (q - e).toNat
      else (m * 2 ^ (e - q).toNat, sticky)
    let (r, inexact) := at_ q
    let mag : Nat :=
      if r < 2 ^ f.mbits then r else
        -- r is 2^mbits to 2^p; the exponent field counts up from 1 at emin
        (q - emin).toNat * 2 ^ f.mbits + r
    if mag > f.maxFinite then (overflowBits f mode s, { overflow := true, inexact := true })
    else
      let tiny : Bool := qu < emin && (at_ qu).1 * 2 ^ (qu - (emin - 2 * p)).toNat < 2 ^ (f.mbits + 2 * p)
      (sign + mag, { inexact := inexact, underflow := tiny && inexact })

/-- RoundTo of any value (R13, R27). A signalling NaN sets invalid, and so does any NaN into E2M1. -/
def roundTo (f : Fmt) (mode : Mode) : Num → Nat × Flags
  | .nan sig => (f.nan, if sig || f = .e2m1 then flagInvalid else {})
  | .inf s => infBits f s
  | .fin s m e sticky => roundFin f mode s m e sticky

/-- Whether an operand is a signalling NaN. -/
def Num.isSig : Num → Bool
  | .nan sig => sig
  | _ => false

def Num.isNan : Num → Bool
  | .nan _ => true
  | _ => false

def Num.neg : Num → Num
  | .nan g => .nan g
  | .inf s => .inf (!s)
  | .fin s m e t => .fin (!s) m e t

/-- The exact sum of finite values; an exact zero is +0, and -0 under RDN or when both are -0 (IEEE 754; log 12). -/
def addFin (down : Bool) (s1 : Bool) (m1 : Nat) (e1 : Int) (s2 : Bool) (m2 : Nat) (e2 : Int) : Num :=
  let e := min e1 e2
  let v1 : Int := (m1 * 2 ^ (e1 - e).toNat : Nat)
  let v2 : Int := (m2 * 2 ^ (e2 - e).toNat : Nat)
  let v := (if s1 then -v1 else v1) + (if s2 then -v2 else v2)
  if v = 0 then .fin (if s1 = s2 then s1 else down) 0 0 false
  else .fin (v < 0) v.natAbs e false

/-- The exact sum, with the flags of its operands (R27). -/
def addNum (down : Bool) (a b : Num) : Num × Flags :=
  let sig : Flags := if a.isSig || b.isSig then flagInvalid else {}
  match a, b with
  | .nan _, _ => (.nan false, sig)
  | _, .nan _ => (.nan false, sig)
  | .inf s, .inf t => if s = t then (.inf s, {}) else (.nan false, flagInvalid)
  | .inf s, .fin _ _ _ _ => (.inf s, {})
  | .fin _ _ _ _, .inf t => (.inf t, {})
  | .fin s m e _, .fin t n g _ => (addFin down s m e t n g, {})

/-- The exact product, with the flags of its operands (R27). -/
def mulNum (a b : Num) : Num × Flags :=
  let sig : Flags := if a.isSig || b.isSig then flagInvalid else {}
  match a, b with
  | .nan _, _ => (.nan false, sig)
  | _, .nan _ => (.nan false, sig)
  | .inf s, .inf t => (.inf (s != t), {})
  | .inf s, .fin t n _ _ => if n = 0 then (.nan false, flagInvalid) else (.inf (s != t), {})
  | .fin s m _ _, .inf t => if m = 0 then (.nan false, flagInvalid) else (.inf (s != t), {})
  | .fin s m e _, .fin t n g _ => (.fin (s != t) (m * n) (e + g) false, {})

/-- a × b + d, one exact value; ∞ × 0 is invalid whatever d holds (05 R118). -/
def fmaNum (down : Bool) (a b d : Num) : Num × Flags :=
  let (p, f1) := mulNum a b
  let (r, f2) := addNum down p d
  (r, f1.or f2)

/-- The quotient to over 120 bits with a sticky bit (05 R118). -/
def divNum (a b : Num) : Num × Flags :=
  let sig : Flags := if a.isSig || b.isSig then flagInvalid else {}
  match a, b with
  | .nan _, _ => (.nan false, sig)
  | _, .nan _ => (.nan false, sig)
  | .inf _, .inf _ => (.nan false, flagInvalid)
  | .inf s, .fin t _ _ _ => (.inf (s != t), {})
  | .fin s _ _ _, .inf t => (.fin (s != t) 0 0 false, {})
  | .fin s m e _, .fin t n g _ =>
    if n = 0 then
      if m = 0 then (.nan false, flagInvalid) else (.inf (s != t), flagDivzero)
    else
      let k := 128 + bitLength n
      let q := m * 2 ^ k / n
      (.fin (s != t) q (e - g - k) (q * n ≠ m * 2 ^ k), {})

/-- The integer square root of n among the roots below 2^bits, one bit at a time. -/
def isqrt : Nat → Nat → Nat → Nat
  | 0, _, root => root
  | k + 1, n, root => isqrt k n (if (root + 2 ^ k) * (root + 2 ^ k) ≤ n then root + 2 ^ k else root)

/-- √a to over 120 bits with a sticky bit (05 R118). -/
def sqrtNum (a : Num) : Num × Flags :=
  match a with
  | .nan sig => (.nan false, if sig then flagInvalid else {})
  | .inf s => if s then (.nan false, flagInvalid) else (.inf false, {})
  | .fin s m e _ =>
    if m = 0 then (.fin s 0 0 false, {})
    else if s then (.nan false, flagInvalid)
    else
      let odd := e % 2 ≠ 0
      let m' := (if odd then 2 * m else m) * 2 ^ 256
      let e' := (if odd then e - 1 else e) - 256
      let r := isqrt 160 m' 0
      (.fin false r (e' / 2) (r * r ≠ m'), {})

/-- 1 / a (05 R126). -/
def rcpNum (a : Num) : Num × Flags :=
  match a with
  | .nan sig => (.nan false, if sig then flagInvalid else {})
  | .inf s => (.fin s 0 0 false, {})
  | .fin s m e _ => if m = 0 then (.inf s, flagDivzero) else divNum (.fin false 1 0 false) (.fin s m e false)

/-- 1 / √a (05 R126). -/
def rsqNum (a : Num) : Num × Flags :=
  match a with
  | .nan sig => (.nan false, if sig then flagInvalid else {})
  | .inf s => if s then (.nan false, flagInvalid) else (.fin false 0 0 false, {})
  | .fin s m e _ =>
    if m = 0 then (.inf s, flagDivzero)
    else if s then (.nan false, flagInvalid)
    else
      -- 1 / √(m 2^e) with e even is √(2^320 / m) 2^(-160 - e/2)
      let odd := e % 2 ≠ 0
      let m' := if odd then 2 * m else m
      let e' := if odd then e - 1 else e
      let r := isqrt 161 (2 ^ 320 / m') 0
      (.fin false r (-160 - e' / 2) (r * r * m' ≠ 2 ^ 320), {})

/-! 2^x and log2 x by fixed-point series of 384 fraction bits (05 R126, 09 R249; log 10). -/

/-- The fraction bits of the series. -/
def fixBits : Nat := 384

/-- Σ z^(2k+1) / (2k+1) from k on, with term the fixed-point power z^(2k+1) and z2 the fixed-point z². -/
def atanhSum : Nat → Nat → Nat → Nat → Nat
  | 0, _, _, _ => 0
  | n + 1, k, term, z2 => term / (2 * k + 1) + atanhSum n (k + 1) (term * z2 / 2 ^ fixBits) z2

/-- ln of num / den, from 1 to below 2: 2 atanh ((num - den) / (num + den)). -/
def lnFix (num den : Nat) : Nat :=
  let z := (num - den) * 2 ^ fixBits / (num + den)
  2 * atanhSum 130 0 z (z * z / 2 ^ fixBits)

/-- ln 2. -/
def ln2Fix : Nat := lnFix 2 1

/-- Σ y^k / k! from k on, with term the fixed-point y^(k-1) / (k-1)!. -/
def expSum : Nat → Nat → Nat → Nat → Nat
  | 0, _, _, _ => 0
  | n + 1, k, term, y => term + expSum n (k + 1) (term * y / 2 ^ fixBits / k) y

/-- 2^f for a fixed-point f from 0 to below 1. -/
def exp2Fix (f : Nat) : Nat := expSum 90 1 (2 ^ fixBits) (f * ln2Fix / 2 ^ fixBits)

/-- 2^a (05 R126). Magnitudes beyond the range of every format are cut to one that overflows or vanishes alike. -/
def exp2Num (a : Num) : Num × Flags :=
  match a with
  | .nan sig => (.nan false, if sig then flagInvalid else {})
  | .inf s => if s then (.fin false 0 0 false, {}) else (.inf false, {})
  | .fin s m e _ =>
    if e + bitLength m > 12 && m ≠ 0 then
      if s then (.fin false 1 (-4096) true, {}) else (.fin false 1 4096 true, {})
    else
      let scaled : Nat := if e ≥ 0 then m * 2 ^ (e.toNat + fixBits) else m * 2 ^ fixBits / 2 ^ (-e).toNat
      let v : Int := if s then -(scaled : Int) else scaled
      let n := v / (2 ^ fixBits : Int)
      let f := (v % (2 ^ fixBits : Int)).toNat
      if f = 0 then (.fin false 1 n false, {})
      else (.fin false (exp2Fix f / 2 ^ 64) (n - (fixBits - 64 : Nat)) true, {})

/-- log2 a (05 R126). -/
def log2Num (a : Num) : Num × Flags :=
  match a with
  | .nan sig => (.nan false, if sig then flagInvalid else {})
  | .inf s => if s then (.nan false, flagInvalid) else (.inf false, {})
  | .fin s m e _ =>
    if m = 0 then (.inf true, flagDivzero)
    else if s then (.nan false, flagInvalid)
    else
      let l := bitLength m - 1
      let n : Int := e + l
      if m = 2 ^ l then (if n = 0 then .fin false 0 0 false else .fin (n < 0) n.natAbs 0 false, {})
      else
        let frac := lnFix m (2 ^ l) * 2 ^ fixBits / ln2Fix
        let v : Int := n * (2 ^ fixBits : Int) + frac
        (.fin (v < 0) (v.natAbs / 2 ^ 64) (-(fixBits - 64 : Nat)) true, {})

/-! Elements -/

/-- Numeric order of two finite or infinite values. -/
def Num.lt (a b : Num) : Bool :=
  match a, b with
  | .nan _, _ => false
  | _, .nan _ => false
  | .inf s, .inf t => s && !t
  | .inf s, .fin _ _ _ _ => s
  | .fin _ _ _ _, .inf t => !t
  | .fin s m e _, .fin t n g _ =>
    let k := min e g
    let v1 : Int := (m * 2 ^ (e - k).toNat : Nat)
    let v2 : Int := (n * 2 ^ (g - k).toNat : Nat)
    (if s then -v1 else v1) < (if t then -v2 else v2)

def Num.isZero : Num → Bool
  | .fin _ m _ _ => m = 0
  | _ => false

def Num.signBit : Num → Bool
  | .nan _ => false
  | .inf s => s
  | .fin s _ _ _ => s

/-- Numeric equality; -0 equals +0 (05 R120). -/
def Num.eq (a b : Num) : Bool := !a.isNan && !b.isNan && !a.lt b && !b.lt a

/-- a below b with -0 below +0 (R30). -/
def Num.below (a b : Num) : Bool := a.lt b || (a.isZero && b.isZero && a.signBit && !b.signBit)

/-- A quieted copy of a NaN code; other codes unchanged. -/
def quiet (f : Fmt) (c : Nat) : Nat := if (Num.ofBits f c).isNan then f.nan else c

/-- Minimum and maximum of element codes: number is the minimumNumber kind (R30). -/
def minMax (f : Fmt) (max number : Bool) (a b : Nat) : Nat × Flags :=
  let x := Num.ofBits f a
  let y := Num.ofBits f b
  let fl : Flags := if x.isSig || y.isSig then flagInvalid else {}
  if x.isNan && y.isNan then (f.nan, fl)
  else if x.isNan then (if number then b else f.nan, fl)
  else if y.isNan then (if number then a else f.nan, fl)
  else if max then (if x.below y then b else a, fl)
  else (if y.below x then b else a, fl)

/-- An integer as a value. -/
def Num.ofInt (i : Int) : Num := .fin (i < 0) i.natAbs 0 false

/-- The limits of an integer or cardinal of a width (R14). -/
def intMin (signed : Bool) (w : Nat) : Int := if signed then -(2 ^ (w - 1) : Int) else 0
def intMax (signed : Bool) (w : Nat) : Int := if signed then 2 ^ (w - 1) - 1 else 2 ^ w - 1

/-- The integer an element code stands for (R14). -/
def intOf (signed : Bool) (w c : Nat) : Int := if signed && c.testBit (w - 1) then (c : Int) - 2 ^ w else c

/-- The low w bits of an integer. -/
def intBits (w : Nat) (i : Int) : Nat := (i % (2 ^ w : Int)).toNat

/-- An integer clamped to a range, setting saturate (R14). -/
def clampInt (signed : Bool) (w : Nat) (i : Int) : Nat × Flags :=
  if i < intMin signed w then (intBits w (intMin signed w), flagSaturate)
  else if i > intMax signed w then (intBits w (intMax signed w), flagSaturate)
  else (intBits w i, {})

/-- A floating value to an integer: the range limit, or 0 for a NaN, with invalid when it has none (R27). -/
def toInt (signed : Bool) (w : Nat) (mode : Mode) : Num → Nat × Flags
  | .nan _ => (0, flagInvalid)
  | .inf s => (intBits w (if s then intMin signed w else intMax signed w), flagInvalid)
  | .fin s m e sticky =>
    let (r, inexact) :=
      if e ≥ 0 then (m * 2 ^ (min e.toNat 400), false) else roundShift mode s m sticky (-e).toNat
    let i : Int := if s then -(r : Int) else r
    if i < intMin signed w then (intBits w (intMin signed w), flagInvalid)
    else if i > intMax signed w then (intBits w (intMax signed w), flagInvalid)
    else (intBits w i, { inexact := inexact })

/-! Element types by code (02 R45) -/

def etFloat (et : BitVec 4) : Bool := 8 ≤ et.toNat && et.toNat ≤ 13
def etSigned (et : BitVec 4) : Bool := et.toNat < 4 || et.toNat = 14
/-- The bits of an element (02 R45). -/
def etBits (et : BitVec 4) : Nat :=
  match et.toNat with
  | 0 => 8 | 1 => 16 | 2 => 32 | 3 => 64 | 4 => 8 | 5 => 16 | 6 => 32 | 7 => 64
  | 8 => 32 | 9 => 16 | 10 => 16 | 11 => 8 | 12 => 8 | _ => 4

/-- One element converted between types (05 R127); dst and src are R45 codes, src 16 is .t2. -/
def convert (dst : BitVec 4) (src : Nat) (mode : Mode) (c : Nat) : Nat × Flags :=
  if src = 16 then
    -- R18: code 2 reads as 0 and sets invalid_trit
    let v : Int := if c = 1 then 1 else if c = 3 then -1 else 0
    let fl : Flags := if c = 2 then flagTrit else {}
    if etFloat dst then ((roundTo (fmtOf dst) mode (Num.ofInt v)).1, fl)
    else
      let (r, g) := clampInt (etSigned dst) (etBits dst) v
      (r, fl.or g)
  else
    let se : BitVec 4 := BitVec.ofNat 4 src
    if etFloat se then
      let n := Num.ofBits (fmtOf se) c
      if etFloat dst then
        if dst = se then
          -- equal types write canonical NaNs and otherwise copy
          if n.isNan then ((fmtOf dst).nan, if n.isSig then flagInvalid else {}) else (c, {})
        else roundTo (fmtOf dst) mode n
      else toInt (etSigned dst) (etBits dst) mode n
    else
      let i := intOf (etSigned se) (etBits se) c
      if etFloat dst then roundTo (fmtOf dst) mode (Num.ofInt i)
      else clampInt (etSigned dst) (etBits dst) i

/-- The sum of FP32 codes by the pairwise tree of R31; n levels halve the list. -/
def treeStep (op : Nat → Nat → Nat × Flags) : List Nat → List Nat × Flags
  | a :: b :: rest =>
    let (r, f) := op a b
    let (rs, g) := treeStep op rest
    (r :: rs, f.or g)
  | rest => (rest, {})

/-- A pairwise tree over at most 2^n values. -/
def tree (op : Nat → Nat → Nat × Flags) : Nat → List Nat → Nat × Flags
  | 0, l => (l.headD 0, {})
  | n + 1, l =>
    let (r, f) := treeStep op l
    let (x, g) := tree op n r
    (x, f.or g)

/-- RoundTo(a + b, FP32) of FP32 codes under a mode. -/
def addF32 (mode : Mode) (a b : Nat) : Nat × Flags :=
  let (n, f) := addNum (mode = .rdn) (Num.ofBits .f32 a) (Num.ofBits .f32 b)
  let (r, g) := roundTo .f32 mode n
  (r, f.or g)

/-- The first level of R31 over exact products, then the tree: the sums of pairs round once. -/
def productTree (n : Nat) (ps : List Num) : Nat × Flags :=
  let rec pairs : List Num → List Nat × Flags
    | a :: b :: rest =>
      let (x, f) := addNum false a b
      let (r, g) := roundTo .f32 .rne x
      let (rs, h) := pairs rest
      (r :: rs, (f.or g).or h)
    | [a] =>
      let (r, g) := roundTo .f32 .rne a
      ([r], g)
    | [] => ([], {})
  let (l, f) := pairs ps
  let (r, g) := tree (addF32 .rne) n l
  (r, f.or g)

end Sys2Proof.Machine
end

