-- ==== Sys2Proof/Machine/Pattern.lean ====
section
/-! DEFINITION. Unpack patterns (01 R20 to R22), sparse lines (R23, R24) and MX blocks (R16, R17), as functions of
bits. -/

namespace Sys2Proof.Machine

/-! Unpack patterns (R20). -/

def patP (p : Word) : Nat := (p.extractLsb' 0 7).toNat + 1
def patW (p : Word) : Nat := (p.extractLsb' 19 5).toNat + 1
def patKind (p : Word) : Nat := (p.extractLsb' 24 4).toNat
def patOtype (p : Word) : Nat := (p.extractLsb' 28 4).toNat
def patZ (p : Word) : Nat := (p.extractLsb' 32 8).toNat
/-- The fields in a period. -/
def patE (p : Word) : Nat := patP p / patW p

/-- The patterns that may be written (R21). -/
def patOk (p : Word) : Bool :=
  p.extractLsb' 40 24 = 0 && p.extractLsb' 7 12 = 0 && patKind p ≤ 6 && patOtype p ≤ 5 && patW p ≤ 16 &&
    patW p ≤ patP p && (patKind p ≠ 2 || patW p = 4) && ((patKind p ≠ 3 && patKind p ≠ 4) || patW p = 8) &&
    (patKind p ≠ 5 || patW p = 2) && (patKind p < 2 || 4 < patKind p || 3 ≤ patOtype p)

/-- The element type of an output type. -/
def patEt (p : Word) : BitVec 4 :=
  match patOtype p with
  | 0 => 0 | 1 => 1 | 2 => 2 | 3 => 9 | 4 => 10 | _ => 8

/-- The bits of an output element. -/
def patOut (p : Word) : Nat := etBits (patEt p)

/-- The stream bit at which output element k begins, from the start of the first period (R20). -/
def patBit (p : Word) (k : Nat) : Nat := (k / patE p) * patP p + (k % patE p) * patW p

/-- One field converted to the output type; only saturate and invalid_trit are flags here (R22, 05 R141). -/
def patConvert (p : Word) (field : Nat) : Nat × Flags :=
  let int (v : Int) : Nat × Flags :=
    if patOtype p ≤ 2 then clampInt true (patOut p) v
    else ((roundTo (fmtOf (patEt p)) .rne (Num.ofInt v)).1, {})
  match patKind p with
  | 0 => int (intOf true (patW p) field)
  | 1 => int field
  | 2 => ((roundTo (fmtOf (patEt p)) .rne (Num.ofBits .e2m1 field)).1, {})
  | 3 => ((roundTo (fmtOf (patEt p)) .rne (Num.ofBits .e4m3 field)).1, {})
  | 4 => ((roundTo (fmtOf (patEt p)) .rne (Num.ofBits .e5m2 field)).1, {})
  | 5 =>
    let (r, f) := int (if field = 1 then 1 else if field = 3 then -1 else 0)
    (r, f.or (if field = 2 then flagTrit else {}))
  | _ => int ((field : Int) - patZ p)

/-- The tag that .chk expects of a pattern's source (05 R141). -/
def patTag (p : Word) : BitVec 6 :=
  match patKind p with
  | 2 => 0x0B | 3 => 0x09 | 4 => 0x0A | 5 => 0x10
  | 0 => if patW p = 8 then 0x01 else if patW p = 4 then 0x0F else 0
  | 1 => if patW p = 8 then 0x02 else 0
  | _ => 0

/-- Whether the pattern reads its stream: output k of the outputs of a 256-bit register. -/
def patCount (p : Word) : Nat := 256 / patOut p

/-- The outputs of a pattern from a stream that begins at bit 0 of a number, those whose lowest bit is set in a mask, with
their flags (R22). -/
def patUnpack (p : Word) (bits : Nat) (active : BitVec 256) : BitVec 256 × BitVec 7 :=
  (List.range (patCount p)).foldl (fun (acc : BitVec 256 × BitVec 7) k =>
    if active.getLsbD (k * patOut p) then
      let r := patConvert p (bits / 2 ^ patBit p k % 2 ^ patW p)
      (acc.1 ||| BitVec.ofNat 256 (r.1 * 2 ^ (k * patOut p)), acc.2 ||| r.2.toBits)
    else acc) (0, 0)

/-! Sparse 2:4 (R23, R24). -/

/-- The kept positions of a position code, or none for an invalid code (R23). -/
def posCode (c : Nat) : Option (Nat × Nat) :=
  match c with
  | 0x4 => some (0, 1) | 0x8 => some (0, 2) | 0xC => some (0, 3)
  | 0x9 => some (1, 2) | 0xD => some (1, 3) | 0xE => some (2, 3)
  | _ => none

/-- The size of an element for R24's choice: NaN above every number. Exact magnitudes compare by code, and .i8's -128 has
magnitude 128. -/
def magnitude (et : BitVec 4) (c : Nat) : Nat :=
  if etFloat et then
    let f := fmtOf et
    if (Num.ofBits f c).isNan then 2 ^ f.width else c % 2 ^ (f.width - 1)
  else (intOf (etSigned et) (etBits et) c).natAbs

/-- The position of the larger of two candidates, the lower index on a tie. -/
def larger (m : Nat → Nat) (i j : Nat) : Nat := if m i ≥ m j then i else j

/-- The two kept positions of a group, lower first (R24). -/
def keptOf (et : BitVec 4) (g : Nat → Nat) : Nat × Nat :=
  let m := fun i => magnitude et (g i)
  let a := larger m (larger m (larger m 0 1) 2) 3
  let rest := [0, 1, 2, 3].filter (· ≠ a)
  let b := larger m (larger m (rest.getD 0 0) (rest.getD 1 0)) (rest.getD 2 0)
  (min a b, max a b)

/-- Bits i w to i w + w - 1 of a value. -/
def elem (v : Nat) (w i : Nat) : Nat := (v >>> (i * w)) % 2 ^ w

/-- Elements laid from the least significant end. -/
def pack (w : Nat) : List Nat → Nat
  | [] => 0
  | x :: xs => x % 2 ^ w + 2 ^ w * pack w xs

/-- A sparse line of a dense run: header and body (09 R252). -/
def sparsePack (et : BitVec 4) (groups : Nat) (dense : Nat) : Nat × Nat :=
  let w := etBits et
  let one := fun g =>
    let (lo, hi) := keptOf et (fun p => elem dense w (4 * g + p))
    (hi * 4 + lo, elem dense w (4 * g + lo), elem dense w (4 * g + hi))
  let l := (List.range groups).map one
  (pack 4 (l.map (·.1)), pack (2 * w) (l.map fun x => x.2.1 + 2 ^ w * x.2.2))

/-- The dense run of a sparse line and whether a code was invalid (09 R253). -/
def sparseUnpack (et : BitVec 4) (groups : Nat) (header body : Nat) : Nat × Bool :=
  let w := etBits et
  let one := fun g =>
    match posCode (elem header 4 g) with
    | some (lo, hi) => (elem body w (2 * g) * 2 ^ (w * lo) + elem body w (2 * g + 1) * 2 ^ (w * hi), false)
    | none => (0, true)
  let l := (List.range groups).map one
  (pack (4 * w) (l.map (·.1)), l.any (·.2))

/-! MX blocks (R16, R17). -/

/-- The largest exponent of an MX element format (R17). -/
def mxEmax : Fmt → Int
  | .e4m3 => 8 | .e5m2 => 15 | _ => 2

/-- floor(log2 m 2^e). -/
def floorLog2 (m : Nat) (e : Int) : Int := e + bitLength m - 1

/-- The scale of a block of FP32 codes: none when a source is NaN or infinite (R17). -/
def mxScale (f : Fmt) (xs : List Nat) : Option Nat :=
  if xs.any (fun c => c / 2 ^ 23 % 256 = 255) then none
  else
    let amax := xs.foldl (fun a c => max a (c % 2 ^ 31)) 0
    if amax = 0 then some 0
    else
      match Num.ofBits .f32 amax with
      | .fin _ m e _ => some (min 254 (max 0 (floorLog2 m e - mxEmax f + 127))).toNat
      | _ => none

/-- One element of a block under a scale (R17). -/
def mxElement (f : Fmt) (mode : Mode) (scale : Nat) (c : Nat) : Nat × Flags :=
  match Num.ofBits .f32 c with
  | .fin s m e t => roundTo f mode (.fin s m (e - ((scale : Int) - 127)) t)
  | n => roundTo f mode n

end Sys2Proof.Machine
end

