-- ==== Sys2Proof/Syntax.lean ====
section
/-! DEFINITION. The steps of the KV-OP40 as syntax: one constructor of Instr for each row of spec/opcode_table.json.
Threaded instructions carry the fields of their formats (02 R38, R40), stream words those of R202 and R203, slot
operations those of 08, 09 and 13, and events name what they act on. -/

namespace Sys2Proof

/-- A thread slot: tile id (R4) and slot 0 to 7. -/
structure Who where
  tile : Nat
  slot : Nat
  deriving DecidableEq, Repr

/-- The fields of the 64-bit threaded form below the major opcode (R40). -/
structure VForm where
  /-- wait for outstanding results (R37) -/
  w : Bool
  d : OpCode
  a : OpCode
  b : OpCode
  mask : BitVec 3
  z : Bool
  ka : BitVec 2
  kb : BitVec 2
  et : BitVec 4
  round : BitVec 3
  imm : BitVec 13
  deriving DecidableEq, Repr

/-- The scalar A-format operands with the wait marker (R38). -/
structure AForm where
  w : Bool
  d : Reg
  a : Reg
  b : Reg
  deriving DecidableEq, Repr

/-- The I-format operands with a 13-bit immediate (R38). -/
structure IForm where
  w : Bool
  d : Reg
  a : Reg
  imm : BitVec 13
  deriving DecidableEq, Repr

/-- The M-format operands (R38). -/
structure MForm where
  w : Bool
  d : Reg
  seg : BitVec 3
  base : Reg
  off : BitVec 10
  deriving DecidableEq, Repr

/-- The B-format operands (R38). -/
structure BForm where
  w : Bool
  a : Reg
  b : Reg
  off : BitVec 13
  deriving DecidableEq, Repr

/-- The operands of the atomics and of CAS: A format with the segment in func[7:5] (R102, R104). -/
structure AtForm where
  w : Bool
  d : Reg
  a : Reg
  b : Reg
  seg : BitVec 3
  deriving DecidableEq, Repr

/-- The operands of the copy-engine and fabric transfers: segments S in func[7:5] and T in func[4:2] (R265, R393). -/
structure CForm where
  w : Bool
  d : Reg
  a : Reg
  b : Reg
  segS : BitVec 3
  segT : BitVec 3
  deriving DecidableEq, Repr

/-- The operands of the VT arithmetic operations (R247). -/
structure VtForm where
  d : BitVec 5
  a : BitVec 5
  b : BitVec 5
  /-- false RNE, true RTZ -/
  rnd : Bool
  /-- false FP32, true INT32 -/
  int : Bool
  deriving DecidableEq, Repr

/-- A token of an aligned group (R379); group region k is made up of the k-th region of every member (R380). -/
inductive Token where
  /-- freeze of group region k, at region cycle t of the closing tile -/
  | freeze (k t : Nat)
  /-- group region k resumes at a group time -/
  | resume (k time : Nat)
  /-- a region fault of a member at region cycle t, or a debug halt -/
  | halt (k t : Nat) (debug : Bool)
  | abort (k : Nat)
  /-- the sender's group index, its region's place k, and its group time -/
  | ready (index k time : Nat)
  /-- the multiplier that a member wants (sent up), or the one to be applied at a group time (sent down) -/
  | clock (member m time : Nat)
  deriving DecidableEq, Repr

/-- A thread of another package: its rank, tile and slot. -/
structure FarThread where
  rank : Nat
  tile : Nat
  slot : Nat
  deriving DecidableEq, Repr

/-- What the other members of a group bring to S: their largest tdepth, and their largest class 0 latency from a tile to a timed link
port (R379). -/
structure GroupSpan where
  deepest : Nat
  farthest : Nat
  deriving DecidableEq, Repr

/-- What a host read names: an HBM data address, or a register of the package page by its offset (15 R360). -/
inductive HostPlace where
  | data (addr : Nat)
  | page (off : Nat)
  deriving DecidableEq, Repr

/-- What a far package asks of this one (R388, R389, R393 to R395). -/
inductive RemoteOp where
  | load (size : Nat)
  | probe
  | store (data : Vec) (bytes : BitVec 32) (tag : Option (BitVec 6))
  | atomic (op : Nat) (wide : Bool) (operand : Word) (expected : Word)
  | put (granules : List (Vec × BitVec 32)) (flag : Option Nat)
  | get (granules : Nat)
  deriving DecidableEq, Repr

/-- How a far package answered (R389, R390, R394). -/
inductive RemoteAnswer where
  | data (granules : List (Vec × BitVec 32)) (home3 : Bool)
  | old (value : Word) (flags : BitVec 7)
  | done
  | refused
  /-- an atomic found a granule whose seal does not hold (R105) -/
  | badSeal (sub : BitVec 4)
  /-- a packet was dropped at the code of this index (R287) -/
  | dropped (index : Nat)
  deriving DecidableEq, Repr

/-- What a lane failure takes down (R355). -/
inductive LaneOf where
  | crossing (cluster dir : Nat)
  | channel (pc : Nat)
  | port (p : Nat)
  deriving DecidableEq, Repr

/-- A register that the debug interface reads or writes in a stopped thread (R348, R350). -/
inductive DebugReg where
  | pc
  | x (n : Nat)
  | v (n : Nat)
  | k (n : Nat)
  | seg (n : Nat)
  | cr (n : Nat)
  | gen (n : Nat)
  /-- field j of an entry of the shape table -/
  | shape (n j : Nat)
  deriving DecidableEq, Repr

/-- A slot operation as a sticky field or a bundle holds it (08 R206, R207); lb tells slot LB from slot LA. -/
inductive SlotOp where
  | mma (acc ringa ringb : BitVec 2) (fmt : BitVec 4) (za zb : BitVec 3) (s : BitVec 2) (fresh sat : Bool)
  | mmasp (acc ringa ringb : BitVec 2) (fmt : BitVec 4) (fresh sat : Bool)
  | mmat (acc ringa ringb : BitVec 2) (fresh sat : Bool)
  | mzero (acc : BitVec 2) | mfy (acc : BitVec 2) (row : BitVec 3) (y : BitVec 5)
  | vtAdd (f : VtForm) | vtSub (f : VtForm) | vtMul (f : VtForm) | vtFma (f : VtForm) | vtMax (f : VtForm) | vtMin (f : VtForm)
  | vtExp2 (f : VtForm)
  | vtCvt (d a : BitVec 5) (dst src : BitVec 4) (part : BitVec 2) (rnd : Bool)
  | vtRmax (f : VtForm) | vtRsum (f : VtForm)
  | vtBcast (d a : BitVec 5) (e : BitVec 3) | yfa (d : BitVec 5) (acc : BitVec 2) (row : BitVec 3)
  | ldr (lb : Bool) (g : BitVec 3) (ring n : BitVec 2) | ldy (lb : Bool) (g : BitVec 3) (y : BitVec 5)
  | ldu (lb : Bool) (g : BitVec 3) (y : BitVec 5) (pat : BitVec 3) | sty (lb : Bool) (g : BitVec 3) (y : BitVec 5) (tag : BitVec 6)
  | agset (lb : Bool) (g : BitVec 3) (granule : BitVec 14)
  | hld (lb : Bool) (h l : BitVec 3) (n : BitVec 3) (lead : BitVec 13) | hst (lb : Bool) (h l : BitVec 3) (n : BitVec 3) (lead : BitVec 13)
  | zld (z g : BitVec 3) | zsplat (z : BitVec 3) (code : BitVec 8) | zfy (z : BitVec 3) (y : BitVec 5)
  | lsend (port : BitVec 5) (g : BitVec 3) (n : BitVec 2) | lrecv (port : BitVec 5) (g : BitVec 3) (n : BitVec 2)
  | lpass (portI portO : BitVec 5) (n : BitVec 2)
  | cset (c : BitVec 3) (value : BitVec 28) | cfp (c : BitVec 3) (p : BitVec 4) | cfy (c : BitVec 3) (y : BitVec 5) (e : BitVec 3)
  | wopen (win : BitVec 4) (granule : BitVec 14) | wcloseDefault (win : BitVec 4) | wcloseStall (win : BitVec 4) (timeout : BitVec 20)
  | swaph (cond : BitVec 2) (p : BitVec 4)
  deriving DecidableEq, Repr

/-- A completion, an arrival or an outside act that the machine holds until it is due (00 R11). -/
inductive Event where
  | longResultLands (who : Who) (tok : Nat) | storeReleasePerforms (id : Nat) | deferredArmPush (tile : Nat)
  | atomicAtOwner (id : Nat) | trapEntry (who : Who) | interrupt (who : Who) | timerInterrupt (who : Who)
  | forwardingDelivery (id : Nat) | itemAdvanceReport (who : Who)
  | portSendArrival (pkt : Nat) | doorbellArrival (pkt : Nat)
  | streamPrefetch (tile s : Nat) | streamDrain (tile s : Nat)
  | spawnStateArrival (pkt : Nat) | stealRequestArrival (pkt : Nat) | victimRestore (who : Who)
  | barrierArrival (cluster num serial : Nat) | waitcReread (who : Who) | waitcTimeout (who : Who)
  | rangeLockRetry (cluster op : Nat) | engineAccept (cluster op : Nat) | engineGranuleWrite (cluster op : Nat)
  | portAccess (id : Nat) | packetHop (pkt : Nat) | routeInvalidNotice (pkt index : Nat)
  | done (launch tile : Nat) | joinUpdate (launch : Nat) | launchAbandon (launch cls : Nat)
  | regionStart (region : Nat)
  | timedResultLands (tile id : Nat) | hldDeadline (tile id : Nat) | hbmBurstComplete (id : Nat) | hbmCommandSlot (pc : Nat)
  | linkGranuleArrival (tile port : Nat) (data : Vec) (sl : BitVec 32) (damaged : Bool)
  | swapBoundary (tile : Nat)
  | regionFault (region tile : Nat) (cause sub : Nat) (info : Word) (addr : Nat)
  | regionHalt (region : Nat) | regionRollback (region : Nat) | stewardRegionTrap (region : Nat)
  | freeze (region : Nat) | freezeEnd (region : Nat) | postTimeout (tile win : Nat)
  | postArrival (id : Nat)
  | tilePartDone (tile : Nat) | regionEnd (region : Nat)
  | traceRingWrite (die tile : Nat) | counterWrap (tile n : Nat) | dump (die : Nat)
  | watchdogWrite (die n : Nat) (value : Word) | watchdogExpiry (die n : Nat)
  | hostWrite (addr : Nat) (bytes : List Byte) | hostRead (place : HostPlace) (size : Nat) | hostDoorbell (tile slot : Nat)
  | jobRecordTake | endJob
  | trainPort (p : Nat) (trained : Option Nat) | formGroup (reached : Bool) (others : GroupSpan) (tdepth tparent tchild : Nat) | leaveGroup
  | attestReport | attestCertificate | packagePageWrite (off : Nat) (value : Word)
  | boot | functionReady (bit : Nat) (ok : Bool) | powerSample (milliwatts : Nat)
  | portLossOfLock (p : Nat) | tokenArrival (t : Token) | groupClockChange (m : Nat)
  | remoteRequest (src tile slot : Nat) (va : Nat) (op : RemoteOp) | fabricTimeout (id : Nat)
  | pageMove | ueReceive (mode : Nat) (src : FarThread) (va : Nat) (op : RemoteOp)
  | debugStopSlot (who : Who) (id : Option Nat) | debugResume (who : Who) | debugRegisterWrite (who : Who) (r : DebugReg) (value : Vec)
  | debugRegisterRead (who : Who) (r : DebugReg) | debugLockTableRead (tile entry : Nat)
  | debugRegionHalt (region : Nat) | debugRegionResume (region : Nat)
  | tfenceValidationLanding (who : Who) | vstmDestinationWrite (id : Nat)
  | remoteReplyArrival (id : Nat) (ans : RemoteAnswer)
  | clockStopEnd | coolantTemperatureLimit | bootFlashRecoveryWrite (copy : Nat) (image : List Byte) | laneFailure (l : LaneOf)
  -- sub-steps of rows: an access reaches a tile's bank port (07 R171); a thread that has become fatal ends (06 R161); the
  -- dispatcher serves its ring (15 R367); the Idnen port serves its next access (R361); a publication of the map ends (11 R290)
  | bankAccess (id : Nat) | threadFatal (who : Who) | dispatch | hostServe | mapPublished
  deriving DecidableEq, Repr

/-- The steps of the machine, one constructor for each row of the opcode table, in the table's order. -/
inductive Instr where
  -- 32-bit threaded instructions (02 R50)
  | add (f : AForm) | sub (f : AForm) | and (f : AForm) | or (f : AForm) | xor (f : AForm) | andn (f : AForm)
  | sll (f : AForm) | srl (f : AForm) | sra (f : AForm) | slt (f : AForm) | sltc (f : AForm)
  | min (f : AForm) | max (f : AForm) | minc (f : AForm) | maxc (f : AForm)
  | mul (f : AForm) | mulh (f : AForm) | mulhc (f : AForm) | div (f : AForm) | divc (f : AForm) | rem (f : AForm) | remc (f : AForm)
  | clz (w : Bool) (d a : Reg) | ctz (w : Bool) (d a : Reg) | cntb (w : Bool) (d a : Reg) | rev8 (w : Bool) (d a : Reg)
  | bext (f : AForm) | bextc (f : AForm) | bins (f : AForm)
  | shapew (w : Bool) (entry : BitVec 3) (a b : Reg)
  | addi (f : IForm) | andi (f : IForm) | ori (f : IForm) | xori (f : IForm)
  | slli (w : Bool) (d a : Reg) (s : BitVec 6) | srli (w : Bool) (d a : Reg) (s : BitVec 6) | srai (w : Bool) (d a : Reg) (s : BitVec 6)
  | slti (f : IForm) | sltci (f : IForm) | muli (f : IForm)
  | beq (f : BForm) | bne (f : BForm) | blt (f : BForm) | bge (f : BForm) | bltc (f : BForm) | bgec (f : BForm)
  | j (w : Bool) (off : BitVec 23) | jal (w : Bool) (off : BitVec 23)
  | jr (f : IForm) | loop (f : IForm)
  | item (w : Bool) (d : Reg) (off : BitVec 13) | xit (w : Bool) (kill : Bool) | rmark (w : Bool)
  | ld8 (f : MForm) | ld16 (f : MForm) | ld32 (f : MForm) | ld64 (f : MForm)
  | ldc8 (f : MForm) | ldc16 (f : MForm) | ldc32 (f : MForm)
  | st8 (f : MForm) | st16 (f : MForm) | st32 (f : MForm) | st64 (f : MForm)
  | ldbr (w : Bool) (seg : BitVec 3) (base : Reg) (off : BitVec 10)
  | aadd64 (f : AtForm) | aand64 (f : AtForm) | aor64 (f : AtForm) | axor64 (f : AtForm) | amin64 (f : AtForm)
  | amax64 (f : AtForm) | aminc64 (f : AtForm) | amaxc64 (f : AtForm) | aswp64 (f : AtForm)
  | aadd32 (f : AtForm) | aand32 (f : AtForm) | aor32 (f : AtForm) | axor32 (f : AtForm) | amin32 (f : AtForm)
  | amax32 (f : AtForm) | aminc32 (f : AtForm) | amaxc32 (f : AtForm) | aswp32 (f : AtForm)
  | afadd (f : AtForm) | cas64 (f : AtForm) | cas32 (f : AtForm)
  | fence (w : Bool) (kind : BitVec 2) (scope : BitVec 3) | drain (w : Bool) (scope : BitVec 3)
  | barTile (w : Bool) (a : Reg) (num : BitVec 4) | barCluster (w : Bool) (a : Reg) (num : BitVec 4)
  | post (w : Bool) (s t : Reg) (p : BitVec 4) | postAll (w : Bool) (s t : Reg) (p : BitVec 4)
  | spawn (f : AForm) (slot : BitVec 3) | spawnPort (f : AForm) (port slot : BitVec 3) | spawnEvict (f : AForm) (seg slot : BitVec 3)
  | fork (w : Bool) (a : Reg) (ty : BitVec 10) | popc (w : Bool) (off : BitVec 13)
  | steal (w : Bool) (d : Reg) (port : BitVec 3) | stealLocal (w : Bool) (d : Reg)
  | arm (f : AForm)
  | qcfgSet (w : Bool) (a : Reg) (q : BitVec 4) | qcfgGet (w : Bool) (d : Reg) (q : BitVec 4) | qcfgPort (w : Bool) (a : Reg) (port : BitVec 3)
  | scfgBind (w : Bool) (a : Reg) (seg : BitVec 3) (s : BitVec 4) | scfgFree (w : Bool) (s : BitVec 4)
  | fwd (w : Bool) (mask : BitVec 8)
  | launch (w : Bool) (d a : Reg) (seg : BitVec 3)
  | tfence (w : Bool) | tfenceResume (w : Bool) | tfenceAbort (w : Bool)
  | waitc (f : AtForm) (cond : BitVec 3)
  | dbell (w : Bool) (d a : Reg) (port : BitVec 3)
  | cpy (f : CForm) | cpym (f : CForm) | cpyf (f : CForm) | cmpr (f : CForm) | dcmp (f : CForm)
  | fill (f : AtForm)
  | rput (f : CForm) | rget (f : CForm)
  | walk (f : AtForm)
  | stepDie (w : Bool) | stepPackage (w : Bool)
  | rankw (w : Bool) (a b : Reg) | rankwInv (w : Bool) (a : Reg)
  | crr (w : Bool) (d : Reg) (r : BitVec 12) | crw (w : Bool) (a : Reg) (r : BitVec 12)
  | tret (w : Bool) | trap (w : Bool) (imm : BitVec 13) | wfi (w : Bool)
  | trc (w : Bool) (a b : Reg) (code : BitVec 8)
  | pmcs (w : Bool) (a b : Reg) (n : BitVec 2) | pmcr (w : Bool) (d : Reg) (n : BitVec 2)
  | rplyStart (w : Bool) (d a : Reg) | rplyRestore (w : Bool) (d : Reg) | rplyEnd (w : Bool) (d : Reg)
  | segw (w : Bool) (a b : Reg) (seg : BitVec 3)
  | dstop (w : Bool) (d a : Reg) (id : BitVec 12) | dstopTrap (w : Bool) (d a : Reg) (id : BitVec 12)
  | isld (f : AtForm)
  -- 64-bit threaded instructions (02 R52)
  | vaddFloat (f : VForm) | vsubFloat (f : VForm) | vmulFloat (f : VForm) | vdiv (f : VForm)
  | vfma (f : VForm) | vfms (f : VForm) | vfnma (f : VForm)
  | vminFloat (f : VForm) | vmaxFloat (f : VForm) | vminn (f : VForm) | vmaxn (f : VForm)
  | vabs (f : VForm) | vneg (f : VForm) | vcmpFloat (f : VForm) | vdotFloat (f : VForm) | vsqrt (f : VForm)
  | vaddInt (f : VForm) | vsubInt (f : VForm) | vmulInt (f : VForm) | vmulh (f : VForm) | vmad (f : VForm)
  | vadds (f : VForm) | vsubs (f : VForm) | vminInt (f : VForm) | vmaxInt (f : VForm)
  | vand (f : VForm) | vor (f : VForm) | vxor (f : VForm) | vandn (f : VForm)
  | vsll (f : VForm) | vsrl (f : VForm) | vsra (f : VForm)
  | vcmpInt (f : VForm) | vdotInt (f : VForm)
  | vmov (f : VForm) | vmovm (f : VForm) | vperm (f : VForm) | vperm2 (f : VForm) | vslide (f : VForm) | vsel (f : VForm)
  | vred (f : VForm) | vscan (f : VForm) | vbcast (f : VForm)
  | kand (f : VForm) | kor (f : VForm) | kxor (f : VForm) | kandn (f : VForm) | knot (f : VForm) | kmov (f : VForm)
  | kfromx (f : VForm) | ktox (f : VForm)
  | vmovx (f : VForm)
  | vld (f : VForm) | vst (f : VForm) | vldx (f : VForm) | vgath (f : VForm) | vscat (f : VForm) | vstm (f : VForm)
  | vcvt (f : VForm) | vcvtw (f : VForm) | vcvtn (f : VForm) | vmxq (f : VForm)
  | vexp2 (f : VForm) | vlog2 (f : VForm) | vrcp (f : VForm) | vrsq (f : VForm)
  | vspk (f : VForm) | vupk (f : VForm) | tblwB (f : VForm) | tblwS (f : VForm) | upatw (f : VForm)
  | li (w : Bool) (d : OpCode) (imm : BitVec 46) | liu (w : Bool) (d : OpCode) (imm : BitVec 18)
  | decomp (f : VForm)
  | scalar64Add (f : VForm) | scalar64Sub (f : VForm) | scalar64And (f : VForm) | scalar64Or (f : VForm)
  | scalar64Xor (f : VForm) | scalar64Andn (f : VForm) | scalar64Sll (f : VForm) | scalar64Srl (f : VForm)
  | scalar64Sra (f : VForm) | scalar64Slt (f : VForm) | scalar64Sltc (f : VForm) | scalar64Min (f : VForm)
  | scalar64Max (f : VForm) | scalar64Minc (f : VForm) | scalar64Maxc (f : VForm)
  -- stream words (08 R202, R203)
  | issue (index : BitVec 9) (rep : BitVec 5) | issuel (index : BitVec 9) (rep : BitVec 21)
  | mark (id : BitVec 14) | streamEnd | align (a : BitVec 5) | idle (n : BitVec 9)
  | streamLoop (c : BitVec 3) (off : BitVec 16) | jump (off : BitVec 16) | brp (cond : BitVec 2) (p : BitVec 4) (off : BitVec 16)
  -- slot operations (08 R213); lb tells slot LB from slot LA
  | mma (acc ringa ringb : BitVec 2) (fmt : BitVec 4) (za zb : BitVec 3) (s : BitVec 2) (fresh sat : Bool)
  | mmasp (acc ringa ringb : BitVec 2) (fmt : BitVec 4) (fresh sat : Bool)
  | mmat (acc ringa ringb : BitVec 2) (fresh sat : Bool)
  | mzero (acc : BitVec 2) | mfy (acc : BitVec 2) (row : BitVec 3) (y : BitVec 5)
  | vtAdd (f : VtForm) | vtSub (f : VtForm) | vtMul (f : VtForm) | vtFma (f : VtForm) | vtMax (f : VtForm) | vtMin (f : VtForm)
  | vtExp2 (f : VtForm)
  | vtCvt (d a : BitVec 5) (dst src : BitVec 4) (part : BitVec 2) (rnd : Bool)
  | vtRmax (f : VtForm) | vtRsum (f : VtForm)
  | vtBcast (d a : BitVec 5) (e : BitVec 3) | yfa (d : BitVec 5) (acc : BitVec 2) (row : BitVec 3)
  | ldr (lb : Bool) (g : BitVec 3) (ring n : BitVec 2) | ldy (lb : Bool) (g : BitVec 3) (y : BitVec 5)
  | ldu (lb : Bool) (g : BitVec 3) (y : BitVec 5) (pat : BitVec 3) | sty (lb : Bool) (g : BitVec 3) (y : BitVec 5) (tag : BitVec 6)
  | agset (lb : Bool) (g : BitVec 3) (granule : BitVec 14)
  | hld (lb : Bool) (h l : BitVec 3) (n : BitVec 3) (lead : BitVec 13) | hst (lb : Bool) (h l : BitVec 3) (n : BitVec 3) (lead : BitVec 13)
  | zld (z g : BitVec 3) | zsplat (z : BitVec 3) (code : BitVec 8) | zfy (z : BitVec 3) (y : BitVec 5)
  | lsend (port : BitVec 5) (g : BitVec 3) (n : BitVec 2) | lrecv (port : BitVec 5) (g : BitVec 3) (n : BitVec 2)
  | lpass (portI portO : BitVec 5) (n : BitVec 2)
  | cset (c : BitVec 3) (value : BitVec 28) | cfp (c : BitVec 3) (p : BitVec 4) | cfy (c : BitVec 3) (y : BitVec 5) (e : BitVec 3)
  | wopen (win : BitVec 4) (granule : BitVec 14) | wcloseDefault (win : BitVec 4) | wcloseStall (win : BitVec 4) (timeout : BitVec 20)
  | swaph (cond : BitVec 2) (p : BitVec 4)
  -- events
  | longResultLands (who : Who) (tok : Nat) | storeReleasePerforms (id : Nat) | deferredArmPush (tile : Nat)
  | atomicAtOwner (id : Nat) | trapEntry (who : Who) | interrupt (who : Who) | timerInterrupt (who : Who)
  | forwardingDelivery (id : Nat) | itemAdvanceReport (who : Who)
  | portSendArrival (pkt : Nat) | doorbellArrival (pkt : Nat)
  | streamPrefetch (tile s : Nat) | streamDrain (tile s : Nat)
  | spawnStateArrival (pkt : Nat) | stealRequestArrival (pkt : Nat) | victimRestore (who : Who)
  | barrierArrival (cluster num serial : Nat) | waitcReread (who : Who) | waitcTimeout (who : Who)
  | rangeLockRetry (cluster op : Nat) | engineAccept (cluster op : Nat) | engineGranuleWrite (cluster op : Nat)
  | portAccess (id : Nat) | packetHop (pkt : Nat) | routeInvalidNotice (pkt index : Nat)
  | done (launch tile : Nat) | joinUpdate (launch : Nat) | launchAbandon (launch cls : Nat)
  | regionStart (region : Nat)
  | timedResultLands (tile id : Nat) | hldDeadline (tile id : Nat) | hbmBurstComplete (id : Nat) | hbmCommandSlot (pc : Nat)
  | linkGranuleArrival (tile port : Nat) (data : Vec) (sl : BitVec 32) (damaged : Bool)
  | swapBoundary (tile : Nat)
  | regionFault (region tile : Nat) (cause sub : Nat) (info : Word) (addr : Nat)
  | regionHalt (region : Nat) | regionRollback (region : Nat) | stewardRegionTrap (region : Nat)
  | freeze (region : Nat) | freezeEnd (region : Nat) | postTimeout (tile win : Nat)
  | postArrival (id : Nat)
  | tilePartDone (tile : Nat) | regionEnd (region : Nat)
  | traceRingWrite (die tile : Nat) | counterWrap (tile n : Nat) | dump (die : Nat)
  | watchdogWrite (die n : Nat) (value : Word) | watchdogExpiry (die n : Nat)
  | hostWrite (addr : Nat) (bytes : List Byte) | hostRead (place : HostPlace) (size : Nat) | hostDoorbell (tile slot : Nat)
  | jobRecordTake | endJob
  | trainPort (p : Nat) (trained : Option Nat) | formGroup (reached : Bool) (others : GroupSpan) (tdepth tparent tchild : Nat) | leaveGroup
  | attestReport | attestCertificate | packagePageWrite (off : Nat) (value : Word)
  | boot | functionReady (bit : Nat) (ok : Bool) | powerSample (milliwatts : Nat)
  | portLossOfLock (p : Nat) | tokenArrival (t : Token) | groupClockChange (m : Nat)
  | remoteRequest (src tile slot : Nat) (va : Nat) (op : RemoteOp) | fabricTimeout (id : Nat)
  | pageMove | ueReceive (mode : Nat) (src : FarThread) (va : Nat) (op : RemoteOp)
  | debugStopSlot (who : Who) (id : Option Nat) | debugResume (who : Who) | debugRegisterWrite (who : Who) (r : DebugReg) (value : Vec)
  | debugRegisterRead (who : Who) (r : DebugReg) | debugLockTableRead (tile entry : Nat)
  | debugRegionHalt (region : Nat) | debugRegionResume (region : Nat)
  | tfenceValidationLanding (who : Who) | vstmDestinationWrite (id : Nat)
  | remoteReplyArrival (id : Nat) (ans : RemoteAnswer)
  | clockStopEnd | coolantTemperatureLimit | bootFlashRecoveryWrite (copy : Nat) (image : List Byte) | laneFailure (l : LaneOf)
  deriving DecidableEq, Repr

end Sys2Proof
end

