-- ==== Sys2Proof/WellFormed.lean ====
section
/-! DEFINITION. Which instructions are well formed: step 1 of 02 R49 for the threaded ones, 08 R205 for stream words,
08 R209 for slot operations, and the bounds of what an event names. Operand kinds and privilege (steps 2 and 3 of R49)
need the thread and are checked where the instruction executes. -/

namespace Sys2Proof

/-- The floating element types a floating major accepts (05 R118). -/
def isFlt3 (et : BitVec 4) : Bool := et = 8 || et = 9 || et = 10
/-- A floating element type: codes 0x8 to 0xD (02 R45). -/
def isFltType (et : BitVec 4) : Bool := 8 ≤ et.toNat && et.toNat ≤ 13
/-- The element types .i8 to .c64 (05 R123). -/
def isInt8 (et : BitVec 4) : Bool := et.toNat < 8
/-- A destination type on which stochastic rounding is legal (01 R25). -/
def isSrType (et : BitVec 4) : Bool := 9 ≤ et.toNat && et.toNat ≤ 13

/-- The bits of an element type (02 R45). -/
def etWidth (et : BitVec 4) : Nat :=
  match et.toNat with
  | 0 => 8 | 1 => 16 | 2 => 32 | 3 => 64 | 4 => 8 | 5 => 16 | 6 => 32 | 7 => 64
  | 8 => 32 | 9 => 16 | 10 => 16 | 11 => 8 | 12 => 8 | _ => 4

namespace VForm

/-- Round code 7, and z without a mask, are illegal in every instruction (02 R44, R46). -/
def base (f : VForm) : Bool := f.round ≠ 7 && (f.mask ≠ 0 || !f.z)
/-- The vector memory majors read round[13] as .chk and reserve round[15:14] (02 R47); z without a mask stays illegal in VST and VSCAT too
(log 89). -/
def memBase (f : VForm) : Bool := f.round.toNat < 2 && (f.mask ≠ 0 || !f.z)
def noB (f : VForm) : Bool := f.b = 0 && f.kb = 0
def noMask (f : VForm) : Bool := f.mask = 0 && !f.z
/-- Code 5 on an instruction that rounds under its field (01 R25). -/
def sr (f : VForm) : Bool := f.round ≠ 5 || isSrType f.et
/-- mask, z, ka, kb, etype and round all zero. -/
def plain (f : VForm) : Bool := f.noMask && f.ka = 0 && f.kb = 0 && f.et = 0 && f.round = 0

/-- A two or three source floating operation (05 R118). -/
def fltOp (f : VForm) : Bool := f.base && isFlt3 f.et && f.imm = 0 && f.sr
/-- Minimum and maximum, which round nothing (05 R118). -/
def fltExact (f : VForm) : Bool := f.base && isFlt3 f.et && f.imm = 0
/-- Square root and the SFU operations (05 R118, R126). -/
def fltUnary (f : VForm) : Bool := f.base && isFlt3 f.et && f.imm = 0 && f.sr && f.noB
/-- VABS and VNEG with their func (05 R119). -/
def fltSign (f : VForm) (func : BitVec 13) : Bool := f.base && isFlt3 f.et && f.imm = func && f.noB
def intOp (f : VForm) (func : BitVec 13) : Bool := f.base && isInt8 f.et && f.imm = func
def bitOp (f : VForm) (func : BitVec 13) : Bool := f.base && (isInt8 f.et || f.et = 14 || f.et = 15) && f.imm = func
/-- A mask operation: only d, a and b are free (05 R135). -/
def kop (f : VForm) (func : BitVec 13) : Bool := f.plain && f.imm = func
def kopUnary (f : VForm) (func : BitVec 13) : Bool := f.kop func && f.b = 0
/-- A reduction's operation under its etype (05 R133). -/
def redOp (f : VForm) : Bool :=
  if isFltType f.et then f.imm.toNat < 5 else f.imm.toNat < 8 && f.imm ≠ 3 && f.imm ≠ 4
/-- A scan's operation under its etype (05 R134). -/
def scanOp (f : VForm) : Bool :=
  if isFltType f.et then f.imm.toNat < 3 && (f.imm ≠ 0 || f.sr) else f.imm.toNat < 8 && f.imm ≠ 3 && f.imm ≠ 4

/-- The source type of a conversion: a code of R45, or 16 for .t2 (05 R127). -/
def srcType (f : VForm) : Nat := f.imm.toNat % 32
def srcWidth (f : VForm) : Nat := if f.srcType = 16 then 2 else etWidth (BitVec.ofNat 4 f.srcType)
/-- A conversion that rounds nothing: its result is exact for every value of its source, or it clamps integers (01 R25, 05 R127). -/
def cvtExact (f : VForm) : Bool :=
  f.et.toNat = f.srcType ||
    (match f.et.toNat with
      | 8 => !([2, 3, 6, 7].contains f.srcType)
      | 9 => [0, 4, 11, 12, 13, 14, 15, 16].contains f.srcType
      | 10 => [0, 4, 11, 12, 13, 14, 15, 16].contains f.srcType
      | 11 => [13, 14, 15, 16].contains f.srcType
      | 12 => [13, 14, 16].contains f.srcType
      | 13 => f.srcType = 16
      | _ => f.srcType < 8 || 14 ≤ f.srcType)
/-- The fields of VCVT, VCVTW and VCVTN before their ratio (05 R127). -/
def cvtBase (f : VForm) : Bool := f.base && f.imm.toNat ≤ 16 && f.noB && (f.sr || f.cvtExact)
def ratioOk (wide narrow : Nat) : Bool := wide = 2 * narrow || wide = 4 * narrow || wide = 8 * narrow
def gather (f : VForm) : Bool := f.memBase && (f.et = 2 || f.et = 3 || f.et = 6 || f.et = 7 || f.et = 8)
/-- A store's second tag column ends at code 0xB (05 R138). -/
def storeTag (f : VForm) : Bool := f.round = 0 || f.et.toNat < 12
def sparse (f : VForm) : Bool :=
  f.round ≠ 7 && f.noMask && f.noB && f.imm = 0 && (f.et = 0 || f.et = 9 || f.et = 11 || f.et = 12)
/-- Major 0x63 (04 R90). -/
def scalar64 (f : VForm) (func : BitVec 13) : Bool := f.plain && f.imm = func

end VForm

/-- The fields of a VT operation (09 R247). -/
def VtForm.ok (f : VtForm) (one noRnd : Bool) : Bool :=
  !(f.rnd && f.int) && !(noRnd && f.rnd) && (!one || f.b = 0)

/-- The types a VT conversion names (09 R250). -/
def vtCvtType (c : BitVec 4) : Bool := c = 0 || c = 2 || (8 ≤ c.toNat && c.toNat ≤ 13)
/-- The ratio of a VT conversion (09 R250). -/
def vtCvtRatio (dst src : BitVec 4) : Nat :=
  if etWidth src ≤ etWidth dst then etWidth dst / etWidth src else etWidth src / etWidth dst

/-- The parts of an MX format (09 R239). -/
def mmaOk (ringa ringb : BitVec 2) (fmt : BitVec 4) (za zb : BitVec 3) (s : BitVec 2) (sat : Bool) : Bool :=
  fmt.toNat < 12 && ringa ≠ ringb && (fmt = 6 || fmt = 7 || fmt = 9 || (za = 0 && zb = 0 && s = 0)) &&
    (!sat || 10 ≤ fmt.toNat)

def mmaspOk (ringa ringb : BitVec 2) (fmt : BitVec 4) (sat : Bool) : Bool :=
  ringa ≠ ringb && (fmt = 0 || (2 ≤ fmt.toNat && fmt.toNat ≤ 5) || fmt = 10) && (!sat || fmt = 10)

/-- Ports 28 to 31 are reserved (08 R222); which ports a tile has is the machine's to say. -/
def portOk (p : BitVec 5) : Bool := p.toNat < 28

def tileOk (t : Nat) : Bool := t < 40960
def Who.ok (w : Who) : Bool := tileOk w.tile && w.slot < 8

/-- The limits of R209 on a slot operation's operands. -/
def SlotOp.ok : SlotOp → Bool
  | .mma _ ra rb fmt za zb s _ sat => mmaOk ra rb fmt za zb s sat
  | .mmasp _ ra rb fmt _ sat => mmaspOk ra rb fmt sat
  | .mmat _ ra rb _ _ => ra ≠ rb
  | .vtAdd f | .vtSub f | .vtMul f | .vtFma f => f.ok false false
  | .vtMax f | .vtMin f => f.ok false true
  | .vtExp2 f => f.ok true true && !f.int
  | .vtRmax f => f.ok true true
  | .vtRsum f => f.ok true false
  | .vtCvt _ _ dst src part _ => vtCvtType dst && vtCvtType src && part.toNat < vtCvtRatio dst src
  | .sty _ _ _ tag => tag.toNat < 23 || tag = 63
  | .agset _ _ granule => granule.toNat < 12288
  | .hld _ _ _ _ lead | .hst _ _ _ _ lead => lead ≠ 0
  | .lsend port _ _ | .lrecv port _ _ => portOk port
  | .lpass i o _ => portOk i && portOk o
  | .wopen _ granule => granule.toNat < 12288
  | .wcloseStall _ timeout => timeout ≠ 0
  | .swaph cond p => cond ≠ 3 && (cond ≠ 0 || p = 0)
  | _ => true

/-- The well-formed instructions. -/
def WellFormed : Instr → Bool
  | .fence _ kind scope => kind ≠ 0 && scope ≠ 7
  | .drain _ scope => scope ≠ 7
  | .waitc _ cond => cond.toNat < 6
  -- 64-bit threaded (02 R52)
  | .vaddFloat f | .vsubFloat f | .vmulFloat f | .vdiv f | .vfma f | .vfms f | .vfnma f => f.fltOp
  | .vminFloat f | .vmaxFloat f | .vminn f | .vmaxn f => f.fltExact
  | .vabs f => f.fltSign 0
  | .vneg f => f.fltSign 1
  | .vcmpFloat f => f.base && isFlt3 f.et && f.imm.toNat < 8
  | .vdotFloat f => f.base && isSrType f.et && f.imm = 0 && f.round ≠ 5
  | .vsqrt f | .vexp2 f | .vlog2 f | .vrcp f | .vrsq f => f.fltUnary
  | .vaddInt f | .vsubInt f | .vmulInt f | .vmulh f | .vmad f | .vadds f | .vsubs f | .vminInt f | .vmaxInt f => f.intOp 0
  | .vand f => f.bitOp 0
  | .vor f => f.bitOp 1
  | .vxor f => f.bitOp 2
  | .vandn f => f.bitOp 3
  | .vsll f => f.intOp 0
  | .vsrl f => f.intOp 1
  | .vsra f => f.intOp 2
  | .vcmpInt f => f.base && isInt8 f.et && f.imm.toNat < 6
  | .vdotInt f =>
    f.base && (f.et = 0 || f.et = 1 || f.et = 4 || f.et = 5 || f.et = 14 || f.et = 15) && f.imm = 0
  | .vmov f => f.base && f.noB && f.imm = 0
  | .vmovm f => f.base && f.noB && f.noMask && f.imm.toNat < 8
  | .vperm f => f.base && f.imm = 0
  | .vperm2 f => f.base && f.noMask && f.imm = 0
  | .vslide f => f.base && f.imm.toNat < 128
  | .vsel f => f.base && !f.z && f.imm = 0
  | .vred f => f.base && f.noB && !f.z && f.redOp
  | .vscan f => f.base && f.noB && f.scanOp
  | .vbcast f => f.base && f.noB && f.imm.toNat < 128
  | .kand f => f.kop 0
  | .kor f => f.kop 1
  | .kxor f => f.kop 2
  | .kandn f => f.kop 3
  | .knot f => f.kopUnary 4
  | .kmov f => f.kopUnary 5
  | .kfromx f => f.kopUnary 6
  | .ktox f => f.kopUnary 7
  | .vmovx f => f.base && f.noB && f.noMask && f.imm.toNat < 128
  | .vld f => f.memBase && f.noB
  | .vst f => f.memBase && f.noB && f.storeTag
  | .vldx f => f.memBase && f.noB && f.et.toNat < 8
  | .vgath f | .vscat f => f.gather
  | .vstm f => f.memBase && f.noMask && f.storeTag
  | .vcvt f => f.cvtBase && f.srcType ≠ 16 && f.srcWidth = etWidth f.et
  | .vcvtw f => f.cvtBase && VForm.ratioOk (etWidth f.et) f.srcWidth
  | .vcvtn f => f.cvtBase && VForm.ratioOk f.srcWidth (etWidth f.et)
  | .vmxq f => f.base && f.noMask && f.et = 8 && f.imm.toNat < 3
  | .vspk f | .vupk f => f.sparse
  | .tblwB f => f.noMask && f.d = 0 && f.b = 0 && f.kb = 0 && f.et = 0 && f.round = 0 && f.imm.toNat < 512
  | .tblwS f =>
    f.noMask && f.d = 0 && f.b = 0 && f.kb = 0 && f.et = 0 && f.round = 0 && 4096 ≤ f.imm.toNat && f.imm.toNat < 4352
  | .upatw f => f.plain && f.d = 0 && f.b = 0 && f.imm.toNat < 8
  | .decomp f => f.plain && f.b = 0 && f.imm.toNat < 48 && 8 ≤ f.imm.toNat
  | .scalar64Add f => f.scalar64 0
  | .scalar64Sub f => f.scalar64 1
  | .scalar64And f => f.scalar64 2
  | .scalar64Or f => f.scalar64 3
  | .scalar64Xor f => f.scalar64 4
  | .scalar64Andn f => f.scalar64 5
  | .scalar64Sll f => f.scalar64 6
  | .scalar64Srl f => f.scalar64 7
  | .scalar64Sra f => f.scalar64 8
  | .scalar64Slt f => f.scalar64 9
  | .scalar64Sltc f => f.scalar64 10
  | .scalar64Min f => f.scalar64 11
  | .scalar64Max f => f.scalar64 12
  | .scalar64Minc f => f.scalar64 13
  | .scalar64Maxc f => f.scalar64 14
  -- stream words (08 R203, R205)
  | .align a => a.toNat ≤ 20
  -- slot operations
  | .mma a b c d e g h i j => (SlotOp.mma a b c d e g h i j).ok
  | .mmasp a b c d e g => (SlotOp.mmasp a b c d e g).ok
  | .mmat a b c d e => (SlotOp.mmat a b c d e).ok
  | .vtAdd a => (SlotOp.vtAdd a).ok
  | .vtSub a => (SlotOp.vtSub a).ok
  | .vtMul a => (SlotOp.vtMul a).ok
  | .vtFma a => (SlotOp.vtFma a).ok
  | .vtMax a => (SlotOp.vtMax a).ok
  | .vtMin a => (SlotOp.vtMin a).ok
  | .vtExp2 a => (SlotOp.vtExp2 a).ok
  | .vtCvt a b c d e g => (SlotOp.vtCvt a b c d e g).ok
  | .vtRmax a => (SlotOp.vtRmax a).ok
  | .vtRsum a => (SlotOp.vtRsum a).ok
  | .sty a b c d => (SlotOp.sty a b c d).ok
  | .agset a b c => (SlotOp.agset a b c).ok
  | .hld a b c d e => (SlotOp.hld a b c d e).ok
  | .hst a b c d e => (SlotOp.hst a b c d e).ok
  | .lsend a b c => (SlotOp.lsend a b c).ok
  | .lrecv a b c => (SlotOp.lrecv a b c).ok
  | .lpass a b c => (SlotOp.lpass a b c).ok
  | .wopen a b => (SlotOp.wopen a b).ok
  | .wcloseStall a b => (SlotOp.wcloseStall a b).ok
  | .swaph a b => (SlotOp.swaph a b).ok
  -- events: what they name exists (00 R3, R4)
  | .longResultLands w _ | .trapEntry w | .interrupt w | .timerInterrupt w | .itemAdvanceReport w | .victimRestore w
  | .waitcReread w | .waitcTimeout w | .debugStopSlot w _ | .debugResume w | .debugRegisterWrite w _ _
  | .debugRegisterRead w _ | .tfenceValidationLanding w => w.ok
  | .deferredArmPush t | .streamPrefetch t _ | .streamDrain t _ | .swapBoundary t | .tilePartDone t | .timedResultLands t _
  | .hldDeadline t _ | .counterWrap t _ | .postTimeout t _ | .debugLockTableRead t _ => tileOk t
  | .linkGranuleArrival t port _ _ _ => tileOk t && port < 28
  | .hostDoorbell t slot => tileOk t && slot < 8
  | _ => true

end Sys2Proof
end

