-- ==== Sys2Proof/Decode.lean ====
section
/-! DEFINITION. The decoder of threaded instructions (02 R35 to R52), of stream words (08 R202, R203) and of bundle slot
fields (08 R213), total on any bits and rejecting by name; after it the encoder, written from the same tables. -/

namespace Sys2Proof

/-- Why bits are no instruction. -/
inductive DecodeError where
  /-- fewer bytes than the instruction needs -/
  | truncated
  /-- R49 step 1: an unassigned major or func, a nonzero reserved or unused field, round code 7, a refused etype -/
  | illegalOpcode
  /-- R205: a reserved SYS op or operand bit, or ALIGN above 20 -/
  | reservedStreamWord
  /-- R209: an unassigned slot op, a nonzero reserved bit or an operand out of its limits -/
  | illegalBundle
  deriving DecidableEq, Repr

/-- The instruction when its fixed fields hold. -/
def fixed {α : Type} (ok : Bool) (i : α) : Option α := if ok then some i else none

/-! The 32-bit formats (R38). Each major is given the fields of its format. -/

/-- Major 0x00. -/
def decAlu (f : AForm) (func : BitVec 8) : Option Instr :=
  match func.toNat with
  | 0 => some (.add f) | 1 => some (.sub f) | 2 => some (.and f) | 3 => some (.or f) | 4 => some (.xor f)
  | 5 => some (.andn f) | 6 => some (.sll f) | 7 => some (.srl f) | 8 => some (.sra f) | 9 => some (.slt f)
  | 10 => some (.sltc f) | 11 => some (.min f) | 12 => some (.max f) | 13 => some (.minc f) | 14 => some (.maxc f)
  | _ => none

/-- Major 0x01. -/
def decMul (f : AForm) (func : BitVec 8) : Option Instr :=
  match func.toNat with
  | 0 => some (.mul f) | 1 => some (.mulh f) | 2 => some (.mulhc f) | 3 => some (.div f) | 4 => some (.divc f)
  | 5 => some (.rem f) | 6 => some (.remc f)
  | _ => none

/-- Major 0x02. -/
def decBit (f : AForm) (func : BitVec 8) : Option Instr :=
  match func.toNat with
  | 0 => fixed (f.b = 0) (.clz f.w f.d f.a) | 1 => fixed (f.b = 0) (.ctz f.w f.d f.a)
  | 2 => fixed (f.b = 0) (.cntb f.w f.d f.a) | 3 => fixed (f.b = 0) (.rev8 f.w f.d f.a)
  | 4 => some (.bext f) | 5 => some (.bextc f) | 6 => some (.bins f)
  | _ => none

/-- Segment and operation of an atomic's func (R102). -/
def atForm (f : AForm) (func : BitVec 8) : AtForm := ⟨f.w, f.d, f.a, f.b, func.extractLsb' 5 3⟩

/-- Major 0x3C. -/
def decAtomic64 (f : AForm) (func : BitVec 8) : Option Instr :=
  match (func.extractLsb' 0 5).toNat with
  | 0 => some (.aadd64 (atForm f func)) | 1 => some (.aand64 (atForm f func)) | 2 => some (.aor64 (atForm f func))
  | 3 => some (.axor64 (atForm f func)) | 4 => some (.amin64 (atForm f func)) | 5 => some (.amax64 (atForm f func))
  | 6 => some (.aminc64 (atForm f func)) | 7 => some (.amaxc64 (atForm f func)) | 8 => some (.aswp64 (atForm f func))
  | _ => none

/-- Major 0x3D. -/
def decAtomic32 (f : AForm) (func : BitVec 8) : Option Instr :=
  match (func.extractLsb' 0 5).toNat with
  | 0 => some (.aadd32 (atForm f func)) | 1 => some (.aand32 (atForm f func)) | 2 => some (.aor32 (atForm f func))
  | 3 => some (.axor32 (atForm f func)) | 4 => some (.amin32 (atForm f func)) | 5 => some (.amax32 (atForm f func))
  | 6 => some (.aminc32 (atForm f func)) | 7 => some (.amaxc32 (atForm f func)) | 8 => some (.aswp32 (atForm f func))
  | 9 => some (.afadd (atForm f func))
  | _ => none

/-- Major 0x3E. -/
def decCas (f : AForm) (func : BitVec 8) : Option Instr :=
  match (func.extractLsb' 0 5).toNat with
  | 2 => some (.cas32 (atForm f func)) | 3 => some (.cas64 (atForm f func))
  | _ => none

/-- Major 0x44 (07 R187): func[3] selects the port form, func[7] the evict form. -/
def decSpawn (f : AForm) (func : BitVec 8) : Option Instr :=
  match (func.extractLsb' 7 1).toNat, (func.extractLsb' 3 1).toNat with
  | 0, 0 => fixed (func.extractLsb' 4 3 = 0) (.spawn f (func.extractLsb' 0 3))
  | 0, 1 => some (.spawnPort f (func.extractLsb' 4 3) (func.extractLsb' 0 3))
  | 1, 0 => some (.spawnEvict f (func.extractLsb' 4 3) (func.extractLsb' 0 3))
  | _, _ => none

/-- Major 0x47 (07 R195). -/
def decSteal (f : AForm) (func : BitVec 8) : Option Instr :=
  match (func.extractLsb' 3 5).toNat with
  | 0 => fixed (f.a = 0 && f.b = 0) (.steal f.w f.d (func.extractLsb' 0 3))
  | 1 => fixed (f.a = 0 && f.b = 0 && func.extractLsb' 0 3 = 0) (.stealLocal f.w f.d)
  | _ => none

/-- Major 0x49 (07 R178). -/
def decQcfg (f : AForm) (func : BitVec 8) : Option Instr :=
  match (func.extractLsb' 4 4).toNat with
  | 0 => fixed (f.d = 0 && f.b = 0) (.qcfgSet f.w f.a (func.extractLsb' 0 4))
  | 1 => fixed (f.a = 0 && f.b = 0) (.qcfgGet f.w f.d (func.extractLsb' 0 4))
  | 2 => fixed (f.d = 0 && f.b = 0 && func.extractLsb' 3 1 = 0) (.qcfgPort f.w f.a (func.extractLsb' 0 3))
  | _ => none

/-- Major 0x4A (07 R184). -/
def decScfg (f : AForm) (func : BitVec 8) : Option Instr :=
  match (func.extractLsb' 7 1).toNat with
  | 0 => fixed (f.d = 0 && f.b = 0) (.scfgBind f.w f.a (func.extractLsb' 4 3) (func.extractLsb' 0 4))
  | _ =>
    fixed (f.d = 0 && f.a = 0 && f.b = 0 && func.extractLsb' 4 3 = 0) (.scfgFree f.w (func.extractLsb' 0 4))

/-- The segments of a transfer (10 R265, 16 R393). -/
def cForm (f : AForm) (func : BitVec 8) : CForm :=
  ⟨f.w, f.d, f.a, f.b, func.extractLsb' 5 3, func.extractLsb' 2 3⟩

/-- Major 0x5A (16 R386). -/
def decRankw (f : AForm) (func : BitVec 8) : Option Instr :=
  match func.toNat with
  | 0 => fixed (f.d = 0) (.rankw f.w f.a f.b)
  | 1 => fixed (f.d = 0 && f.b = 0) (.rankwInv f.w f.a)
  | _ => none

/-- Major 0x68 (14 R345). -/
def decRply (f : AForm) (func : BitVec 8) : Option Instr :=
  match func.toNat with
  | 0 => fixed (f.b = 0) (.rplyStart f.w f.d f.a)
  | 1 => fixed (f.a = 0 && f.b = 0) (.rplyRestore f.w f.d)
  | 2 => fixed (f.a = 0 && f.b = 0) (.rplyEnd f.w f.d)
  | _ => none

/-- The A-format majors (R50). -/
def decA (major : Nat) (f : AForm) (func : BitVec 8) : Option Instr :=
  match major with
  | 0x00 => decAlu f func
  | 0x01 => decMul f func
  | 0x02 => decBit f func
  | 0x03 => fixed (func = 0 && f.d.extractLsb' 3 2 = 0) (.shapew f.w (f.d.extractLsb' 0 3) f.a f.b)
  | 0x3C => decAtomic64 f func
  | 0x3D => decAtomic32 f func
  | 0x3E => decCas f func
  | 0x44 => decSpawn f func
  | 0x47 => decSteal f func
  | 0x48 => fixed (func = 0) (.arm f)
  | 0x49 => decQcfg f func
  | 0x4A => decScfg f func
  | 0x4C => fixed (f.b = 0 && func.extractLsb' 0 5 = 0) (.launch f.w f.d f.a (func.extractLsb' 5 3))
  | 0x4E =>
    fixed (func.extractLsb' 3 2 = 0 && WellFormed (.waitc (atForm f func) (func.extractLsb' 0 3)))
      (.waitc (atForm f func) (func.extractLsb' 0 3))
  | 0x4F => fixed (f.b = 0 && func.extractLsb' 3 5 = 0) (.dbell f.w f.d f.a (func.extractLsb' 0 3))
  | 0x50 => fixed (func.extractLsb' 0 2 = 0) (.cpy (cForm f func))
  | 0x51 => fixed (func.extractLsb' 0 2 = 0) (.cpym (cForm f func))
  | 0x52 => fixed (func.extractLsb' 0 2 = 0) (.cpyf (cForm f func))
  | 0x53 => fixed (func.extractLsb' 0 2 = 0) (.cmpr (cForm f func))
  | 0x54 => fixed (func.extractLsb' 0 2 = 0) (.dcmp (cForm f func))
  | 0x55 => fixed (func.extractLsb' 0 5 = 0) (.fill (atForm f func))
  | 0x56 => fixed (func.extractLsb' 0 2 = 0) (.rput (cForm f func))
  | 0x57 => fixed (func.extractLsb' 0 2 = 0) (.rget (cForm f func))
  | 0x58 => fixed (func.extractLsb' 0 5 = 0) (.walk (atForm f func))
  | 0x5A => decRankw f func
  | 0x65 => fixed (f.d = 0) (.trc f.w f.a f.b func)
  | 0x66 => fixed (f.d = 0 && func.extractLsb' 2 6 = 0) (.pmcs f.w f.a f.b (func.extractLsb' 0 2))
  | 0x67 => fixed (f.a = 0 && f.b = 0 && func.extractLsb' 2 6 = 0) (.pmcr f.w f.d (func.extractLsb' 0 2))
  | 0x68 => decRply f func
  | 0x69 => fixed (f.d = 0 && func.extractLsb' 3 5 = 0) (.segw f.w f.a f.b (func.extractLsb' 0 3))
  | 0x6B => fixed (func.extractLsb' 0 5 = 0) (.isld (atForm f func))
  | _ => none

/-- Major 0x42 (07 R198): imm13[6:4] is the scope. -/
def decBar (f : IForm) : Option Instr :=
  match (f.imm.extractLsb' 4 9).toNat with
  | 1 => fixed (f.d = 0) (.barTile f.w f.a (f.imm.extractLsb' 0 4))
  | 2 => fixed (f.d = 0) (.barCluster f.w f.a (f.imm.extractLsb' 0 4))
  | _ => none

/-- Major 0x43 (13 R331): imm13[4] selects the form. -/
def decPost (f : IForm) : Option Instr :=
  match (f.imm.extractLsb' 4 9).toNat with
  | 0 => some (.post f.w f.d f.a (f.imm.extractLsb' 0 4))
  | 1 => some (.postAll f.w f.d f.a (f.imm.extractLsb' 0 4))
  | _ => none

/-- The I-format majors (R50). -/
def decI (major : Nat) (f : IForm) : Option Instr :=
  match major with
  | 0x10 => some (.addi f) | 0x11 => some (.andi f) | 0x12 => some (.ori f) | 0x13 => some (.xori f)
  | 0x14 => fixed (f.imm.extractLsb' 6 7 = 0) (.slli f.w f.d f.a (f.imm.extractLsb' 0 6))
  | 0x15 => fixed (f.imm.extractLsb' 6 7 = 0) (.srli f.w f.d f.a (f.imm.extractLsb' 0 6))
  | 0x16 => fixed (f.imm.extractLsb' 6 7 = 0) (.srai f.w f.d f.a (f.imm.extractLsb' 0 6))
  | 0x17 => some (.slti f) | 0x18 => some (.sltci f) | 0x19 => some (.muli f)
  | 0x28 => some (.jr f) | 0x29 => some (.loop f)
  | 0x2A => fixed (f.a = 0) (.item f.w f.d f.imm)
  | 0x2B => fixed (f.d = 0 && f.a = 0 && f.imm.extractLsb' 1 12 = 0) (.xit f.w (f.imm.getLsbD 0))
  | 0x2C => fixed (f.d = 0 && f.a = 0 && f.imm = 0) (.rmark f.w)
  | 0x40 =>
    fixed (f.d = 0 && f.a = 0 && f.imm.extractLsb' 5 8 = 0 &&
        WellFormed (.fence f.w (f.imm.extractLsb' 3 2) (f.imm.extractLsb' 0 3)))
      (.fence f.w (f.imm.extractLsb' 3 2) (f.imm.extractLsb' 0 3))
  | 0x41 =>
    fixed (f.d = 0 && f.a = 0 && f.imm.extractLsb' 3 10 = 0 && WellFormed (.drain f.w (f.imm.extractLsb' 0 3)))
      (.drain f.w (f.imm.extractLsb' 0 3))
  | 0x42 => decBar f
  | 0x43 => decPost f
  | 0x45 => fixed (f.d = 0 && f.imm.extractLsb' 10 3 = 0) (.fork f.w f.a (f.imm.extractLsb' 0 10))
  | 0x46 => fixed (f.d = 0 && f.a = 0) (.popc f.w f.imm)
  | 0x4B => fixed (f.d = 0 && f.a = 0 && f.imm.extractLsb' 8 5 = 0) (.fwd f.w (f.imm.extractLsb' 0 8))
  | 0x4D =>
    match f.imm.toNat with
    | 0 => fixed (f.d = 0 && f.a = 0) (.tfence f.w)
    | 1 => fixed (f.d = 0 && f.a = 0) (.tfenceResume f.w)
    | 2 => fixed (f.d = 0 && f.a = 0) (.tfenceAbort f.w)
    | _ => none
  | 0x59 =>
    match f.imm.toNat with
    | 0 => fixed (f.d = 0 && f.a = 0) (.stepDie f.w)
    | 1 => fixed (f.d = 0 && f.a = 0) (.stepPackage f.w)
    | _ => none
  | 0x60 => fixed (f.a = 0 && f.imm.extractLsb' 12 1 = 0) (.crr f.w f.d (f.imm.extractLsb' 0 12))
  | 0x61 => fixed (f.d = 0 && f.imm.extractLsb' 12 1 = 0) (.crw f.w f.a (f.imm.extractLsb' 0 12))
  | 0x62 => fixed (f.d = 0 && f.a = 0 && f.imm = 0) (.tret f.w)
  | 0x63 => fixed (f.d = 0 && f.a = 0) (.trap f.w f.imm)
  | 0x64 => fixed (f.d = 0 && f.a = 0 && f.imm = 0) (.wfi f.w)
  | 0x6A =>
    match (f.imm.extractLsb' 12 1).toNat with
    | 0 => some (.dstop f.w f.d f.a (f.imm.extractLsb' 0 12))
    | _ => some (.dstopTrap f.w f.d f.a (f.imm.extractLsb' 0 12))
  | _ => none

/-- The M-format majors (R50, R98, R101). -/
def decM (major : Nat) (f : MForm) : Option Instr :=
  match major with
  | 0x30 => some (.ld8 f) | 0x31 => some (.ld16 f) | 0x32 => some (.ld32 f) | 0x33 => some (.ld64 f)
  | 0x34 => some (.ldc8 f) | 0x35 => some (.ldc16 f) | 0x36 => some (.ldc32 f)
  | 0x37 => some (.st8 f) | 0x38 => some (.st16 f) | 0x39 => some (.st32 f) | 0x3A => some (.st64 f)
  | 0x3B => fixed (f.seg = 7 && f.d.extractLsb' 3 2 = 0) (.ldbr f.w (f.d.extractLsb' 0 3) f.base f.off)
  | _ => none

/-- The B-format majors (R50, R93). -/
def decB (major : Nat) (f : BForm) : Option Instr :=
  match major with
  | 0x20 => some (.beq f) | 0x21 => some (.bne f) | 0x22 => some (.blt f) | 0x23 => some (.bge f)
  | 0x24 => some (.bltc f) | 0x25 => some (.bgec f)
  | _ => none

/-- The J-format majors (R50, R94). -/
def decJ (major : Nat) (w : Bool) (off : BitVec 23) : Option Instr :=
  match major with
  | 0x26 => some (.j w off) | 0x27 => some (.jal w off)
  | _ => none

/-- The format of a 32-bit major (R50). -/
inductive Format where
  | a | i | m | b | j | none
  deriving DecidableEq, Repr

def formatOf (major : Nat) : Format :=
  if major ≤ 0x03 then .a
  else if major ≤ 0x0F then .none
  else if major ≤ 0x19 then .i
  else if major ≤ 0x1F then .none
  else if major ≤ 0x25 then .b
  else if major ≤ 0x27 then .j
  else if major ≤ 0x2C then .i
  else if major ≤ 0x2F then .none
  else if major ≤ 0x3B then .m
  else if major ≤ 0x3E then .a
  else if major = 0x3F then .none
  else if major ≤ 0x43 then .i
  else if major = 0x44 then .a
  else if major ≤ 0x46 then .i
  else if major ≤ 0x4A then .a
  else if major = 0x4B then .i
  else if major = 0x4C then .a
  else if major = 0x4D then .i
  else if major ≤ 0x58 then .a
  else if major = 0x59 then .i
  else if major = 0x5A then .a
  else if major ≤ 0x5F then .none
  else if major ≤ 0x64 then .i
  else if major ≤ 0x69 then .a
  else if major = 0x6A then .i
  else if major = 0x6B then .a
  else .none

/-- A 32-bit instruction word, bit 30 clear (R35, R38). -/
def decode32 (w : BitVec 32) : Option Instr :=
  match formatOf (w.extractLsb' 23 7).toNat with
  | .a =>
    decA (w.extractLsb' 23 7).toNat
      ⟨w.getLsbD 31, w.extractLsb' 18 5, w.extractLsb' 13 5, w.extractLsb' 8 5⟩ (w.extractLsb' 0 8)
  | .i => decI (w.extractLsb' 23 7).toNat ⟨w.getLsbD 31, w.extractLsb' 18 5, w.extractLsb' 13 5, w.extractLsb' 0 13⟩
  | .m =>
    decM (w.extractLsb' 23 7).toNat
      ⟨w.getLsbD 31, w.extractLsb' 18 5, w.extractLsb' 15 3, w.extractLsb' 10 5, w.extractLsb' 0 10⟩
  | .b => decB (w.extractLsb' 23 7).toNat ⟨w.getLsbD 31, w.extractLsb' 18 5, w.extractLsb' 13 5, w.extractLsb' 0 13⟩
  | .j => decJ (w.extractLsb' 23 7).toNat (w.getLsbD 31) (w.extractLsb' 0 23)
  | .none => none

/-- The constructor that a 64-bit major and func name (R52); its fields are checked by WellFormed. -/
def decV (major : Nat) (f : VForm) : Option Instr :=
  match major with
  | 0x00 => some (.vaddFloat f) | 0x01 => some (.vsubFloat f) | 0x02 => some (.vmulFloat f) | 0x03 => some (.vdiv f)
  | 0x04 => some (.vfma f) | 0x05 => some (.vfms f) | 0x06 => some (.vfnma f)
  | 0x07 => some (.vminFloat f) | 0x08 => some (.vmaxFloat f) | 0x09 => some (.vminn f) | 0x0A => some (.vmaxn f)
  | 0x0B => match f.imm.toNat with
    | 0 => some (.vabs f) | 1 => some (.vneg f) | _ => none
  | 0x0C => some (.vcmpFloat f) | 0x0D => some (.vdotFloat f) | 0x0E => some (.vsqrt f)
  | 0x20 => some (.vaddInt f) | 0x21 => some (.vsubInt f) | 0x22 => some (.vmulInt f) | 0x23 => some (.vmulh f)
  | 0x24 => some (.vmad f) | 0x25 => some (.vadds f) | 0x26 => some (.vsubs f)
  | 0x27 => some (.vminInt f) | 0x28 => some (.vmaxInt f)
  | 0x29 => match f.imm.toNat with
    | 0 => some (.vand f) | 1 => some (.vor f) | 2 => some (.vxor f) | 3 => some (.vandn f) | _ => none
  | 0x2A => match f.imm.toNat with
    | 0 => some (.vsll f) | 1 => some (.vsrl f) | 2 => some (.vsra f) | _ => none
  | 0x2B => some (.vcmpInt f) | 0x2C => some (.vdotInt f)
  | 0x30 => some (.vmov f) | 0x31 => some (.vmovm f) | 0x32 => some (.vperm f) | 0x33 => some (.vperm2 f)
  | 0x34 => some (.vslide f) | 0x35 => some (.vsel f) | 0x36 => some (.vred f) | 0x37 => some (.vscan f)
  | 0x38 => some (.vbcast f)
  | 0x39 => match f.imm.toNat with
    | 0 => some (.kand f) | 1 => some (.kor f) | 2 => some (.kxor f) | 3 => some (.kandn f)
    | 4 => some (.knot f) | 5 => some (.kmov f) | 6 => some (.kfromx f) | 7 => some (.ktox f) | _ => none
  | 0x3A => some (.vmovx f)
  | 0x40 => some (.vld f) | 0x41 => some (.vst f) | 0x42 => some (.vldx f) | 0x43 => some (.vgath f)
  | 0x44 => some (.vscat f) | 0x45 => some (.vstm f)
  | 0x50 => some (.vcvt f) | 0x51 => some (.vcvtw f) | 0x52 => some (.vcvtn f) | 0x53 => some (.vmxq f)
  | 0x54 => some (.vexp2 f) | 0x55 => some (.vlog2 f) | 0x56 => some (.vrcp f) | 0x57 => some (.vrsq f)
  | 0x58 => some (.vspk f) | 0x59 => some (.vupk f)
  | 0x5A => if f.imm.getLsbD 12 then some (.tblwS f) else some (.tblwB f)
  | 0x5B => some (.upatw f)
  | 0x62 => some (.decomp f)
  | 0x63 => match f.imm.toNat with
    | 0 => some (.scalar64Add f) | 1 => some (.scalar64Sub f) | 2 => some (.scalar64And f) | 3 => some (.scalar64Or f)
    | 4 => some (.scalar64Xor f) | 5 => some (.scalar64Andn f) | 6 => some (.scalar64Sll f) | 7 => some (.scalar64Srl f)
    | 8 => some (.scalar64Sra f) | 9 => some (.scalar64Slt f) | 10 => some (.scalar64Sltc f)
    | 11 => some (.scalar64Min f) | 12 => some (.scalar64Max f) | 13 => some (.scalar64Minc f)
    | 14 => some (.scalar64Maxc f) | _ => none
  | _ => none

/-- The fields of R40. -/
def vForm (w : BitVec 64) : VForm :=
  ⟨w.getLsbD 63, w.extractLsb' 46 9, w.extractLsb' 37 9, w.extractLsb' 28 9, w.extractLsb' 25 3, w.getLsbD 24,
    w.extractLsb' 22 2, w.extractLsb' 20 2, w.extractLsb' 16 4, w.extractLsb' 13 3, w.extractLsb' 0 13⟩

/-- The instruction when it is well formed. -/
def checked (i : Instr) : Option Instr := if WellFormed i then some i else none

/-- A 64-bit instruction as R35 assembles it, bit 62 set. LI and LIU lay out their low bits alone (R48). -/
def decode64 (w : BitVec 64) : Option Instr :=
  match (w.extractLsb' 55 7).toNat with
  | 0x60 => some (.li (w.getLsbD 63) (w.extractLsb' 46 9) (w.extractLsb' 0 46))
  | 0x61 => fixed (w.extractLsb' 0 28 = 0) (.liu (w.getLsbD 63) (w.extractLsb' 46 9) (w.extractLsb' 28 18))
  | major => (decV major (vForm w)).bind checked

/-- A word from four bytes, little-endian (R35). -/
def wordOf (b0 b1 b2 b3 : Byte) : BitVec 32 := b3 ++ b2 ++ b1 ++ b0

/-- The threaded instruction at the head of a list of bytes, and the rest. -/
def decode : List Byte → Except DecodeError (Instr × List Byte)
  | b0 :: b1 :: b2 :: b3 :: rest =>
    if (wordOf b0 b1 b2 b3).getLsbD 30 then
      match rest with
      | c0 :: c1 :: c2 :: c3 :: rest' =>
        match decode64 (wordOf b0 b1 b2 b3 ++ wordOf c0 c1 c2 c3) with
        | some i => .ok (i, rest')
        | none => .error .illegalOpcode
      | _ => .error .truncated
    else
      match decode32 (wordOf b0 b1 b2 b3) with
      | some i => .ok (i, rest)
      | none => .error .illegalOpcode
  | _ => .error .truncated

/-! Stream words (08 R202, R203). -/

/-- Whether a stream word is followed by a second word (R202). -/
def streamTwoWords (w : BitVec 16) : Bool :=
  w.extractLsb' 14 2 = 1 ||
    (w.extractLsb' 14 2 = 3 && (w.extractLsb' 9 5 = 3 || w.extractLsb' 9 5 = 4 || w.extractLsb' 9 5 = 5))

/-- A SYS word with the word that follows it (R203). -/
def decodeSys (w second : BitVec 16) : Option Instr :=
  match (w.extractLsb' 9 5).toNat with
  | 0 => fixed (w.extractLsb' 0 9 = 0) .streamEnd
  | 1 => fixed (w.extractLsb' 5 4 = 0 && WellFormed (.align (w.extractLsb' 0 5))) (.align (w.extractLsb' 0 5))
  | 2 => some (.idle (w.extractLsb' 0 9))
  | 3 => fixed (w.extractLsb' 3 6 = 0) (.streamLoop (w.extractLsb' 0 3) second)
  | 4 => fixed (w.extractLsb' 0 9 = 0) (.jump second)
  | 5 => fixed (w.extractLsb' 6 3 = 0) (.brp (w.extractLsb' 4 2) (w.extractLsb' 0 4) second)
  | _ => none

/-- A stream word, with the word that follows it in the half (R202). -/
def decodeStream (w second : BitVec 16) : Option Instr :=
  match (w.extractLsb' 14 2).toNat with
  | 0 => some (.issue (w.extractLsb' 5 9) (w.extractLsb' 0 5))
  | 1 => some (.issuel (w.extractLsb' 5 9) (w.extractLsb' 0 5 ++ second))
  | 2 => some (.mark (w.extractLsb' 0 14))
  | _ => decodeSys w second

/-! Slot fields (08 R206, R213). A NOP field is zero; none for NOP and for a field that R209 rejects. -/

/-- The operation when its operands are within their limits (R209). -/
def SlotOp.checked (o : SlotOp) : Option SlotOp := if o.ok then some o else none

/-- The fields of VT's arithmetic operations (09 R247). -/
def vtForm (f : BitVec 40) : VtForm :=
  ⟨f.extractLsb' 29 5, f.extractLsb' 24 5, f.extractLsb' 19 5, f.getLsbD 18, f.getLsbD 17⟩

/-- An MX field (09 R239 to R245). -/
def decodeMx (f : BitVec 44) : Option SlotOp :=
  match (f.extractLsb' 38 6).toNat with
  | 1 =>
    (fixed (f.extractLsb' 0 18 = 0)
      (.mma (f.extractLsb' 36 2) (f.extractLsb' 34 2) (f.extractLsb' 32 2) (f.extractLsb' 28 4) (f.extractLsb' 25 3)
        (f.extractLsb' 22 3) (f.extractLsb' 20 2) (f.getLsbD 19) (f.getLsbD 18))).bind SlotOp.checked
  | 2 =>
    (fixed (f.extractLsb' 0 18 = 0 && f.extractLsb' 20 8 = 0)
      (.mmasp (f.extractLsb' 36 2) (f.extractLsb' 34 2) (f.extractLsb' 32 2) (f.extractLsb' 28 4) (f.getLsbD 19)
        (f.getLsbD 18))).bind SlotOp.checked
  | 3 =>
    (fixed (f.extractLsb' 0 18 = 0 && f.extractLsb' 20 12 = 0)
      (.mmat (f.extractLsb' 36 2) (f.extractLsb' 34 2) (f.extractLsb' 32 2) (f.getLsbD 19) (f.getLsbD 18))).bind SlotOp.checked
  | 4 => fixed (f.extractLsb' 0 36 = 0) (.mzero (f.extractLsb' 36 2))
  | 5 => fixed (f.extractLsb' 0 28 = 0) (.mfy (f.extractLsb' 36 2) (f.extractLsb' 33 3) (f.extractLsb' 28 5))
  | _ => none

/-- A VT field (09 R247 to R251). -/
def decodeVt (f : BitVec 40) : Option SlotOp :=
  match (f.extractLsb' 34 6).toNat with
  | 1 => (fixed (f.extractLsb' 0 17 = 0) (.vtAdd (vtForm f))).bind SlotOp.checked
  | 2 => (fixed (f.extractLsb' 0 17 = 0) (.vtSub (vtForm f))).bind SlotOp.checked
  | 3 => (fixed (f.extractLsb' 0 17 = 0) (.vtMul (vtForm f))).bind SlotOp.checked
  | 4 => (fixed (f.extractLsb' 0 17 = 0) (.vtFma (vtForm f))).bind SlotOp.checked
  | 5 => (fixed (f.extractLsb' 0 17 = 0) (.vtMax (vtForm f))).bind SlotOp.checked
  | 6 => (fixed (f.extractLsb' 0 17 = 0) (.vtMin (vtForm f))).bind SlotOp.checked
  | 7 => (fixed (f.extractLsb' 0 17 = 0) (.vtExp2 (vtForm f))).bind SlotOp.checked
  | 8 =>
    (fixed (f.extractLsb' 0 13 = 0)
      (.vtCvt (f.extractLsb' 29 5) (f.extractLsb' 24 5) (f.extractLsb' 20 4) (f.extractLsb' 16 4) (f.extractLsb' 14 2)
        (f.getLsbD 13))).bind SlotOp.checked
  | 9 => (fixed (f.extractLsb' 0 17 = 0) (.vtRmax (vtForm f))).bind SlotOp.checked
  | 10 => (fixed (f.extractLsb' 0 17 = 0) (.vtRsum (vtForm f))).bind SlotOp.checked
  | 11 => fixed (f.extractLsb' 0 21 = 0) (.vtBcast (f.extractLsb' 29 5) (f.extractLsb' 24 5) (f.extractLsb' 21 3))
  | 12 => fixed (f.extractLsb' 0 24 = 0) (.yfa (f.extractLsb' 29 5) (f.extractLsb' 27 2) (f.extractLsb' 24 3))
  | _ => none

/-- An LA or LB field (08 R216). -/
def decodeLane (lb : Bool) (f : BitVec 36) : Option SlotOp :=
  match (f.extractLsb' 30 6).toNat with
  | 1 => fixed (f.extractLsb' 0 23 = 0) (.ldr lb (f.extractLsb' 27 3) (f.extractLsb' 25 2) (f.extractLsb' 23 2))
  | 2 => fixed (f.extractLsb' 0 22 = 0) (.ldy lb (f.extractLsb' 27 3) (f.extractLsb' 22 5))
  | 3 => fixed (f.extractLsb' 0 19 = 0) (.ldu lb (f.extractLsb' 27 3) (f.extractLsb' 22 5) (f.extractLsb' 19 3))
  | 4 =>
    (fixed (f.extractLsb' 0 16 = 0)
      (.sty lb (f.extractLsb' 27 3) (f.extractLsb' 22 5) (f.extractLsb' 16 6))).bind SlotOp.checked
  | 5 => (fixed (f.extractLsb' 0 13 = 0) (.agset lb (f.extractLsb' 27 3) (f.extractLsb' 13 14))).bind SlotOp.checked
  | 6 =>
    (fixed (f.extractLsb' 0 8 = 0)
      (.hld lb (f.extractLsb' 27 3) (f.extractLsb' 24 3) (f.extractLsb' 21 3) (f.extractLsb' 8 13))).bind SlotOp.checked
  | 7 =>
    (fixed (f.extractLsb' 0 8 = 0)
      (.hst lb (f.extractLsb' 27 3) (f.extractLsb' 24 3) (f.extractLsb' 21 3) (f.extractLsb' 8 13))).bind SlotOp.checked
  | _ => none

/-- An SC field (08 R221). -/
def decodeSc (f : BitVec 24) : Option SlotOp :=
  match (f.extractLsb' 18 6).toNat with
  | 1 => fixed (f.extractLsb' 0 12 = 0) (.zld (f.extractLsb' 15 3) (f.extractLsb' 12 3))
  | 2 => fixed (f.extractLsb' 0 7 = 0) (.zsplat (f.extractLsb' 15 3) (f.extractLsb' 7 8))
  | 3 => fixed (f.extractLsb' 0 10 = 0) (.zfy (f.extractLsb' 15 3) (f.extractLsb' 10 5))
  | _ => none

/-- An LK field (08 R222). -/
def decodeLk (f : BitVec 32) : Option SlotOp :=
  match (f.extractLsb' 26 6).toNat with
  | 1 => (fixed (f.extractLsb' 0 16 = 0) (.lsend (f.extractLsb' 21 5) (f.extractLsb' 18 3) (f.extractLsb' 16 2))).bind SlotOp.checked
  | 2 => (fixed (f.extractLsb' 0 16 = 0) (.lrecv (f.extractLsb' 21 5) (f.extractLsb' 18 3) (f.extractLsb' 16 2))).bind SlotOp.checked
  | 3 => (fixed (f.extractLsb' 0 14 = 0) (.lpass (f.extractLsb' 21 5) (f.extractLsb' 16 5) (f.extractLsb' 14 2))).bind SlotOp.checked
  | _ => none

/-- A CT field (08 R224). -/
def decodeCt (f : BitVec 37) : Option SlotOp :=
  match (f.extractLsb' 31 6).toNat with
  | 1 => some (.cset (f.extractLsb' 28 3) (f.extractLsb' 0 28))
  | 2 => fixed (f.extractLsb' 0 24 = 0) (.cfp (f.extractLsb' 28 3) (f.extractLsb' 24 4))
  | 3 => fixed (f.extractLsb' 0 20 = 0) (.cfy (f.extractLsb' 28 3) (f.extractLsb' 23 5) (f.extractLsb' 20 3))
  | 4 => (fixed (f.extractLsb' 0 13 = 0) (.wopen (f.extractLsb' 27 4) (f.extractLsb' 13 14))).bind SlotOp.checked
  | 5 =>
    if f.getLsbD 26 then
      (fixed (f.extractLsb' 0 6 = 0) (.wcloseStall (f.extractLsb' 27 4) (f.extractLsb' 6 20))).bind SlotOp.checked
    else fixed (f.extractLsb' 0 26 = 0) (.wcloseDefault (f.extractLsb' 27 4))
  | 6 => (fixed (f.extractLsb' 0 25 = 0) (.swaph (f.extractLsb' 29 2) (f.extractLsb' 25 4))).bind SlotOp.checked
  | _ => none

/-- The slots of a bundle, in slot order (08 R206). -/
inductive SlotName where
  | mx | vt | la | lb | sc | lk | ct
  deriving DecidableEq, Repr

/-- The seven slots in slot order. -/
def slotNames : List SlotName := [.mx, .vt, .la, .lb, .sc, .lk, .ct]

/-- The number that ILLEGAL_BUNDLE reports (08 R206). -/
def SlotName.number : SlotName → Nat
  | .mx => 0 | .vt => 1 | .la => 2 | .lb => 3 | .sc => 4 | .lk => 5 | .ct => 6

/-- The field of a slot in a bundle entry, as a number (08 R206). -/
def slotField (e : Vec) : SlotName → BitVec 44
  | .mx => e.extractLsb' 205 44
  | .vt => (e.extractLsb' 165 40).setWidth 44
  | .la => (e.extractLsb' 129 36).setWidth 44
  | .lb => (e.extractLsb' 93 36).setWidth 44
  | .sc => (e.extractLsb' 69 24).setWidth 44
  | .lk => (e.extractLsb' 37 32).setWidth 44
  | .ct => (e.extractLsb' 0 37).setWidth 44

/-- The presence bit of a slot (08 R206). -/
def slotPresent (e : Vec) (n : SlotName) : Bool := e.getLsbD (255 - n.number)

/-- The operation of a slot's field; none for NOP and for what R209 rejects. -/
def decodeSlot (n : SlotName) (f : BitVec 44) : Option SlotOp :=
  match n with
  | .mx => decodeMx f
  | .vt => decodeVt (f.setWidth 40)
  | .la => decodeLane false (f.setWidth 36)
  | .lb => decodeLane true (f.setWidth 36)
  | .sc => decodeSc (f.setWidth 24)
  | .lk => decodeLk (f.setWidth 32)
  | .ct => decodeCt (f.setWidth 37)

/-! The encoder, from the same tables. -/

/-- A format (R38): W, L = 0, major, d, a, b, func. -/
def encA (major : BitVec 7) (f : AForm) (func : BitVec 8) : BitVec 32 :=
  bit f.w ++ 0#1 ++ major ++ f.d ++ f.a ++ f.b ++ func
/-- I format (R38). -/
def encI (major : BitVec 7) (f : IForm) : BitVec 32 := bit f.w ++ 0#1 ++ major ++ f.d ++ f.a ++ f.imm
/-- M format (R38). -/
def encM (major : BitVec 7) (f : MForm) : BitVec 32 := bit f.w ++ 0#1 ++ major ++ f.d ++ f.seg ++ f.base ++ f.off
/-- B format (R38). -/
def encB (major : BitVec 7) (f : BForm) : BitVec 32 := bit f.w ++ 0#1 ++ major ++ f.a ++ f.b ++ f.off
/-- J format (R38). -/
def encJ (major : BitVec 7) (w : Bool) (off : BitVec 23) : BitVec 32 := bit w ++ 0#1 ++ major ++ off
/-- An A format whose func holds a segment and an operation (R102). -/
def encAt (major : BitVec 7) (f : AtForm) (op : BitVec 5) : BitVec 32 := encA major ⟨f.w, f.d, f.a, f.b⟩ (f.seg ++ op)
/-- An A format whose func holds two segments (10 R265). -/
def encC (major : BitVec 7) (f : CForm) : BitVec 32 := encA major ⟨f.w, f.d, f.a, f.b⟩ (f.segS ++ f.segT ++ 0#2)
/-- The 64-bit form (R40). -/
def encV (major : BitVec 7) (f : VForm) : BitVec 64 :=
  bit f.w ++ 1#1 ++ major ++ f.d ++ f.a ++ f.b ++ f.mask ++ bit f.z ++ f.ka ++ f.kb ++ f.et ++ f.round ++ f.imm

/-- The word of a 32-bit instruction; none for any other row. -/
def encode32 : Instr → Option (BitVec 32)
  | .add f => encA 0x00 f 0 | .sub f => encA 0x00 f 1 | .and f => encA 0x00 f 2 | .or f => encA 0x00 f 3
  | .xor f => encA 0x00 f 4 | .andn f => encA 0x00 f 5 | .sll f => encA 0x00 f 6 | .srl f => encA 0x00 f 7
  | .sra f => encA 0x00 f 8 | .slt f => encA 0x00 f 9 | .sltc f => encA 0x00 f 10 | .min f => encA 0x00 f 11
  | .max f => encA 0x00 f 12 | .minc f => encA 0x00 f 13 | .maxc f => encA 0x00 f 14
  | .mul f => encA 0x01 f 0 | .mulh f => encA 0x01 f 1 | .mulhc f => encA 0x01 f 2 | .div f => encA 0x01 f 3
  | .divc f => encA 0x01 f 4 | .rem f => encA 0x01 f 5 | .remc f => encA 0x01 f 6
  | .clz w d a => encA 0x02 ⟨w, d, a, 0⟩ 0 | .ctz w d a => encA 0x02 ⟨w, d, a, 0⟩ 1
  | .cntb w d a => encA 0x02 ⟨w, d, a, 0⟩ 2 | .rev8 w d a => encA 0x02 ⟨w, d, a, 0⟩ 3
  | .bext f => encA 0x02 f 4 | .bextc f => encA 0x02 f 5 | .bins f => encA 0x02 f 6
  | .shapew w e a b => encA 0x03 ⟨w, 0#2 ++ e, a, b⟩ 0
  | .addi f => encI 0x10 f | .andi f => encI 0x11 f | .ori f => encI 0x12 f | .xori f => encI 0x13 f
  | .slli w d a s => encI 0x14 ⟨w, d, a, 0#7 ++ s⟩ | .srli w d a s => encI 0x15 ⟨w, d, a, 0#7 ++ s⟩
  | .srai w d a s => encI 0x16 ⟨w, d, a, 0#7 ++ s⟩
  | .slti f => encI 0x17 f | .sltci f => encI 0x18 f | .muli f => encI 0x19 f
  | .beq f => encB 0x20 f | .bne f => encB 0x21 f | .blt f => encB 0x22 f | .bge f => encB 0x23 f
  | .bltc f => encB 0x24 f | .bgec f => encB 0x25 f
  | .j w off => encJ 0x26 w off | .jal w off => encJ 0x27 w off
  | .jr f => encI 0x28 f | .loop f => encI 0x29 f
  | .item w d off => encI 0x2A ⟨w, d, 0, off⟩ | .xit w k => encI 0x2B ⟨w, 0, 0, 0#12 ++ bit k⟩
  | .rmark w => encI 0x2C ⟨w, 0, 0, 0⟩
  | .ld8 f => encM 0x30 f | .ld16 f => encM 0x31 f | .ld32 f => encM 0x32 f | .ld64 f => encM 0x33 f
  | .ldc8 f => encM 0x34 f | .ldc16 f => encM 0x35 f | .ldc32 f => encM 0x36 f
  | .st8 f => encM 0x37 f | .st16 f => encM 0x38 f | .st32 f => encM 0x39 f | .st64 f => encM 0x3A f
  | .ldbr w seg base off => encM 0x3B ⟨w, 0#2 ++ seg, 7, base, off⟩
  | .aadd64 f => encAt 0x3C f 0 | .aand64 f => encAt 0x3C f 1 | .aor64 f => encAt 0x3C f 2 | .axor64 f => encAt 0x3C f 3
  | .amin64 f => encAt 0x3C f 4 | .amax64 f => encAt 0x3C f 5 | .aminc64 f => encAt 0x3C f 6
  | .amaxc64 f => encAt 0x3C f 7 | .aswp64 f => encAt 0x3C f 8
  | .aadd32 f => encAt 0x3D f 0 | .aand32 f => encAt 0x3D f 1 | .aor32 f => encAt 0x3D f 2 | .axor32 f => encAt 0x3D f 3
  | .amin32 f => encAt 0x3D f 4 | .amax32 f => encAt 0x3D f 5 | .aminc32 f => encAt 0x3D f 6
  | .amaxc32 f => encAt 0x3D f 7 | .aswp32 f => encAt 0x3D f 8 | .afadd f => encAt 0x3D f 9
  | .cas64 f => encAt 0x3E f 3 | .cas32 f => encAt 0x3E f 2
  | .fence w kind scope => encI 0x40 ⟨w, 0, 0, 0#8 ++ kind ++ scope⟩ | .drain w scope => encI 0x41 ⟨w, 0, 0, 0#10 ++ scope⟩
  | .barTile w a n => encI 0x42 ⟨w, 0, a, 1#9 ++ n⟩ | .barCluster w a n => encI 0x42 ⟨w, 0, a, 2#9 ++ n⟩
  | .post w s t p => encI 0x43 ⟨w, s, t, 0#9 ++ p⟩ | .postAll w s t p => encI 0x43 ⟨w, s, t, 1#9 ++ p⟩
  | .spawn f slot => encA 0x44 f (0#1 ++ 0#3 ++ 0#1 ++ slot) | .spawnPort f port slot => encA 0x44 f (0#1 ++ port ++ 1#1 ++ slot)
  | .spawnEvict f seg slot => encA 0x44 f (1#1 ++ seg ++ 0#1 ++ slot)
  | .fork w a ty => encI 0x45 ⟨w, 0, a, 0#3 ++ ty⟩ | .popc w off => encI 0x46 ⟨w, 0, 0, off⟩
  | .steal w d port => encA 0x47 ⟨w, d, 0, 0⟩ (0#5 ++ port) | .stealLocal w d => encA 0x47 ⟨w, d, 0, 0⟩ 8
  | .arm f => encA 0x48 f 0
  | .qcfgSet w a q => encA 0x49 ⟨w, 0, a, 0⟩ (0#4 ++ q) | .qcfgGet w d q => encA 0x49 ⟨w, d, 0, 0⟩ (1#4 ++ q)
  | .qcfgPort w a port => encA 0x49 ⟨w, 0, a, 0⟩ (2#4 ++ (0#1 ++ port))
  | .scfgBind w a seg s => encA 0x4A ⟨w, 0, a, 0⟩ (0#1 ++ seg ++ s) | .scfgFree w s => encA 0x4A ⟨w, 0, 0, 0⟩ (1#1 ++ 0#3 ++ s)
  | .fwd w m => encI 0x4B ⟨w, 0, 0, 0#5 ++ m⟩
  | .launch w d a seg => encA 0x4C ⟨w, d, a, 0⟩ (seg ++ 0#5)
  | .tfence w => encI 0x4D ⟨w, 0, 0, 0⟩ | .tfenceResume w => encI 0x4D ⟨w, 0, 0, 1⟩ | .tfenceAbort w => encI 0x4D ⟨w, 0, 0, 2⟩
  | .waitc f cond => encA 0x4E ⟨f.w, f.d, f.a, f.b⟩ (f.seg ++ 0#2 ++ cond)
  | .dbell w d a port => encA 0x4F ⟨w, d, a, 0⟩ (0#5 ++ port)
  | .cpy f => encC 0x50 f | .cpym f => encC 0x51 f | .cpyf f => encC 0x52 f | .cmpr f => encC 0x53 f | .dcmp f => encC 0x54 f
  | .fill f => encAt 0x55 f 0 | .rput f => encC 0x56 f | .rget f => encC 0x57 f | .walk f => encAt 0x58 f 0
  | .stepDie w => encI 0x59 ⟨w, 0, 0, 0⟩ | .stepPackage w => encI 0x59 ⟨w, 0, 0, 1⟩
  | .rankw w a b => encA 0x5A ⟨w, 0, a, b⟩ 0 | .rankwInv w a => encA 0x5A ⟨w, 0, a, 0⟩ 1
  | .crr w d r => encI 0x60 ⟨w, d, 0, 0#1 ++ r⟩ | .crw w a r => encI 0x61 ⟨w, 0, a, 0#1 ++ r⟩
  | .tret w => encI 0x62 ⟨w, 0, 0, 0⟩ | .trap w imm => encI 0x63 ⟨w, 0, 0, imm⟩ | .wfi w => encI 0x64 ⟨w, 0, 0, 0⟩
  | .trc w a b code => encA 0x65 ⟨w, 0, a, b⟩ code
  | .pmcs w a b n => encA 0x66 ⟨w, 0, a, b⟩ (0#6 ++ n) | .pmcr w d n => encA 0x67 ⟨w, d, 0, 0⟩ (0#6 ++ n)
  | .rplyStart w d a => encA 0x68 ⟨w, d, a, 0⟩ 0 | .rplyRestore w d => encA 0x68 ⟨w, d, 0, 0⟩ 1
  | .rplyEnd w d => encA 0x68 ⟨w, d, 0, 0⟩ 2
  | .segw w a b seg => encA 0x69 ⟨w, 0, a, b⟩ (0#5 ++ seg)
  | .dstop w d a id => encI 0x6A ⟨w, d, a, 0#1 ++ id⟩ | .dstopTrap w d a id => encI 0x6A ⟨w, d, a, 1#1 ++ id⟩
  | .isld f => encAt 0x6B f 0
  | _ => none

/-- The word of a 64-bit instruction; none for any other row. -/
def encode64 : Instr → Option (BitVec 64)
  | .vaddFloat f => encV 0x00 f | .vsubFloat f => encV 0x01 f | .vmulFloat f => encV 0x02 f | .vdiv f => encV 0x03 f
  | .vfma f => encV 0x04 f | .vfms f => encV 0x05 f | .vfnma f => encV 0x06 f | .vminFloat f => encV 0x07 f
  | .vmaxFloat f => encV 0x08 f | .vminn f => encV 0x09 f | .vmaxn f => encV 0x0A f | .vabs f => encV 0x0B f
  | .vneg f => encV 0x0B f | .vcmpFloat f => encV 0x0C f | .vdotFloat f => encV 0x0D f | .vsqrt f => encV 0x0E f
  | .vaddInt f => encV 0x20 f | .vsubInt f => encV 0x21 f | .vmulInt f => encV 0x22 f | .vmulh f => encV 0x23 f
  | .vmad f => encV 0x24 f | .vadds f => encV 0x25 f | .vsubs f => encV 0x26 f | .vminInt f => encV 0x27 f
  | .vmaxInt f => encV 0x28 f | .vand f => encV 0x29 f | .vor f => encV 0x29 f | .vxor f => encV 0x29 f
  | .vandn f => encV 0x29 f | .vsll f => encV 0x2A f | .vsrl f => encV 0x2A f | .vsra f => encV 0x2A f
  | .vcmpInt f => encV 0x2B f | .vdotInt f => encV 0x2C f | .vmov f => encV 0x30 f | .vmovm f => encV 0x31 f
  | .vperm f => encV 0x32 f | .vperm2 f => encV 0x33 f | .vslide f => encV 0x34 f | .vsel f => encV 0x35 f
  | .vred f => encV 0x36 f | .vscan f => encV 0x37 f | .vbcast f => encV 0x38 f
  | .kand f => encV 0x39 f | .kor f => encV 0x39 f | .kxor f => encV 0x39 f | .kandn f => encV 0x39 f
  | .knot f => encV 0x39 f | .kmov f => encV 0x39 f | .kfromx f => encV 0x39 f | .ktox f => encV 0x39 f
  | .vmovx f => encV 0x3A f | .vld f => encV 0x40 f | .vst f => encV 0x41 f | .vldx f => encV 0x42 f
  | .vgath f => encV 0x43 f | .vscat f => encV 0x44 f | .vstm f => encV 0x45 f | .vcvt f => encV 0x50 f
  | .vcvtw f => encV 0x51 f | .vcvtn f => encV 0x52 f | .vmxq f => encV 0x53 f | .vexp2 f => encV 0x54 f
  | .vlog2 f => encV 0x55 f | .vrcp f => encV 0x56 f | .vrsq f => encV 0x57 f | .vspk f => encV 0x58 f
  | .vupk f => encV 0x59 f | .tblwB f => encV 0x5A f | .tblwS f => encV 0x5A f | .upatw f => encV 0x5B f
  | .li w d imm => some (bit w ++ 1#1 ++ 0x60#7 ++ d ++ imm)
  | .liu w d imm => some (bit w ++ 1#1 ++ 0x61#7 ++ d ++ imm ++ 0#28)
  | .decomp f => encV 0x62 f
  | .scalar64Add f => encV 0x63 f | .scalar64Sub f => encV 0x63 f | .scalar64And f => encV 0x63 f
  | .scalar64Or f => encV 0x63 f | .scalar64Xor f => encV 0x63 f | .scalar64Andn f => encV 0x63 f
  | .scalar64Sll f => encV 0x63 f | .scalar64Srl f => encV 0x63 f | .scalar64Sra f => encV 0x63 f
  | .scalar64Slt f => encV 0x63 f | .scalar64Sltc f => encV 0x63 f | .scalar64Min f => encV 0x63 f
  | .scalar64Max f => encV 0x63 f | .scalar64Minc f => encV 0x63 f | .scalar64Maxc f => encV 0x63 f
  | _ => none

/-- A 32-bit word as four bytes, little-endian (R35). -/
def bytes32 (w : BitVec 32) : List Byte :=
  [w.extractLsb' 0 8, w.extractLsb' 8 8, w.extractLsb' 16 8, w.extractLsb' 24 8]

/-- A 64-bit instruction in memory: the high word first (R35). -/
def bytes64 (w : BitVec 64) : List Byte := bytes32 (w.extractLsb' 32 32) ++ bytes32 (w.extractLsb' 0 32)

/-- The bytes of a threaded instruction; none for any other row. -/
def encode (i : Instr) : Option (List Byte) :=
  match encode32 i with
  | some w => some (bytes32 w)
  | none => (encode64 i).map bytes64

/-- The words of a stream word form, the second after the first (08 R202, R203). -/
def encodeStream : Instr → Option (BitVec 16 × Option (BitVec 16))
  | .issue index rep => some (0#2 ++ index ++ rep, none)
  | .issuel index rep => some (1#2 ++ index ++ rep.extractLsb' 16 5, some (rep.extractLsb' 0 16))
  | .mark id => some (2#2 ++ id, none)
  | .streamEnd => some (3#2 ++ 0#5 ++ 0#9, none)
  | .align a => some (3#2 ++ 1#5 ++ 0#4 ++ a, none)
  | .idle n => some (3#2 ++ 2#5 ++ n, none)
  | .streamLoop c off => some (3#2 ++ 3#5 ++ 0#6 ++ c, some off)
  | .jump off => some (3#2 ++ 4#5 ++ 0#9, some off)
  | .brp cond p off => some (3#2 ++ 5#5 ++ 0#3 ++ cond ++ p, some off)
  | _ => none

/-- VT's arithmetic layout (09 R247). -/
def encVt (op : BitVec 6) (f : VtForm) : BitVec 40 := op ++ f.d ++ f.a ++ f.b ++ bit f.rnd ++ bit f.int ++ 0#17

/-- The slot and the field of a slot operation (08 R216 to R224, 09 R239 to R251). -/
def encodeSlot : SlotOp → SlotName × BitVec 44
  | .mma acc ra rb fmt za zb s fresh sat =>
    (.mx, 1#6 ++ acc ++ ra ++ rb ++ fmt ++ za ++ zb ++ s ++ bit fresh ++ bit sat ++ 0#18)
  | .mmasp acc ra rb fmt fresh sat => (.mx, 2#6 ++ acc ++ ra ++ rb ++ fmt ++ 0#8 ++ bit fresh ++ bit sat ++ 0#18)
  | .mmat acc ra rb fresh sat => (.mx, 3#6 ++ acc ++ ra ++ rb ++ 0#12 ++ bit fresh ++ bit sat ++ 0#18)
  | .mzero acc => (.mx, 4#6 ++ acc ++ 0#36)
  | .mfy acc row y => (.mx, 5#6 ++ acc ++ row ++ y ++ 0#28)
  | .vtAdd f => (.vt, (encVt 1 f).setWidth 44) | .vtSub f => (.vt, (encVt 2 f).setWidth 44)
  | .vtMul f => (.vt, (encVt 3 f).setWidth 44) | .vtFma f => (.vt, (encVt 4 f).setWidth 44)
  | .vtMax f => (.vt, (encVt 5 f).setWidth 44) | .vtMin f => (.vt, (encVt 6 f).setWidth 44)
  | .vtExp2 f => (.vt, (encVt 7 f).setWidth 44)
  | .vtCvt d a dst src part rnd =>
    (.vt, (8#6 ++ d ++ a ++ dst ++ src ++ part ++ bit rnd ++ 0#13 : BitVec 40).setWidth 44)
  | .vtRmax f => (.vt, (encVt 9 f).setWidth 44) | .vtRsum f => (.vt, (encVt 10 f).setWidth 44)
  | .vtBcast d a e => (.vt, (11#6 ++ d ++ a ++ e ++ 0#21 : BitVec 40).setWidth 44)
  | .yfa d acc row => (.vt, (12#6 ++ d ++ acc ++ row ++ 0#24 : BitVec 40).setWidth 44)
  | .ldr lb g ring n => (if lb then .lb else .la, (1#6 ++ g ++ ring ++ n ++ 0#23 : BitVec 36).setWidth 44)
  | .ldy lb g y => (if lb then .lb else .la, (2#6 ++ g ++ y ++ 0#22 : BitVec 36).setWidth 44)
  | .ldu lb g y pat => (if lb then .lb else .la, (3#6 ++ g ++ y ++ pat ++ 0#19 : BitVec 36).setWidth 44)
  | .sty lb g y tag => (if lb then .lb else .la, (4#6 ++ g ++ y ++ tag ++ 0#16 : BitVec 36).setWidth 44)
  | .agset lb g granule => (if lb then .lb else .la, (5#6 ++ g ++ granule ++ 0#13 : BitVec 36).setWidth 44)
  | .hld lb h l n lead => (if lb then .lb else .la, (6#6 ++ h ++ l ++ n ++ lead ++ 0#8 : BitVec 36).setWidth 44)
  | .hst lb h l n lead => (if lb then .lb else .la, (7#6 ++ h ++ l ++ n ++ lead ++ 0#8 : BitVec 36).setWidth 44)
  | .zld z g => (.sc, (1#6 ++ z ++ g ++ 0#12 : BitVec 24).setWidth 44)
  | .zsplat z code => (.sc, (2#6 ++ z ++ code ++ 0#7 : BitVec 24).setWidth 44)
  | .zfy z y => (.sc, (3#6 ++ z ++ y ++ 0#10 : BitVec 24).setWidth 44)
  | .lsend port g n => (.lk, (1#6 ++ port ++ g ++ n ++ 0#16 : BitVec 32).setWidth 44)
  | .lrecv port g n => (.lk, (2#6 ++ port ++ g ++ n ++ 0#16 : BitVec 32).setWidth 44)
  | .lpass i o n => (.lk, (3#6 ++ i ++ o ++ n ++ 0#14 : BitVec 32).setWidth 44)
  | .cset c value => (.ct, (1#6 ++ c ++ value : BitVec 37).setWidth 44)
  | .cfp c p => (.ct, (2#6 ++ c ++ p ++ 0#24 : BitVec 37).setWidth 44)
  | .cfy c y e => (.ct, (3#6 ++ c ++ y ++ e ++ 0#20 : BitVec 37).setWidth 44)
  | .wopen w granule => (.ct, (4#6 ++ w ++ granule ++ 0#13 : BitVec 37).setWidth 44)
  | .wcloseDefault w => (.ct, (5#6 ++ w ++ 0#27 : BitVec 37).setWidth 44)
  | .wcloseStall w timeout => (.ct, (5#6 ++ w ++ 1#1 ++ timeout ++ 0#6 : BitVec 37).setWidth 44)
  | .swaph cond p => (.ct, (6#6 ++ cond ++ p ++ 0#25 : BitVec 37).setWidth 44)

/-- The instruction that the decoder reads from the bits of an opcode-table row: a 16-bit row is a stream word (the word
after it zero); a 32-bit row with bit 30 clear is a threaded word, and with bit 30 set a two-word stream form, whose
first word stands in the high half; a 64-bit row is the value of R35. -/
def decodeTableWord (nbits w : Nat) : Option Instr :=
  if nbits ≤ 16 then decodeStream (BitVec.ofNat 16 w) 0
  else if nbits ≤ 32 then
    if (BitVec.ofNat 32 w).getLsbD 30 then
      decodeStream ((BitVec.ofNat 32 w).extractLsb' 16 16) ((BitVec.ofNat 32 w).extractLsb' 0 16)
    else
      match decode (bytes32 (BitVec.ofNat 32 w)) with
      | .ok (i, _) => some i
      | .error _ => none
  else
    match decode (bytes64 (BitVec.ofNat 64 w)) with
    | .ok (i, _) => some i
    | .error _ => none

end Sys2Proof
end

