-- ==== Sys2Proof/Config.lean ====
section
/-! DEFINITION. What the manual leaves to the implementation or leaves open. Every constant here has no body, so no
proof can depend on a value of it. The machine applies those of a run to the counter State.draws. -/

namespace Sys2Proof.Config

/-- The cycles that a transfer takes whose time the manual does not fix: network hops beyond the stated latencies, HBM,
far packages (04 R99, 12 R302). Free value (log 3). -/
opaque latency : Nat → Nat

/-- The result of verifying an ML-DSA-65 signature under a key: message bytes, signature bytes, key bytes (02 R62,
15 R369). Free value: the manual names the function and does not give it (log 9). -/
opaque mlDsaVerify : List Byte → List Byte → List Byte → Bool

/-- The ML-DSA-65 signature of a message with the device identity key (15 R371), of which the first 3,309 bytes count. Free value
(log 9). -/
opaque mlDsaSign : List Byte → List Byte

/-- A byte of the identity certificate after its length, by its place: the identity's public key, the serial number, the
manufacturing key's identifier and signature (15 R372). Free value (log 9). -/
opaque certificateByte : Nat → Byte

/-- The data and the seal of a granule that comes from another package with nothing said of it: a page that moves here (16
R400). Free values (log 3). -/
opaque farData : Nat → Vec
opaque farSeal : Nat → BitVec 32

/-- Whether another package refuses a request for a page that has moved there, of a unit whose request no access carries (16 R399).
Free value (log 38). -/
opaque farRefuses : Nat → Bool

/-- What a firmware copy in boot flash holds: its key, its signature, the bytes signed, its security version (15 R369). The
layout is not given. Free values (log 9). -/
opaque firmwareKey : List Byte → List Byte
opaque firmwareSignature : List Byte → List Byte
opaque firmwareSigned : List Byte → List Byte
opaque firmwareVersion : List Byte → Nat

/-- The digest of Kervar's firmware key and the minimum security version in the fuses (15 R369), and the operator's owner key
(R370). Free values (log 9). -/
opaque fusedKeyDigest : List Byte
opaque fusedVersion : Nat
opaque ownerKey : List Byte

/-- What manufacture and training at boot fix: the holes, the absent routers, the crossings that are down, by cluster and
heading, and the latency of each crossing (11 R288, R289, 15 R355). Free values (log 3). -/
opaque holes : List Nat
opaque absentRouters : List Nat
opaque downCrossings : List (Nat × Nat)
opaque crossingLatency : Nat → Nat

/-- What boot finds of a port: whether it is present, the latency if its training succeeds, the tile it attaches to, the far
package's rank and port, and its kind's data (11 R289, 16 R375). Free values (log 3). -/
opaque portPresent : Nat → Bool
opaque portTrained : Nat → Option Nat
opaque portTile : Nat → Nat
opaque portRank : Nat → Nat
opaque portFar : Nat → Nat
opaque portData : Nat → BitVec 48

/-- The firmware threads that boot creates: tile, slot, entry address and window size (03 R69). Free values (log 93). -/
opaque bootThreads : List (Nat × Nat × BitVec 15 × Nat)

/-- The register and the segment of the dispatcher's LAUNCH instruction, whose word cr.info can show (15 R367). Free values (log 93). -/
opaque dispatchReg : BitVec 5
opaque dispatchSeg : BitVec 3

/-- The bits of a deviation record that hold the identifier of the last MARK: 08 R227 writes it there, and no table says where.
Free value (log 31). -/
opaque markBits : BitVec 14 → BitVec 24

end Sys2Proof.Config
end

