-- ==== Sys2Proof/Machine/Seal.lean ====
section
/-! DEFINITION. Granules, their seals and the seal check (01 R32 to R34). -/

namespace Sys2Proof.Machine

/-- A granule: 32 data bytes, byte 0 in bits [7:0], and its seal (R33). -/
structure Granule where
  data : Vec
  sl : BitVec 32
  deriving DecidableEq, Repr

/-- The code position of data bit i: the (i + 1)-th integer from 3 that is no power of two (R33). -/
def codePos (i : Nat) : Nat :=
  i + 3 + (if i < 1 then 0 else if i < 4 then 1 else if i < 11 then 2 else if i < 26 then 3 else if i < 57 then 4
    else if i < 120 then 5 else if i < 247 then 6 else 7)

/-- The XOR of the positions of the set bits among data bits i to i + n - 1: check bits c8 to c0 (R33). -/
def hammingFrom : Nat → Nat → Nat → Nat → Nat
  | 0, _, _, acc => acc
  | n + 1, data, i, acc => hammingFrom n data (i + 1) (if data.testBit i then acc ^^^ codePos i else acc)

/-- The Hamming check bits of a granule's data (R33). -/
def hamming (data : Vec) : BitVec 9 := BitVec.ofNat 9 (hammingFrom 256 data.toNat 0 0)

/-- The parity of the low n bits. -/
def parityBits : Nat → Nat → Bool
  | 0, _ => false
  | n + 1, v => (v % 2 = 1) != parityBits n (v / 2)

/-- One bit of CRC-16 with polynomial 0x1021, most significant first (R33). -/
def crcBit (c : Nat) : Nat := if c.testBit 15 then (2 * c % 65536) ^^^ 0x1021 else 2 * c % 65536

/-- One byte into the CRC. -/
def crcByte (c b : Nat) : Nat :=
  crcBit (crcBit (crcBit (crcBit (crcBit (crcBit (crcBit (crcBit (c ^^^ (b * 256)))))))))

/-- The CRC of n bytes of a value, the lowest first. -/
def crcFrom : Nat → Nat → Nat → Nat
  | 0, _, c => c
  | n + 1, v, c => crcFrom n (v / 256) (crcByte c (v % 256))

/-- CRC-16/IBM-3740 over the 32 data bytes in address order (R33). -/
def crc16 (data : Vec) : BitVec 16 := BitVec.ofNat 16 (crcFrom 32 data.toNat 0xFFFF)

/-- One bit of CRC-64/ECMA-182 (10 R271). -/
def crc64Bit (f : Word) : Word := if f.getLsbD 63 then (f <<< 1) ^^^ 0x42F0E1EBA9EA3693 else f <<< 1

/-- One byte folded into a CRC-64 (10 R271, 14 R347). -/
def crc64Byte (f : Word) (y : Byte) : Word :=
  crc64Bit (crc64Bit (crc64Bit (crc64Bit (crc64Bit (crc64Bit (crc64Bit (crc64Bit (f ^^^ (y.setWidth 64 <<< 56)))))))))

/-- n bytes of a value folded in, the lowest first. -/
def crc64Fold : Nat → Word → Nat → Word
  | 0, f, _ => f
  | n + 1, f, v => crc64Fold n (crc64Byte f (BitVec.ofNat 8 v)) (v / 256)

/-- SealOf(data, tag) (R33). -/
def sealOf (data : Vec) (tag : BitVec 6) : BitVec 32 :=
  tag ++ bit (parityBits 256 data.toNat != parityBits 9 (hamming data).toNat) ++ hamming data ++ crc16 data

/-- A granule under a fresh seal. -/
def sealed (data : Vec) (tag : BitVec 6) : Granule := ⟨data, sealOf data tag⟩

/-- The tag of a seal (R33). -/
def tagOf (sl : BitVec 32) : BitVec 6 := sl.extractLsb' 26 6

def tagPoison : BitVec 6 := 0x3F

/-- Why a seal check fails: the subtypes of SEAL_FAULT (03 R72). -/
inductive SealFault where
  | uncorrectable | crc | tagMismatch | poison
  deriving DecidableEq, Repr

def SealFault.sub : SealFault → BitVec 4
  | .uncorrectable => 0 | .crc => 1 | .tagMismatch => 2 | .poison => 3

/-- The data bit whose code position is p, if any (R33). -/
def bitOfPos (p : Nat) : Option Nat :=
  let i := p - 3 - (if p < 4 then 0 else if p < 8 then 1 else if p < 16 then 2 else if p < 32 then 3
    else if p < 64 then 4 else if p < 128 then 5 else if p < 256 then 6 else 7)
  if p ≥ 3 && i < 256 && codePos i = p then some i else none

/-- SealCheck: the delivered data and whether a correction is counted, or the first fault (R34). -/
def sealCheck (g : Granule) (expected : Option (BitVec 6)) : Except SealFault (Vec × Bool) :=
  let tag := tagOf g.sl
  if tag = tagPoison then .error .poison
  else if 0x17 ≤ tag.toNat then .error .tagMismatch
  else
    let hchk : BitVec 9 := g.sl.extractLsb' 16 9
    let s := (hamming g.data ^^^ hchk).toNat
    let q := (parityBits 256 g.data.toNat != parityBits 9 hchk.toNat) != g.sl.getLsbD 25
    let fixed : Except SealFault (Vec × Bool) :=
      if !q then (if s = 0 then .ok (g.data, false) else .error .uncorrectable)
      else
        match bitOfPos s with
        | some i => .ok (g.data ^^^ (1#256 <<< i), true)
        -- hpar itself, a check bit, or a position no bit has
        | none => if s > 265 then .error .uncorrectable else .ok (g.data, true)
    match fixed with
    | .error e => .error e
    | .ok (d, corrected) =>
      if crc16 d ≠ g.sl.extractLsb' 0 16 then .error .crc
      else
        match expected with
        | some t => if tag = t || tag = 0 then .ok (d, corrected) else .error .tagMismatch
        | none => .ok (d, corrected)

/-- The third step of a check finds a single-bit error, whatever the steps after it find: a correction is counted (R34). -/
def sealFixes (g : Granule) : Bool :=
  let hchk : BitVec 9 := g.sl.extractLsb' 16 9
  let s := (hamming g.data ^^^ hchk).toNat
  (tagOf g.sl).toNat < 0x17 && ((parityBits 256 g.data.toNat != parityBits 9 hchk.toNat) != g.sl.getLsbD 25) && s ≤ 265

/-- The seal of a zero granule tagged raw: what memory holds before a first write (07 R169; log 1). -/
def sealZero : BitVec 32 := sealOf 0 0

/-- Byte k of a granule's data. -/
def byteOf (v : Vec) (k : Nat) : Byte := v.extractLsb' (8 * k) 8

/-- The bits of the bytes named by a byte mask. -/
def byteMask (m : BitVec 32) : Vec :=
  BitVec.ofNat 256 ((List.range 32).foldl (fun a k => if m.getLsbD k then a + 255 * 2 ^ (8 * k) else a) 0)

/-- new where the mask is set, old elsewhere. -/
def blend (old new mask : Vec) : Vec := (old &&& ~~~mask) ||| (new &&& mask)

end Sys2Proof.Machine
end

