-- ==== Sys2Proof/Machine/State.lean ====
section
/-! DEFINITION. The state of the machine as plain data: all that the manual gives the package, and the model's own
bookkeeping of what is in flight. INVENTORY.md lists every field with its rule and reset value. -/

namespace Sys2Proof.Machine

/-! Containers -/

/-- A sparse table: the entries that differ from a default the reader supplies. -/
abbrev Tab (α : Type) := List (Nat × α)

/-- Memory as bytes by address, in canonical form: addresses strictly rising, no zero byte listed. -/
abbrev Memory := List Host.Cell

/-- The canonical form of a memory: addresses strictly rising, no entry equal to what an unlisted address reads as. -/
abbrev Memory.wf (m : Memory) : Prop := m.Pairwise (fun a b => a.1 < b.1) ∧ ∀ c ∈ m, c.2 ≠ 0#8

/-! Threads (03) -/

/-- A segment register (03 R73). -/
structure Seg where
  kind : BitVec 4 := 0
  /-- remote, atomic, execute, write, read, from bit 4 down -/
  rights : BitVec 5 := 0
  limit : BitVec 48 := 0
  base : BitVec 56 := 0
  deriving DecidableEq, Repr

/-- cr.status (03 R71). -/
structure Status where
  spt : Bool := false
  inh : Bool := false
  pie : Bool := false
  ie : Bool := false
  pmode : BitVec 2 := 0
  mode : BitVec 2 := 0
  deriving DecidableEq, Repr

/-- A trap that has been raised and not yet entered (03 R83, R84). -/
structure Trap where
  code : BitVec 8
  sub : BitVec 4 := 0
  info : Word
  /-- cr.epc; a rollback trap takes the mark address instead -/
  epc : BitVec 15
  fpc : BitVec 15
  rollback : Bool := false
  /-- asynchronous: cr.epc is the next instruction not yet issued, as it stands once the thread has drained -/
  async : Bool := false
  deriving DecidableEq, Repr

/-- The shadowed state of a restart mark (03 R81); v holds the registers written since, as they stood. -/
structure Shadow where
  x : Vector Word 32 := Vector.replicate 32 0
  k : Vector (BitVec 32) 8 := Vector.replicate 8 0
  fflags : BitVec 7 := 0
  fmode : BitVec 3 := 0
  srseed : BitVec 32 := 0
  gen : Vector (BitVec 32) 8 := Vector.replicate 8 0
  spos : List (Nat × Nat) := []
  v : Tab Vec := []
  deriving DecidableEq, Repr

/-- Which granule an access names before translation: tile SRAM offset or virtual address of byte 0. -/
inductive GKey where
  | own (off : Nat)
  | virt (va : Nat)
  deriving DecidableEq, Repr

/-- Where a granule or word lives: its owner and its address there (12 R300). -/
inductive Loc where
  | sram (tile off : Nat)
  | hbm (a : Nat)
  /-- the package page (15 R359), read by offset -/
  | page (off : Nat)
  /-- the watchdog page (14 R354) -/
  | watchdog (off : Nat)
  /-- a far package, by rank and virtual address (16 R387) -/
  | remote (rank va : Nat)
  deriving DecidableEq, Repr

/-- A granule held in a thread's store buffer (03 R82, 05 R140). -/
structure Gated where
  key : GKey
  data : Vec
  mask : BitVec 32
  tag : Option (BitVec 6) := none
  /-- where it performs; none until the translation of a kind 1 store has returned -/
  loc : Option Loc
  deriving DecidableEq, Repr

/-- A write that an instruction's result makes. -/
inductive Write where
  | x (d : Reg) (value : Word)
  /-- the bits of mask take value's -/
  | v (n : Nat) (value mask : Vec)
  | k (n : BitVec 3) (value mask : BitVec 32)
  | seg (n : BitVec 3) (value : Seg)
  | flags (f : BitVec 7)
  /-- a granule pushed onto a queue of the tile (07 R177) -/
  | push (q : Nat) (g : Granule)
  /-- a granule taken by a write stream's transfer unit (07 R186) -/
  | stream (j : Nat) (g : Granule) (loc : Loc)
  /-- an unpack pattern of the tile (05 R145) -/
  | upat (j : Nat) (value : Word)
  /-- a granule of the tile's idle stream half, or of its bundle table (08 R208) -/
  | half (n : Nat) (value : Vec)
  | bundle (n : Nat) (value : Vec)
  /-- a record that FORK pushes onto the deque (07 R193) -/
  | task (record : Vec)
  /-- a trace record that enters the tile's buffer (14 R340) -/
  | trace (record : Vec)
  /-- a value's bytes folded into the path hash (14 R347) -/
  | fold (bytes : Nat) (value : Word)
  /-- the remote read cache of a die emptied (16 R398) -/
  | emptyRemote (die : Nat)
  deriving DecidableEq, Repr

/-- One granule read that an outstanding result waits for. -/
structure Req where
  key : GKey
  /-- bytes taken from the store buffer at issue (04 R99) -/
  own : Vec := 0
  ownMask : BitVec 32 := 0
  /-- the store buffer holds every byte needed: only the translation is made (R99) -/
  skip : Bool := false
  /-- the checked data once it has arrived -/
  got : Option Vec := none
  deriving DecidableEq, Repr

/-- How the granules of a result become writes. -/
inductive Finish where
  /-- the value was computed at issue -/
  | ready (ws : List Write)
  /-- a scalar load of size bytes at a byte of granule 0 (04 R98) -/
  | scalar (d : Reg) (byte size : Nat) (signed : Bool)
  /-- a vector load: the bits of mask are loaded, those of zmask zeroed (05 R139) -/
  | vector (d : Nat) (mask zmask : Vec)
  /-- a gather: for each active element its granule number and bit offset there (05 R142) -/
  | gather (d width : Nat) (elems : List (Nat × Nat × Nat)) (zmask : Vec)
  /-- an unpacking load from the stream bit within granule 0 (05 R141) -/
  | unpack (d : Nat) (pat : Word) (bit : Nat) (active : BitVec 256) (zmask : Vec)
  /-- a buffer record into a segment register (04 R101) -/
  | segment (n : BitVec 3)
  /-- an instruction store load: where it writes, and the granules written so far (04 R113) -/
  | istore (dst done : Nat)
  /-- the translation of a gated store (03 R82) -/
  | probe (key : GKey)
  /-- the translation of a write stream's granule (07 R186) -/
  | accept (j : Nat) (g : Granule)
  /-- an ITEM, with its destination and the address it branches to without a next item (06 R158) -/
  | item (d : Reg) (dest : BitVec 15)
  /-- an XIT: whether it kills its item (06 R159) -/
  | xit (kill : Bool)
  /-- the killing of an item of a fatal thread (06 R161) -/
  | killed
  /-- a spawn.evict that waits for the victim of a slot of its tile (07 R189) -/
  | evict (slot : Nat) (d : Reg)
  /-- a TFENCE's validation: the first word that fails, if any, and the changes of the idle half before it (08 R231) -/
  | publish (fault : Option Nat) (edits : Nat)
  /-- the value of an atomic, a steal, a doorbell, a walk: written when the reply gives it -/
  | reply
  deriving DecidableEq, Repr

/-- An outstanding result (03 R77, R78). -/
structure Outst where
  tok : Nat
  /-- the instruction's address, for cr.fpc -/
  pc : BitVec 15
  reqs : List Req := []
  fin : Finish
  /-- the format that each granule's seal must name (01 R34) -/
  expect : Option (BitVec 6) := none
  /-- the first cycle on which the result may land -/
  lands : Nat
  /-- the SRAM offsets of granules that it pops and whose banks the timed plane has taken so far, and its latency from the
  last of them (07 R170) -/
  bank : List Nat := []
  after : Nat := 0
  /-- the result lands in issue order after these registers' earlier writers: x, v, k and seg numbers -/
  dests : List (Nat × Nat) := []
  deriving DecidableEq, Repr

/-- What a thread waits for before its next instruction. -/
inductive Wait where
  /-- WFI (04 R111) -/
  | wfi
  /-- a tile or cluster barrier's release, at the BAR (07 R198) -/
  | barrier (cluster : Bool) (num : Nat)
  /-- WAITC: its instruction's address, its word's granule and byte, its segment offset, operand, condition, destination,
  and the cycle on which it times out; a read is in flight, and the granule was written meanwhile (07 R199) -/
  | word (pc : BitVec 15) (key : GKey) (byte : Nat) (off : Word) (b : Word) (cond : BitVec 3) (d : Reg)
      (until_ : Option Nat) (reading again : Bool)
  deriving DecidableEq, Repr

/-- The run of items of a launched thread (06 R147). -/
structure Run where
  launch : Nat
  position : Nat
  deriving DecidableEq, Repr

/-- Everything a thread holds (03 R68). -/
structure Thread where
  serial : Nat := 0
  pc : BitVec 15 := 0
  x : Vector Word 32 := Vector.replicate 32 0
  v : Tab Vec := []
  window : Nat := 48
  k : Vector (BitVec 32) 8 := Vector.replicate 8 0
  seg : Vector Seg 8 := Vector.replicate 8 {}
  gen : Vector (BitVec 32) 8 := Vector.replicate 8 0
  shape : Vector (Vector (BitVec 32) 4) 8 := Vector.replicate 8 (Vector.replicate 4 1)
  status : Status := {}
  cause : BitVec 12 := 0
  info : Word := 0
  epc : Word := 0
  fpc : Word := 0
  tvec : Word := 0
  ftvec : Word := 0
  ienable : BitVec 8 := 0
  ipend : BitVec 8 := 0
  scratch : Word := 0
  fflags : BitVec 7 := 0
  fmode : BitVec 3 := 0
  srseed : BitVec 32 := 0
  timecmp : Word := ones 64
  item : BitVec 40 := ones 40
  ttab : BitVec 13 := 0
  /-- cr.mark.mpc (R80) -/
  mpc : BitVec 15 := 0
  shadow : Shadow := {}
  gated : List Gated := []
  outst : List Outst := []
  /-- faults that accesses have returned, with their token in program order (R83) -/
  faults : List (Nat × Trap) := []
  /-- the trap whose entry has begun -/
  entering : Option Trap := none
  /-- the trap that made it fatal (R83) -/
  fatal : Option Trap := none
  /-- asynchronous traps not yet taken: debug stops, watchdogs, region traps, posts (R84) -/
  asyncs : List Trap := []
  /-- an issued committing instruction whose second mark is still to be taken (R82) -/
  committing : Bool := false
  wait : Option Wait := none
  /-- the first cycle on which it may issue (R83, 07 R188) -/
  resumeAt : Nat := 0
  /-- its items, F and registers (06 R147 to R153) -/
  run : Option Run := none
  entry : BitVec 15 := 0
  fregs : List Nat := []
  sent : BitVec 8 := 0
  /-- the launch it belongs to, its own or its parent's -/
  launch : Option Nat := none
  /-- the worst fault class it reports (06 R160) -/
  faultClass : Nat := 0
  /-- halted by a debug stop, with the identifier to take on resumption (07 R200, 14 R349) -/
  halted : Option (Option (BitVec 12)) := none
  /-- the path hash of a replay (14 R347) -/
  hash : Word := 0
  /-- the trap last taken: the model's own, by which the step tells a precise trap at issue (R76) -/
  taken : Option Trap := none
  /-- the queue granules that its present committing instruction has popped, and the SRAM offsets of those whose banks the
  timed plane takes on the issue cycle (07 R170) -/
  popped : List (Nat × Granule) := []
  late : List Nat := []
  /-- a cr.status.mode that the debug interface has written, to take effect on resumption (14 R350) -/
  debugMode : Option (BitVec 2) := none
  deriving DecidableEq, Repr

/-- An entry of a forwarding buffer (06 R152). -/
inductive FwdEntry where
  | value (g : Granule) (seed : Option Nat)
  | poison
  deriving DecidableEq, Repr

/-- The forwarding buffer: the filled entries by item, register index and distance (06 R152). -/
structure FwdKey where
  item : Nat
  j : Nat
  k : Nat
  deriving DecidableEq, Repr

/-- A spilled victim (07 R189, R190). -/
structure Victim where
  thread : Thread
  /-- the save area: its granules' locations -/
  save : List Loc
  fault : Option Trap
  since : Nat
  /-- the granules that its restoration has read so far -/
  got : List Vec := []
  deriving DecidableEq, Repr

/-- An eviction under way: the parent's slot, serial and token, the child, the save area (07 R189). -/
structure Evict where
  who : Who
  serial : Nat
  tok : Nat
  child : Thread
  vectors : Nat
  save : List Loc
  /-- the victim has drained; the granules of its save area still to be written -/
  started : Bool := false
  left : List (Loc × Vec) := []
  deriving DecidableEq, Repr

/-- A thread slot (07 R166). -/
structure Slot where
  thread : Option Thread := none
  victim : Option Victim := none
  evict : Option Evict := none
  fwd : List (FwdKey × FwdEntry) := []
  /-- the first cycle on which the slot may act again -/
  turn : Nat := 0
  /-- its thread is parked at 32 outstanding results, which has been counted (14 R343) -/
  full : Bool := false
  deriving DecidableEq, Repr

/-! The tile (07) -/

/-- A queue: its configuration word and its counters (07 R177 to R179). -/
structure Queue where
  cfg : Word := 0
  head : Nat := 0
  tail : Nat := 0
  count : Nat := 0
  /-- pushes issued that have not performed -/
  inFlight : Nat := 0
  /-- the threads parked on a push into it, full, or on a pop of it, empty: slot, thread, and the thread's resumeAt, which a trap
  changes -/
  parked : List (Nat × Nat × Nat) := []
  /-- those of them that a qcfg.set found, parked until the next push or pop (R178) -/
  stay : List (Nat × Nat × Nat) := []
  deriving DecidableEq, Repr

/-- A stream register (07 R183). -/
structure Stream where
  write : Bool
  seg : Seg
  base : Word
  stride : Vector (BitVec 32) 3
  count : Vector (BitVec 16) 3
  /-- the slot and the thread that bound it -/
  owner : Nat
  thread : Nat
  /-- the program's position (shadowed) -/
  pos : Nat := 0
  /-- fetched granules by index: data, or the fault that travels with it -/
  held : List (Nat × Option Granule × Option Trap) := []
  /-- granules being fetched -/
  busy : List Nat := []
  /-- granules taken and not yet performed, in pattern order (R186) -/
  drain : List (Nat × Granule × Loc) := []
  /-- it is being freed, once its granules have performed -/
  freeing : Bool := false
  /-- a fault of a fetched granule has been taken: the unit fetches on once the program reads again (R185) -/
  stalled : Bool := false
  deriving DecidableEq, Repr

/-- A range-lock entry (07 R173). -/
structure Lock where
  /-- false: SRAM offsets, true: virtual addresses -/
  virt : Bool
  lock : BitVec 2
  owner : BitVec 2
  ident : BitVec 10
  first : Nat
  last : Nat
  deriving DecidableEq, Repr

/-- A record of the deque with the slot that pushed it, if a FORK did (07 R191, R192). -/
structure Task where
  record : Vec
  pusher : Option Nat
  id : Nat
  deriving DecidableEq, Repr

/-- An armed counter (07 R196). -/
structure Armed where
  off : Nat
  record : Vec
  /-- fired, and waiting for room in the deque (R197) -/
  fired : Bool := false
  deriving DecidableEq, Repr

/-- A barrier: the count that its first arrival fixed, and who has arrived (07 R198, 10 R277). -/
structure Barrier where
  count : Nat := 0
  arrived : List (Who × Nat) := []
  deriving DecidableEq, Repr

/-- A line of the threaded read cache: its granule's virtual address and content (07 R172). -/
structure Line where
  va : Nat
  rank : Nat
  g : Granule
  deriving DecidableEq, Repr

/-! The timed plane (08, 09, 13) -/

/-- A generator (08 R211). -/
structure Gen where
  base : BitVec 56 := 0
  stride0 : BitVec 32 := 0
  stride1 : BitVec 32 := 0
  stride2 : BitVec 32 := 0
  count0 : BitVec 16 := 0
  count1 : BitVec 16 := 0
  count2 : BitVec 16 := 0
  n : Nat := 0
  deriving DecidableEq, Repr

/-- The counters of an operand ring and of its code buffer (09 R234, R235). -/
structure RingCount where
  head : BitVec 32 := 0
  next : BitVec 32 := 0
  tail : BitVec 32 := 0
  chead : BitVec 32 := 0
  cnext : BitVec 32 := 0
  ctail : BitVec 32 := 0
  deriving DecidableEq, Repr

/-- The configuration of an operand ring (09 R232) and the codes it buffers (R235). -/
structure Ring where
  enable : Bool := false
  tag : BitVec 6 := 0
  size : BitVec 13 := 0
  base : BitVec 14 := 0
  codes : Vector (BitVec 4) 256 := Vector.replicate 256 0
  deriving DecidableEq, Repr

/-- A window (13 R320, R321). -/
inductive WinState where
  | closed | opened | awaiting
  deriving DecidableEq, Repr

structure Window where
  st : WinState := .closed
  /-- the granule number of its descriptor -/
  granule : Nat := 0
  /-- the latched descriptor -/
  desc : Vec := 0
  /-- the cycle through whose end a closing window still accepts its posts (R324) -/
  closing : Option Nat := none
  /-- the missing posts that an awaiting window still awaits (R326) -/
  awaited : BitVec 16 := 0
  deriving DecidableEq, Repr

/-- What a MARK's snapshot holds (08 R227): the slot files, the counters, the stream pointer, the windows, the buffers. -/
structure Files where
  acc : Vector Vec 32 := Vector.replicate 32 0
  y : Vector Vec 32 := Vector.replicate 32 0
  a : Vector Gen 8 := Vector.replicate 8 {}
  b : Vector Gen 8 := Vector.replicate 8 {}
  z : Vector Vec 8 := Vector.replicate 8 (BitVec.ofNat 256 (0x7F * ((2 ^ 256 - 1) / 255)))
  c : Vector (BitVec 32) 8 := Vector.replicate 8 0
  ring : Vector RingCount 4 := Vector.replicate 4 {}
  /-- the sticky fields, in slot order -/
  sticky : Vector (BitVec 44) 7 := Vector.replicate 7 0
  ptr : Nat := 0
  /-- false: H0 active -/
  active : Bool := false
  win : Vector Window 16 := Vector.replicate 16 {}
  rx : Vector (List Granule) 28 := Vector.replicate 28 []
  deriving DecidableEq, Repr

/-- What a timed result does when it lands, or reads at the bank (08 R215). -/
inductive Effect where
  /-- the bits of mask of a y register -/
  | y (n : Nat) (value mask : Vec)
  | z (n : Nat) (value : Vec)
  | c (n : Nat) (value : BitVec 32)
  | gen (lb : Bool) (n : Nat) (value : Gen)
  | accZero (n : Nat)
  | accRow (n row : Nat) (value : Vec)
  /-- the operands of an array operation read, and its results for each element: the exact group sums of an integer form,
  or FP32 sums (09 R240) -/
  | arrayRead (op : SlotOp) (offsA offsB : List Nat) (codes : List (BitVec 4)) (za zb : Vec) (lands : Nat)
  | array (op : SlotOp) (sums : List Int)
  /-- bank reads on issue + 1 -/
  | readRing (ring : Nat) (offs : List Nat)
  | readY (n off : Nat)
  | readGen (lb : Bool) (n off : Nat)
  | readUnpack (y : Nat) (pat : Word) (offs : List Nat)
  | readScale (z off : Nat)
  | readSend (port : Nat) (offs : List Nat)
  | readHost (transfer : Nat)
  | openWin (w off : Nat)
  /-- granules pushed onto a ring: for each whether it is a header line (09 R234, R235) -/
  | pushRing (ring : Nat) (gs : List (Bool × Granule))
  /-- bank writes on issue + 1 -/
  | store (off : Nat) (g : Granule)
  | closeWin (w : Nat) (stall : Option Nat) (at_ : Nat)
  /-- the close examined at the end of its cycle, with the granules of the defaults as they were read (13 R324 to R326) -/
  | closed (w : Nat) (stall : Option Nat) (at_ : Nat) (defaults : List (Nat × Granule))
  /-- granules on their way over a port -/
  | sent
  /-- granules taken from a receive buffer written at SRAM offsets -/
  | received (ws : List (Nat × Granule))
  deriving DecidableEq, Repr

/-- A timed result in flight, with the stream-store address of its bundle's word. -/
structure TimedRes where
  id : Nat
  due : Nat
  /-- the phase of its cycle -/
  phase : Nat
  /-- its slot's number (08 R206) and the timed flags that it sets -/
  slot : Nat
  flags : BitVec 8 := 0
  addr : Nat
  eff : Effect
  deriving DecidableEq, Repr

/-- An HLD or HST (08 R220). -/
structure Transfer where
  id : Nat
  load : Bool
  va : Nat
  off : Nat
  n : Nat
  /-- region cycle -/
  deadline : Nat
  /-- still checked: not issued before a rollback -/
  checked : Bool := true
  /-- granules read from SRAM, for HST -/
  data : List Granule := []
  /-- granules that have performed -/
  done : List Nat := []
  addr : Nat
  /-- the region that issued it -/
  region : Nat
  deriving DecidableEq, Repr

/-- What the sequencer is doing (08 R204). -/
inductive SeqState where
  /-- about to read a word -/
  | word
  /-- issuing a bundle: index, repeats left, the word's stream-store address -/
  | issuing (index left addr : Nat)
  /-- empty cycles left -/
  | empty (left : Nat)
  /-- ALIGN to a multiple of 2^a -/
  | aligning (a : Nat)
  | ended
  | reported
  deriving DecidableEq, Repr

/-- The timed plane of a tile. -/
structure Timed where
  h0 : Tab (BitVec 16) := []
  h1 : Tab (BitVec 16) := []
  ready : Bool := false
  /-- how often the idle half has changed: landings of TBLW.s and exchanges of the halves (08 R231) -/
  edits : Nat := 0
  swap : Bool := false
  bundles : Tab Vec := []
  files : Files := {}
  snap : Option Files := none
  snapAt : Nat := 0
  /-- the identifiers of the last MARK and of the one whose snapshot is held (08 R227) -/
  markId : BitVec 14 := 0
  snapId : BitVec 14 := 0
  post : Vector Word 16 := Vector.replicate 16 0
  arrived : BitVec 16 := 0
  rings : Vector Ring 4 := Vector.replicate 4 {}
  /-- first wall cycle on which the array is free (09 R236) -/
  arrayFree : Nat := 0
  flags : BitVec 8 := 0
  arrayops : Nat := 0
  discards : Nat := 0
  results : List TimedRes := []
  transfers : List Transfer := []
  seqr : SeqState := .reported
  /-- the first cycle on which the sequencer may act again -/
  turn : Nat := 0
  /-- a MARK's snapshot is taken on the next issue cycle (08 R227) -/
  marked : Bool := false
  /-- control words since the last cycle (08 R204) -/
  controls : Nat := 0
  /-- the stream-store address of the word being executed -/
  addr : Nat := 0
  /-- the region that the tile runs in -/
  region : Option Nat := none
  deriving DecidableEq, Repr

/-- A tile (00 R3, 07). -/
structure Tile where
  /-- rotation width, 4 or 8 (07 R166) -/
  width : Nat := 4
  slots : Vector Slot 8 := Vector.replicate 8 {}
  /-- the timed-owned banks (07 R168) -/
  banks : BitVec 24 := 0
  launch : Option Nat := none
  istore : Memory := []
  cache : Vector (List Line) 256 := Vector.replicate 256 []
  /-- the range-lock table: its valid entries by number (R173) -/
  locks : Tab Lock := []
  queues : Vector Queue 16 := Vector.replicate 16 {}
  ports : Vector (Option Vec) 8 := Vector.replicate 8 none
  streams : Vector (Option Stream) 16 := Vector.replicate 16 none
  deque : List Task := []
  /-- FORKs issued whose records are not in the deque yet (R193) -/
  forking : Nat := 0
  /-- the first cycle on which the deque serves another request (R192) -/
  dequeFrom : Nat := 0
  /-- continuations by slot, latest first, that no POPC has asked for (07 R194) -/
  conts : List (Nat × Nat) := []
  armed : Vector (Option Armed) 16 := Vector.replicate 16 none
  barriers : Vector Barrier 16 := Vector.replicate 16 {}
  upat : Vector Word 8 := Vector.replicate 8 0
  corrected : Nat := 0
  pmcSel : Vector Word 4 := Vector.replicate 4 0
  pmc : Vector (BitVec 48) 4 := Vector.replicate 4 0
  /-- what takes effect as the cycle ends: counters set, and slots whose registers receive counters (14 R344) -/
  pmcNext : List (Nat × Word × BitVec 48) := []
  pmcReads : List (Nat × Reg × Nat) := []
  trace : List Vec := []
  traceLost : Nat := 0
  /-- records of TRCs that land on this cycle, by slot: they enter the buffer at its end (14 R342) -/
  traced : List (Nat × Vec) := []
  timed : Timed := {}
  /-- the banks that the timed plane uses on the cycle named (07 R170) -/
  bankCycle : Nat := 0
  bankBusy : BitVec 24 := 0
  deriving DecidableEq, Repr

/-! In flight -/

/-- What an access is for. -/
inductive AccKind where
  /-- granule idx of an outstanding result -/
  | granule (tok idx : Nat)
  /-- a translation alone: of a gated store, of a stream's granule, or of a load that the store buffer serves -/
  | probe (tok : Nat) (write : Bool)
  /-- a released store-buffer entry -/
  | release (data : Vec) (mask : BitVec 32) (tag : Option (BitVec 6))
  /-- an atomic or CAS: operation code, width, operand, expected value, destination -/
  | atomic (tok op : Nat) (wide : Bool) (operand expected : Word) (d : Reg)
  /-- a read of WAITC's word (07 R199) -/
  | word
  /-- a destination of a VSTM (05 R144) -/
  | multicast (tok : Nat) (g : Granule)
  /-- a granule that the walker reads for a position, after a number of steps: a node, or for a descent into a run the block
  table entry of it, with the offset within the block (10 R279) -/
  | walk (tok p : Nat) (d : Reg) (steps : Nat) (offset : Option Nat)
  /-- a launch at the package's arbiter, with the instruction's value (11 R294) -/
  | launch (tok : Nat) (d : Reg) (value : Word)
  /-- a burst of an HLD or HST of the tile: its first granule's number and how many (08 R220) -/
  | burst (transfer first n : Nat)
  /-- a transfer unit's granule from or to a far package (07 R185, R186) -/
  | fetch (stream index : Nat)
  | drain (stream : Nat) (g : Granule)
  deriving DecidableEq, Repr

/-- An access in flight. -/
structure Access where
  id : Nat
  who : Who
  /-- the thread's serial: replies to an ended thread are dropped -/
  thread : Nat
  key : GKey
  /-- byte within the granule, for atomics -/
  byte : Nat := 0
  size : Nat := 32
  kind : AccKind
  /-- its owner, once known -/
  loc : Option Loc := none
  /-- the launch of its thread (11 R298) -/
  launch : Option Nat := none
  /-- the issuing thread's mode, for the watchdogs' page (14 R354) -/
  mode : BitVec 2 := 0
  /-- a bank that was taken has held it at its tile's bank port: the tile, and its place in the order of those held (07 R171) -/
  held : Option (Nat × Nat) := none
  /-- 0 in its tile, at the threaded read cache; 1 at the port; 2 on the way to its owner; 3 granted by the owner -/
  stage : Nat := 0
  /-- it waits at the port for a rank's entry (16 R387) -/
  parked : Bool := false
  /-- the invalidations of its die's remote read cache when it issued (16 R397) -/
  epoch : Nat := 0
  /-- the entropy value of its packets, on an Ultra Ethernet route (16 R392) -/
  entropy : Option (BitVec 16) := none
  /-- the page's dirty and logged bits ask for the owner's record (12 R309): the granule's virtual address -/
  logged : Bool := false
  /-- its page's home (10 R263) -/
  home : Nat := 1
  /-- granules of a load burst, read at their owner and not yet performed (08 R220) -/
  data : List Granule := []
  deriving DecidableEq, Repr

/-- What an access needs of its segment and its page. -/
inductive Need where
  | read | write | atomic | execute
  deriving DecidableEq, Repr

/-- A run of bytes of a range that a translation maps to one place (10 R267). -/
structure Piece where
  start : Nat
  size : Nat
  loc : Loc
  logged : Bool := false
  deriving DecidableEq, Repr

/-- A source or destination range of an engine operation: its segment offset's address and its translated pieces. -/
structure Span where
  /-- true: virtual addresses -/
  virt : Bool
  addr : Nat
  pieces : List Piece
  deriving DecidableEq, Repr

/-- One destination of an engine operation, with the tile and byte offset of its completion word, the granules performed
there, and those of them not yet added to the word (10 R269). -/
structure Dest where
  span : Span
  word : Option (Nat × Nat) := none
  wrote : Nat := 0
  owed : Nat := 0
  deriving DecidableEq, Repr

/-- What an engine operation does (10 R265). -/
inductive EngKind where
  | cpy | cpym
  /-- the record's offset, its fingerprint, its candidate, and its lower half as it was read (R271) -/
  | cpyf (record : Nat) (fp : Word) (cand : Option Span) (low : BitVec 128)
  | cmpr | dcmp
  | fill (pattern : Word) (tag : BitVec 6)
  /-- RPUT with its flag word, where the destination is on the own rank: its place, and its address where its page is logged; RGET
  (16 R393 to R395) -/
  | rput (flag : Option (Loc × Option Nat)) | rget
  deriving DecidableEq, Repr

/-- A range-lock registration of an operation: the tile whose table it goes to, the entry, and the destination that it
covers, none for a source (07 R174). -/
structure Registration where
  tile : Nat
  entry : Lock
  dest : Option Nat
  deriving DecidableEq, Repr

/-- An operation of the copy engine (10 R267). -/
structure EngOp where
  id : Nat
  who : Who
  thread : Nat
  tok : Nat
  launch : Option Nat
  kind : EngKind
  length : Nat
  src : Option Span := none
  dests : List Dest
  /-- registrations still to be made, and those made -/
  asks : List Registration := []
  made : List Registration := []
  accepted : Bool := false
  /-- the far rank of an RPUT or RGET, the right it needs there, and that it has found the entry invalid (16 R387, R388) -/
  far : Option (Nat × Need) := none
  parked : Bool := false
  /-- the path that its ticket names, and the entropy value of its packets (16 R392, R393) -/
  path : BitVec 4 := 0
  entropy : Option (BitVec 16) := none
  /-- copies still to be read: runs of (destination × length + granule), and those read and not yet written -/
  left : List (Nat × Nat) := []
  held : List (Nat × Granule) := []
  /-- granules read in order, by the operations that read so -/
  read : Nat := 0
  /-- the fingerprint so far, and the outcome decided (R272) -/
  print : Word := 0
  outcome : Option Nat := none
  /-- CMPR and DCMP: the block's codes, zero seal, literals and header place (R273) -/
  codes : List (BitVec 2) := []
  zseal : Option (BitVec 32) := none
  lits : Nat := 0
  header : Nat := 0
  prev : Option Granule := none
  ended : Bool := false
  deriving DecidableEq, Repr

/-- A cached translation: the page's first virtual address and size, its leaf, and the leaf's data address (10 R264). -/
structure Cached where
  base : Nat
  size : Nat
  entry : Word
  groups : Word
  leaf : Nat
  deriving DecidableEq, Repr

/-- A cluster (10). -/
structure Cluster where
  group : BitVec 6 := 0
  cache : List Cached := []
  /-- logged writes of its owner since job start (12 R309) -/
  logged : Nat := 0
  engine : List EngOp := []
  barriers : Vector Barrier 16 := Vector.replicate 16 {}
  /-- arrivals on their way to the barrier unit: number, thread, count (10 R277) -/
  arriving : List (Nat × Who × Nat × Nat) := []
  deriving DecidableEq, Repr

/-! Launches (06, 11) -/

/-- A delivery of a declared register to a later item (06 R154). -/
structure Delivery where
  id : Nat
  who : Who
  thread : Nat
  tok : Nat
  launch : Nat
  key : FwdKey
  target : Who
  entry : FwdEntry
  /-- the target's bank was beyond 3: it waits at the sender -/
  waiting : Bool := false
  deriving DecidableEq, Repr

/-- A tile's part in its launch (11 R297). -/
structure TilePart where
  items : Nat := 0
  cls : Nat := 0
  /-- the statuses from its children: child, class, items, and the cycle of arrival -/
  got : List (Nat × Nat × Nat × Nat) := []
  /-- its square's update has been asked for (11 R297) -/
  squared : Bool := false
  /-- for a launch with the region flag: its part is done, or the region has ended fatal -/
  regionDone : Bool := false
  sent : Bool := false
  deriving DecidableEq, Repr

/-- An update of a join word or a square's word, still to be made: its class and items, the tiles whose writes come first, and
whether it is the root's (11 R297, R298). -/
structure JoinUpdate where
  loc : Loc
  cls : Nat
  items : Nat
  tiles : List Nat
  root : Bool
  deriving DecidableEq, Repr

/-- A running launch (11 R291 to R299). -/
structure Launch where
  desc : BitVec 512 := 0
  /-- the tile sequence (06 R148) -/
  tiles : List Nat := []
  parts : Tab TilePart := []
  /-- the join word and the subgroup words, translated -/
  join : Loc := .hbm 0
  squares : List Loc := []
  updates : List JoinUpdate := []
  abandoned : Bool := false
  deriving DecidableEq, Repr

/-- The region flag (11 R292). -/
def Launch.region (l : Launch) : Bool := l.desc.getLsbD 105

/-- What a packet on the mesh carries (11 R284). -/
inductive Payload where
  /-- a granule for a queue (07 R181) -/
  | granule (queue : Nat) (g : Granule)
  | doorbell (d : Reg) (slot : Nat)
  /-- a port SPAWN's child (07 R188) -/
  | spawn (d : Reg) (slot vectors : Nat) (child : Thread)
  | steal (d : Reg)
  deriving DecidableEq, Repr

/-- A packet on the mesh, at the router of a cluster, about to read the hop code of its index (11 R284 to R287). -/
structure Packet where
  id : Nat
  who : Who
  thread : Nat
  tok : Nat
  pc : BitVec 15
  desc : Vec
  index : Nat := 0
  cluster : Nat
  heading : BitVec 2 := 0
  /-- it has switched to the escape class, and moved north or south (or, in the first class, any way but west) (R287) -/
  escape : Bool := false
  bent : Bool := false
  /-- the tile at which it was ejected; 40,960 for a target that is no tile -/
  ejected : Option Nat := none
  /-- a router has dropped it, and the notice is on its way; it has left the package by a timed link -/
  dropped : Bool := false
  away : Bool := false
  load : Payload
  deriving DecidableEq, Repr

/-! Regions (08 R229 to R231, 13) -/

/-- A region fault (08 R229). -/
structure RegFault where
  tile : Nat
  /-- the region cycle and the cycle on which it was raised -/
  at_ : Nat
  wall : Nat
  /-- the cause of its deviation record (14 R338) -/
  cause : Nat
  code : BitVec 8
  sub : BitVec 4
  info : Word
  /-- the stream-store address of the bundle's word, and the record's aux -/
  addr : Nat
  aux : Nat := 0
  deriving DecidableEq, Repr

/-- A freeze that a STALL close, or a freeze token, has fixed (13 R326). -/
structure Freeze where
  /-- the closing tile and window; none for a token of the group -/
  close : Option (Nat × Nat)
  addr : Nat
  missing : BitVec 16
  /-- the region cycle t + S -/
  point : Nat
  /-- cycles since t, without those frozen for another reason -/
  count : Nat
  timeout : Nat
  /-- G, once the posts have landed -/
  length : Option Nat := none
  /-- cycles that the freeze has lasted -/
  elapsed : Nat := 0
  /-- the group time at which a resume token ends it (16 R381) -/
  until_ : Option Nat := none
  deriving DecidableEq, Repr

/-- A running region. -/
structure Region where
  launch : Nat := 0
  tiles : List Nat := []
  ratio : Nat := 0
  /-- the halt distance and the stall distance -/
  d : Nat := 2
  s : Nat := 2
  steward : Who := ⟨0, 0⟩
  stewardSerial : Nat := 0
  /-- its place among the regions launched since job start, from 0 (16 R380) -/
  index : Nat := 0
  /-- RegionCycle() has begun to count -/
  started : Bool := false
  /-- RegionCycle() (13 R318) -/
  cycle : Nat := 0
  freezes : List Freeze := []
  frozen : Bool := false
  /-- frozen from the debug interface, since this cycle; the region cycle at which that begins, and the cycle at which it ends
  (14 R348) -/
  stopped : Option Nat := none
  debugAt : Option Nat := none
  debugEnd : Option Nat := none
  /-- the fault reported, and the others of the same halt -/
  fault : Option RegFault := none
  others : List RegFault := []
  /-- the region cycle from which no tile issues -/
  haltAt : Option Nat := none
  halted : Bool := false
  /-- every tile has restored its snapshot -/
  rolled : Bool := false
  /-- the cycle on which issue resumes (08 R231) -/
  resumeAt : Option Nat := none
  deriving DecidableEq, Repr

/-- A POST on its way to its targets (13 R331, R332). -/
structure PostOp where
  id : Nat
  who : Who
  thread : Nat
  tok : Nat
  pc : BitVec 15
  value : Word
  p : Nat
  left : List Nat
  /-- every store before it has performed, and its value is on its way -/
  sent : Bool := false
  /-- its only target is the poster's own tile -/
  own : Bool := false
  refused : List Nat := []
  accepted : Bool := false
  deriving DecidableEq, Repr

/-- A pending completion: due on a cycle, in a phase of it, in order of entry (00 R11). -/
structure Due where
  due : Nat
  phase : Nat
  ev : Event
  deriving DecidableEq, Repr

/-- A step that is already fixed for the present cycle. -/
inductive Todo where
  | slot (tile : Nat) (op : SlotOp)
  | event (ev : Event)
  deriving DecidableEq, Repr

/-- A pseudo-channel's controller (13 R333): the next slot of its frame, and what waits, class 0 marked, in arrival order. -/
structure Channel where
  slot : Nat := 0
  waiting : List (Bool × Nat) := []
  deriving DecidableEq, Repr

/-! Dies (14, 16) -/

/-- A watchdog (14 R354): its word, the cycles since its count began, and whether it has expired since the last write. -/
structure Watchdog where
  word : Word := 0
  count : Nat := 0
  expired : Bool := false
  deriving DecidableEq, Repr

/-- A fatal context that is to be dumped, with its faults (14 R351 to R353). -/
structure DumpReq where
  /-- 0 thread, 1 region, 2 device -/
  kind : Nat
  cls : Nat
  who : Who
  /-- the region's tiles -/
  tiles : List Nat := []
  region : Nat := 0
  /-- a spilled thread, whose state stands nowhere else -/
  thread : Option Thread := none
  stamp : Nat
  code : BitVec 8
  sub : BitVec 4
  info : Word
  second : Option (BitVec 8 × BitVec 4 × Word) := none
  later : Nat := 0
  /-- the body of a region's dump, as the region stood (14 R352) -/
  body : List Vec := []
  deriving DecidableEq, Repr

/-- A replay (14 R345 to R347). -/
structure Replay where
  /-- the tile and offset of the descriptor -/
  tile : Nat
  off : Nat
  save : Nat
  cap : Nat
  /-- the save area, translated -/
  area : Span := ⟨true, 0, []⟩
  row0 : Nat
  col0 : Nat
  height : Nat
  width : Nat
  /-- pages captured, the first first: virtual address and data address -/
  pages : List (Nat × Nat) := []
  pass : Nat := 0
  hash0 : Word := 0
  hashn : Word := 0
  /-- the XOR of the hashes of the threads that have ended in this pass -/
  ended : Word := 0
  mismatch : Bool := false
  overflow : Bool := false
  deriving DecidableEq, Repr

/-- A die: its watchdogs, replay unit, dump engine, trace writer's turn, and remote read cache (14, 16 R397). -/
structure Die where
  dogs : Vector Watchdog 8 := Vector.replicate 8 {}
  replay : Option Replay := none
  dumps : List DumpReq := []
  /-- the first cycle on which the trace writer takes another record -/
  writer : Nat := 0
  /-- lines of the remote read cache: virtual address, granule; the latest last -/
  cache : List (Nat × Granule) := []
  /-- invalidations of that cache so far (R397) -/
  steps : Nat := 0
  /-- contexts that found the dump queue full and are still to be counted as lost (14 R353) -/
  lost : Nat := 0
  deriving DecidableEq, Repr

/-! The package (11, 15, 16) -/

/-- A port as the map's port table shows it (11 R289). -/
structure LinkPort where
  state : Nat := 0
  latency : Nat := 0
  frank : Nat := 0
  fport : Nat := 0xFFFF
  tile : Nat := 0
  pdata : BitVec 48 := 0
  deriving DecidableEq, Repr

/-- The package's own registers and the facts that boot fixes (11, 15, 16). -/
structure Pkg where
  /-- the translation root, a data address (10 R256) -/
  root : Nat := 0
  /-- the package's rank (16 R384) -/
  rank : Nat := 0
  /-- tiles that are holes, clusters whose router is absent, crossings that are down: by cluster and heading (11 R288) -/
  holes : List Nat := []
  absent : List Nat := []
  down : List (Nat × Nat) := []
  /-- the latencies of the crossings, by cluster × 4 + heading (11 R289) -/
  crossing : Tab Nat := []
  /-- timed link ports 0 to 23, Ultra Ethernet ports 24 to 31, the Idnen port 32 -/
  ports : Vector LinkPort 33 := Vector.replicate 33 {}
  /-- the readiness and failure words (15 R364) -/
  ready : Word := 0
  failed : Word := 0
  /-- the clock: m, capped, thermal limit (15 R373) -/
  m : Nat := 32
  capped : Bool := false
  thermal : Bool := false
  /-- the clock stands still (R373) -/
  stopped : Bool := false
  secver : Word := 0
  /-- the job record, the host command and its status, the group table for command 3 (15 R365, R366) -/
  job : BitVec 512 := 0
  command : Word := 0
  cmdBusy : Bool := false
  cmdStatus : Word := 0
  gtable : BitVec 1024 := 0
  /-- the attestation mailbox (15 R372): nonce, buffer, last length, command and status; a request in progress -/
  nonce : Vec := 0
  buffer : Word := 0
  outLen : Word := 0
  mailStatus : Word := 0
  attesting : Bool := false
  /-- boot flash copies A and B, the copy that runs (15 R369), and the keys accepted for the job (R370) -/
  flash : List (List Byte) := [[], []]
  firmware : List Byte := []
  keys : List (List Byte) := []
  /-- bytes of the HBM that the loader has given out (02 R63) -/
  allocated : Nat := 0
  /-- regions launched since job start (16 R380) -/
  regions : Nat := 0
  /-- the aligned group: size, index, members' ranks, and the alignment record's fields (16 R377 to R379) -/
  gsize : Nat := 1
  gindex : Nat := 0
  sgroup : Nat := 0
  tdepth : Nat := 0
  tparent : Nat := 0xFFFF
  tchild : BitVec 24 := 0
  /-- group time less cr.cycle (R377) -/
  gtime : Nat := 0
  /-- the group table as the group was formed (R377) -/
  gformed : BitVec 1024 := ones 1024
  /-- ready tokens that have come: member, group region and group time (R380), and group regions that an abort token has ended before
  they were launched here (R381) -/
  tokens : List (Nat × Nat × Nat) := []
  aborted : List Nat := []
  /-- at index 0, the m that each member wants: member and m (R383) -/
  wanted : List (Nat × Nat) := []
  /-- pages that the move service counts: address, moves, the cycle at which the last move finished (16 R401) -/
  moved : List (Nat × Nat × Nat) := []
  /-- rank table entries that ports still use: rank, the cycle from which they hold the new one, and the two granules (16 R386) -/
  oldEntries : List (Nat × Nat × Vec × Vec) := []
  /-- pseudo-channels and crossings that a lane failure has taken down (15 R355) -/
  dead : List Nat := []
  severed : List (Nat × Nat) := []
  /-- LAUNCHes at the launch arbiter, in the order of their arrival: their accesses (11 R294) -/
  arbiter : List Nat := []
  /-- the result of the host command that ends once the map has been published (15 R366) -/
  ending : Option Nat := none
  /-- the dispatcher's thread, the result that it waits for, and that it retries once a join word changes (15 R367) -/
  dispatcher : Option Who := none
  serving : Option Nat := none
  retry : Bool := false
  /-- the package has become device fatal (class 5) -/
  fatal : Bool := false
  deriving DecidableEq, Repr

/-- What the control node receives (14 R348, 15 R359 to R363). -/
inductive Answer where
  /-- a host read: its address, the bytes, and the seals of the granules that it touches -/
  | memory (addr : Nat) (bytes : List Byte) (seals : List (BitVec 32))
  /-- a package-page register: its offset and value -/
  | register (off : Nat) (value : Word)
  /-- the error response to a refused access, with its address -/
  | error (addr : Nat)
  /-- a register of a stopped thread -/
  | thread (who : Who) (value : Vec)
  /-- an entry of a range-lock table (07 R173) -/
  | lock (tile entry : Nat) (value : BitVec 128)
  deriving DecidableEq, Repr

structure State where
  /-- cr.cycle (03 R70) -/
  cycle : Nat := 0
  mem : Memory := []
  /-- the seal of each granule, by granule number; unlisted is sealZero -/
  seals : Tab (BitVec 32) := []
  tiles : Tab Tile := []
  clusters : Tab Cluster := []
  channels : Tab Channel := []
  dies : Tab Die := []
  pkg : Pkg := {}
  accs : List Access := []
  deliveries : List Delivery := []
  launches : Tab Launch := []
  regions : Tab Region := []
  posts : List PostOp := []
  packets : List Packet := []
  pend : List Due := []
  todo : List Todo := []
  /-- acts of outside parties, with the cycle of each -/
  inputs : List (Nat × Event) := []
  /-- the control node's accesses that wait at the Idnen port, in the order sent (15 R361) -/
  hosts : List Event := []
  /-- what the control node has received, the first first -/
  answers : List Answer := []
  /-- the agent whose step runs -/
  cur : Who := ⟨0, 0⟩
  /-- the counter that free values are applied to -/
  draws : Nat := 0
  serial : Nat := 0
  deriving DecidableEq, Repr

/-- Why the machine stops with a fault. -/
inductive Fault where
  /-- a threaded instruction is to run where no thread stands; raised by every threaded meaning. Safe: the step never
  runs an instruction in an empty slot -/
  | noThread
  deriving DecidableEq, Repr

/-- Why the model gives an instruction no meaning. -/
inductive Refusal where
  /-- the instruction has no meaning yet; raised by the arms of exec alone. Safe -/
  | notModelled (mnemonic : String)
  deriving DecidableEq, Repr

/-- The machine right after reset: no thread, zero memory, the boot ROM about to run (15 R369; logs 1, 4, 11). -/
def State.reset : State := { todo := [.event .boot] }

end Sys2Proof.Machine
end

