-- ==== Sys2Proof/Machine/Mem.lean ====
section
/-! DEFINITION. Reading and writing the state: tables, memory and granules, tiles, slots and threads, and the queue of
pending completions. -/

namespace Sys2Proof.Machine

/-! Tables -/

/-- The entry of a key, or the default. -/
def Tab.get {α : Type} (d : α) (t : Tab α) (k : Nat) : α :=
  match t with
  | [] => d
  | (k', v) :: rest => if k' = k then v else Tab.get d rest k

/-- The table without a key. -/
def Tab.erase {α : Type} (t : Tab α) (k : Nat) : Tab α := t.filter (fun p => p.1 ≠ k)

/-- A key that the table does not hold, put where the keys stay rising. -/
def Tab.insert {α : Type} (t : Tab α) (k : Nat) (v : α) : Tab α :=
  match t with
  | [] => [(k, v)]
  | (k', v') :: rest => if k < k' then (k, v) :: (k', v') :: rest else (k', v') :: Tab.insert rest k v

/-- The table with a key's entry replaced. -/
def Tab.put {α : Type} (t : Tab α) (k : Nat) (v : α) : Tab α := Tab.insert (Tab.erase t k) k v

/-- The same, where an entry equal to the default is not listed. -/
def Tab.putD {α : Type} [DecidableEq α] (d : α) (t : Tab α) (k : Nat) (v : α) : Tab α :=
  if v = d then Tab.erase t k else Tab.put t k v

/-! Memory -/

/-- The byte at an address; what nothing has written reads as zero (07 R169; log 1). -/
def Memory.read (m : Memory) (a : Nat) : Byte := Tab.get 0 m a

/-- One byte written. -/
def Memory.write (m : Memory) (a : Nat) (b : Byte) : Memory := Tab.putD 0 m a b

/-- n bytes from an address up, the first lowest (00 R8). -/
def Memory.readN (m : Memory) (a : Nat) : Nat → Nat
  | 0 => 0
  | n + 1 => (m.read a).toNat + 256 * m.readN (a + 1) n

/-- n bytes of a value written from an address up. -/
def Memory.writeN (m : Memory) (a v : Nat) : Nat → Memory
  | 0 => m
  | n + 1 => (m.write a (BitVec.ofNat 8 v)).writeN (a + 1) (v / 256) n

/-- Where tile SRAM begins in the model's one memory, and how far apart the tiles lie (log 2). -/
def sramBase : Nat := 2 ^ 40
def sramSpan : Nat := 2 ^ 19
/-- The data SRAM of a tile (07 R168). -/
def sramSize : Nat := 393216
/-- The HBM data of the package (00 R1, 15 R356). -/
def hbmSize : Nat := 768 * 2 ^ 30

/-- The address of a location in the model's memory; other locations hold no bytes of their own. -/
def Loc.addr : Loc → Nat
  | .sram tile off => sramBase + tile * sramSpan + off
  | .hbm a => a
  | _ => 0

/-- The granule that holds a location. -/
def Loc.granule : Loc → Loc
  | .sram tile off => .sram tile (off / 32 * 32)
  | .hbm a => .hbm (a / 32 * 32)
  | .page off => .page (off / 32 * 32)
  | .watchdog off => .watchdog (off / 32 * 32)
  | .remote r va => .remote r (va / 32 * 32)

/-- A location of another package. -/
def Loc.far : Loc → Bool
  | .remote _ _ => true
  | _ => false

/-- The granule at an address that is a multiple of 32. -/
def State.granuleAt (s : State) (a : Nat) : Granule :=
  ⟨BitVec.ofNat 256 (s.mem.readN a 32), Tab.get sealZero s.seals (a / 32)⟩

/-- The granule at a location. -/
def State.granule (s : State) (l : Loc) : Granule := s.granuleAt l.granule.addr

/-- A granule stored with its seal. -/
def State.setGranuleAt (s : State) (a : Nat) (g : Granule) : State :=
  { s with mem := s.mem.writeN a g.data.toNat 32, seals := Tab.putD sealZero s.seals (a / 32) g.sl }

def State.setGranule (s : State) (l : Loc) (g : Granule) : State := s.setGranuleAt l.granule.addr g

/-- One byte of memory as any reader sees it: the model's memory at an address. -/
def State.byte (s : State) (a : Nat) : Byte := s.mem.read a

/-! Tiles, clusters, slots and threads -/

def State.tile (s : State) (n : Nat) : Tile := Tab.get {} s.tiles n
def State.setTile (s : State) (n : Nat) (t : Tile) : State := { s with tiles := Tab.put s.tiles n t }
def State.modTile (s : State) (n : Nat) (f : Tile → Tile) : State := s.setTile n (f (s.tile n))

def State.cluster (s : State) (n : Nat) : Cluster := Tab.get {} s.clusters n
def State.modCluster (s : State) (n : Nat) (f : Cluster → Cluster) : State :=
  { s with clusters := Tab.put s.clusters n (f (s.cluster n)) }

def Tile.slot (t : Tile) (n : Nat) : Slot := t.slots[n]?.getD {}
def Tile.setSlot (t : Tile) (n : Nat) (sl : Slot) : Tile := { t with slots := t.slots.setIfInBounds n sl }

def State.slot (s : State) (w : Who) : Slot := (s.tile w.tile).slot w.slot
def State.setSlot (s : State) (w : Who) (sl : Slot) : State := s.modTile w.tile (·.setSlot w.slot sl)
def State.modSlot (s : State) (w : Who) (f : Slot → Slot) : State := s.setSlot w (f (s.slot w))

/-- The thread in a slot. -/
def State.thread (s : State) (w : Who) : Option Thread := (s.slot w).thread
def State.setThread (s : State) (w : Who) (t : Thread) : State := s.modSlot w (fun sl => { sl with thread := some t })
def State.modThread (s : State) (w : Who) (f : Thread → Thread) : State :=
  match s.thread w with
  | some t => s.setThread w (f t)
  | none => s

def State.die (s : State) (d : Nat) : Die := Tab.get {} s.dies d
def State.modDie (s : State) (d : Nat) (f : Die → Die) : State := { s with dies := Tab.put s.dies d (f (s.die d)) }

/-! Registers (03 R68) -/

/-- x0 reads zero. -/
def Thread.getX (t : Thread) (r : Reg) : Word := if r = 0 then 0 else t.x[r.toNat]?.getD 0
/-- A write to x0 is discarded. -/
def Thread.setX (t : Thread) (r : Reg) (v : Word) : Thread :=
  if r = 0 then t else { t with x := t.x.setIfInBounds r.toNat v }

/-- k0 reads all ones. -/
def Thread.getK (t : Thread) (n : BitVec 3) : BitVec 32 := if n = 0 then ones 32 else t.k[n.toNat]?.getD 0
/-- A write to k0 is discarded. -/
def Thread.setK (t : Thread) (n : BitVec 3) (v : BitVec 32) : Thread :=
  if n = 0 then t else { t with k := t.k.setIfInBounds n.toNat v }

def Thread.getV (t : Thread) (n : Nat) : Vec := Tab.get 0 t.v n
def Thread.getSeg (t : Thread) (n : BitVec 3) : Seg := t.seg[n.toNat]?.getD {}
def Thread.setSeg (t : Thread) (n : BitVec 3) (v : Seg) : Thread := { t with seg := t.seg.setIfInBounds n.toNat v }

/-- A vector register's value is kept for a rollback before its first write since the mark (03 R81). -/
def Thread.touchV (t : Thread) (n : Nat) : Thread :=
  if t.shadow.v.any (fun p => p.1 = n) then t
  else { t with shadow := { t.shadow with v := Tab.put t.shadow.v n (t.getV n) } }

/-- A vector register written. -/
def Thread.setV (t : Thread) (n : Nat) (v : Vec) : Thread := { t.touchV n with v := Tab.put t.v n v }

/-- cr.mark.vwritten (03 R80). -/
def Thread.vwritten (t : Thread) : Nat := t.shadow.v.length

/-- The effect on the thread of one write of a result. -/
def Thread.write (t : Thread) : Write → Thread
  | .x d v => t.setX d v
  | .v n v mask => t.setV n (blend (t.getV n) v mask)
  | .k n v mask => t.setK n ((t.getK n &&& ~~~mask) ||| (v &&& mask))
  | .seg n v => t.setSeg n v
  | .flags f => { t with fflags := t.fflags ||| f }
  | .push _ _ => t
  | .stream _ _ _ => t
  | .upat _ _ => t
  | .half _ _ => t
  | .bundle _ _ => t
  | .task _ => t
  | .trace _ => t
  | .emptyRemote _ => t
  | .fold n v => { t with hash := crc64Fold n t.hash v.toNat }

def Thread.writes (t : Thread) (ws : List Write) : Thread := ws.foldl Thread.write t

/-- The whole of a vector register. -/
def fullMask : Vec := ones 256

/-! Pending completions (00 R11) -/

/-- A completion entered in order of cycle and phase, after those that share them. -/
def insertDue (d : Due) : List Due → List Due
  | [] => [d]
  | e :: rest =>
    if d.due < e.due || (d.due = e.due && d.phase < e.phase) then d :: e :: rest else e :: insertDue d rest

/-- The phases of a cycle: landings, timed bank reads, timed bank writes, then threaded and other accesses (07 R170,
08 R215). -/
def phaseLand : Nat := 0
def phaseRead : Nat := 1
def phaseWrite : Nat := 2
/-- What a taken bank has held at a bank port comes before what reaches the port on the cycle (07 R171). -/
def phaseHeld : Nat := 3
def phaseAccess : Nat := 4
/-- What is decided once all of a cycle's arrivals are in (13 R324). -/
def phaseEnd : Nat := 5

def State.schedule (s : State) (due phase : Nat) (ev : Event) : State :=
  { s with pend := insertDue ⟨due, phase, ev⟩ s.pend }

/-- A latency that the manual leaves open, at least one cycle: a fresh free value (log 3). -/
def State.drawLatency (s : State) : Nat × State := (1 + Config.latency s.draws, { s with draws := s.draws + 1 })

/-- A completion a free latency from now. -/
def State.scheduleFree (s : State) (phase : Nat) (ev : Event) : State :=
  let (n, s) := s.drawLatency
  s.schedule (s.cycle + n) phase ev

/-! Banks (07 R170) -/

/-- The bank of a tile is in the timed plane's use on this cycle. -/
def State.bankTaken (s : State) (tile off : Nat) : Bool :=
  (s.tile tile).bankCycle = s.cycle && (s.tile tile).bankBusy.getLsbD (off / 16384)

/-! Performance counters (14 R343) -/

/-- Event codes. -/
def evCycles : Nat := 0x00
def evIssued : Nat := 0x01
def evBubbles : Nat := 0x02
def evParked : Nat := 0x03
def evFull : Nat := 0x04
def evLoads : Nat := 0x05
def evHits : Nat := 0x06
def evMisses : Nat := 0x07
def evCorrections : Nat := 0x08
def evRollbacks : Nat := 0x09
def evMarks : Nat := 0x0A
def evBundles : Nat := 0x0B
def evArray : Nat := 0x0C
def evEmpty : Nat := 0x0D
def evWindows : Nat := 0x0E
def evLocks : Nat := 0x0F
def evPushes : Nat := 0x10
def evSteals : Nat := 0x11
def evFlits : Nat := 0x12
def evDrops : Nat := 0x13

/-- A selector that counts an event, of a slot where the event is marked S. -/
def pmcCounts (sel : Word) (ev : Nat) (slot : Option Nat) : Bool :=
  sel.getLsbD 63 && (sel.extractLsb' 0 8).toNat = ev &&
    match slot with
    | some k => sel.extractLsb' 8 8 = 0 || sel.getLsbD (8 + k)
    | none => true

/-- n events of a tile counted by one counter; a wrap is reported. -/
def tallyOne (tile ev : Nat) (slot : Option Nat) (n : Nat) (s : State) (k : Nat) : State :=
  let t := s.tile tile
  if pmcCounts (t.pmcSel[k]?.getD 0) ev slot then
    let v := (t.pmc[k]?.getD 0).toNat + n
    let s := s.setTile tile { t with pmc := t.pmc.setIfInBounds k (BitVec.ofNat 48 v) }
    if 2 ^ 48 ≤ v && (t.pmcSel[k]?.getD 0).getLsbD 62 then s.schedule s.cycle phaseLand (.counterWrap tile k) else s
  else s

/-- n events of a tile, counted by each of its counters. -/
def State.tally (s : State) (tile ev : Nat) (slot : Option Nat) (n : Nat) : State :=
  if n = 0 then s else [0, 1, 2, 3].foldl (tallyOne tile ev slot n) s

/-- The same for a slot. -/
def State.tallySlot (s : State) (w : Who) (ev : Nat) : State := s.tally w.tile ev (some w.slot) 1

/-- A fresh number for a thread, an access, a packet or an operation. -/
def State.fresh (s : State) : Nat × State := (s.serial, { s with serial := s.serial + 1 })

end Sys2Proof.Machine
end

