-- ==== Sys2Proof/Machine/Ops.lean ====
section
/-! DEFINITION. The named operations that the meanings share: issue, parking, restart marks, outstanding results, taking
a trap and returning from one (03 R77 to R85). -/

namespace Sys2Proof.Machine

/-- Why an instruction does not run to its end on this turn. -/
inductive Stop where
  /-- a precise trap: cause, subtype, cr.info, and whether cr.epc is the next instruction (03 R84) -/
  | trap (code : BitVec 8) (sub : BitVec 4) (info : Word) (after : Bool)
  /-- the thread parks: the instruction has not issued -/
  | park
  /-- it parks at 32 outstanding results (14 R343) -/
  | parkFull
  /-- it parks on a queue of its tile: a push into a full one, a pop of an empty one (07 R177) -/
  | parkQueue (j : Nat)
  /-- the instruction ends with this state, with nothing more done -/
  | done (s : State)
  | fault (f : Fault)
  deriving Repr

/-- A meaning in the making: it reads and writes the state, or stops. -/
abbrev M (α : Type) := StateT State (Except Stop) α

abbrev Result := Host.Outcome State Fault Refusal

def stop {α : Type} (e : Stop) : M α := fun _ => .error e

/-- A precise trap with no subtype. -/
def trapNow {α : Type} (code : BitVec 8) (info : Word) : M α := stop (.trap code 0 info false)
/-- The present cycle's agent's thread. -/
def getT : M Thread := fun s =>
  match s.thread s.cur with
  | some t => .ok (t, s)
  | none => .error (.fault .noThread)

def modT (f : Thread → Thread) : M Unit := fun s => .ok ((), s.modThread s.cur f)

def getTile : M Tile := fun s => .ok (s.tile s.cur.tile, s)
def modTileM (f : Tile → Tile) : M Unit := fun s => .ok ((), s.modTile s.cur.tile f)
def modS (f : State → State) : M Unit := fun s => .ok ((), f s)
def getX (r : Reg) : M Word := do return (← getT).getX r
def setX (r : Reg) (v : Word) : M Unit := modT (·.setX r v)

/-- The trap causes (03 R84). -/
def cIllegalOpcode : BitVec 8 := 0x01
def cIllegalOperand : BitVec 8 := 0x02
def cPrivilege : BitVec 8 := 0x03
def cSegmentLimit : BitVec 8 := 0x04
def cSegmentRights : BitVec 8 := 0x05
def cMisaligned : BitVec 8 := 0x06
def cPageFault : BitVec 8 := 0x07
def cGroupDenied : BitVec 8 := 0x08
def cRangeLocked : BitVec 8 := 0x09
def cWindowViolation : BitVec 8 := 0x0A
def cSealFault : BitVec 8 := 0x0B
def cPredecessorPoison : BitVec 8 := 0x0C
def cRouteInvalid : BitVec 8 := 0x0D
def cMulticastDenied : BitVec 8 := 0x0E
def cTiming : BitVec 8 := 0x0F
def cPostTimeout : BitVec 8 := 0x10
def cQueueFault : BitVec 8 := 0x11
def cDequeOverflow : BitVec 8 := 0x12
def cTrap : BitVec 8 := 0x13
def cDebugStop : BitVec 8 := 0x14
def cSpilled : BitVec 8 := 0x15
def cWatchdog : BitVec 8 := 0x16
def cFabricTimeout : BitVec 8 := 0x17
def cRemoteDenied : BitVec 8 := 0x18
def cIllegalBundle : BitVec 8 := 0x19
def cInterrupt : BitVec 8 := 0x1A

/-! Restart marks (03 R80 to R82) -/

/-- The state that a rollback restores, as it stands (R81). -/
def Thread.snapshot (t : Thread) (spos : List (Nat × Nat)) : Shadow :=
  { x := t.x, k := t.k, fflags := t.fflags, fmode := t.fmode, srseed := t.srseed, gen := t.gen, spos := spos, v := [] }

/-- The read positions of the streams that a thread has bound (R81). -/
def streamPositions (tile : Tile) (slot serial : Nat) : List (Nat × Nat) :=
  (List.range 16).filterMap fun j =>
    match tile.streams[j]?.getD none with
    | some st => if st.owner = slot && st.thread = serial && !st.write then some (j, st.pos) else none
    | none => none

/-- One gated store released: an access that performs at its owner (R82, 07 R171). Own SRAM reached through a kind 2
segment performs at the bank port, one granule a cycle after the mark; the rest take a free latency. -/
def releaseOne (w : Who) (serial : Nat) (s : State) (n : Nat) (g : Gated) : State :=
  match g.loc with
  | none => s
  | some loc =>
    let (id, s) := s.fresh
    let acc : Access :=
      { id := id, who := w, thread := serial, key := g.key, kind := .release g.data g.mask g.tag, loc := some loc
        launch := (s.thread w).bind (·.launch) }
    let s := { s with accs := s.accs ++ [acc] }
    match g.key with
    | .own _ => s.schedule (s.cycle + 1 + n) phaseAccess (.storeReleasePerforms id)
    | .virt _ => s.scheduleFree phaseAccess (.storeReleasePerforms id)

/-- The gated stores released in program order. -/
def releaseAll (w : Who) (serial : Nat) : State → Nat → List Gated → State
  | s, _, [] => s
  | s, n, g :: rest => releaseAll w serial (releaseOne w serial s n g) (n + 1) rest

/-- A restart mark with this mark address, with nothing outstanding (R80). -/
def takeMark (w : Who) (addr : BitVec 15) (s : State) : State :=
  match s.thread w with
  | none => s
  | some t =>
    (releaseAll w t.serial s 0 t.gated).modThread w fun t =>
      { t with gated := [], mpc := addr, shadow := t.snapshot (streamPositions (s.tile w.tile) w.slot t.serial) }

/-- The shadowed state restored, the store buffer discarded (R81). -/
def Thread.rolledBack (t : Thread) : Thread :=
  { t with
    x := t.shadow.x, k := t.shadow.k, fflags := t.shadow.fflags, fmode := t.shadow.fmode, srseed := t.shadow.srseed
    gen := t.shadow.gen, v := t.shadow.v.foldr (fun p v => Tab.put v p.1 p.2) t.v, gated := [], pc := t.mpc }

/-- The read positions of a thread's streams restored; granules no longer held are fetched again, and so are those that a fault
has travelled with (R81, 07 R185). -/
def restoreStreams (w : Who) (spos : List (Nat × Nat)) (s : State) : State :=
  let s := s.modTile w.tile fun tile =>
    { tile with streams := spos.foldl (fun v p =>
        match v[p.1]?.getD none with
        | some st => v.setIfInBounds p.1 (some { st with pos := p.2, held := st.held.filter (·.2.2.isNone) })
        | none => v) tile.streams }
  spos.foldl (fun s p => s.schedule (s.cycle + 1) phaseAccess (.streamPrefetch w.tile p.1)) s

/-- The generators that a seed sets (01 R26). -/
def seedGens (seed : BitVec 32) : Vector (BitVec 32) 8 :=
  Vector.ofFn fun (j : Fin 8) =>
    let g := seed ^^^ (BitVec.ofNat 32 j * 0x9E3779B9)
    if g = 0 then 1 else g

/-- A thread as it is created, its first mark taken (03 R68, R80). -/
def Thread.born (serial : Nat) (entry : BitVec 15) (mode : BitVec 2) (window : Nat) : Thread :=
  let t : Thread := { serial := serial, pc := entry, entry := entry, status := { mode := mode }, window := window, gen := seedGens 0, mpc := entry }
  { t with shadow := t.snapshot [] }

/-! Traps (03 R83, R84) -/

/-- The collected fault that is earliest in program order (R83). -/
def earliest : List (Nat × Trap) → Option (Nat × Trap)
  | [] => none
  | f :: rest =>
    match earliest rest with
    | none => some f
    | some g => if g.1 < f.1 then some g else some f

/-- The mode a handler runs in: firmware for WATCHDOG and for traps taken in firmware mode (R83). -/
def handlerMode (code : BitVec 8) (mode : BitVec 2) : BitVec 2 := if code = cWatchdog || mode = 3 then 3 else 1

/-- cr.status at trap entry (R83). -/
def Status.enter (st : Status) (code : BitVec 8) : Status :=
  { st with pmode := st.mode, pie := st.ie, ie := false, inh := true, mode := handlerMode code st.mode }

/-- cr.status at TRET (R85). -/
def Status.leave (st : Status) : Status := { st with mode := st.pmode, ie := st.pie, inh := false }

/-- An address as the program counter holds it: bits 1 and 0 are zero (02 R36). -/
def toPc (a : Word) : BitVec 15 := a.extractLsb' 2 13 ++ 0#2

/-- The handler's address (R83). -/
def Thread.handler (t : Thread) (code : BitVec 8) : BitVec 15 :=
  if handlerMode code t.status.mode = 3 then toPc t.ftvec else toPc t.tvec

/-- The registers that trap entry writes (R83 step 5). -/
def Thread.record (t : Thread) (tr : Trap) : Thread :=
  { t with
    cause := tr.sub ++ tr.code
    info := tr.info
    epc := (if tr.rollback then t.mpc else if tr.async then t.pc else tr.epc).setWidth 64
    fpc := (if tr.async && tr.code ≠ cWindowViolation then t.pc else tr.fpc).setWidth 64
    status := t.status.enter tr.code }

/-- The contexts that wait for a die's dump engine, with the one being dumped (14 R353). -/
def dumpQueue : Nat := 65

/-- A context that waits for the dump engine after the others. -/
def queueDump (die : Nat) (r : DumpReq) (s : State) : State :=
  (s.modDie die fun d => { d with dumps := d.dumps ++ [r] }).scheduleFree phaseAccess (.dump die)

/-- A dump asked for; one more than the queue holds is lost. -/
def askDump (die : Nat) (r : DumpReq) (s : State) : State :=
  if dumpQueue ≤ (s.die die).dumps.length then (s.modDie die fun d => { d with lost := d.lost + 1 }).scheduleFree phaseAccess (.dump die)
  else queueDump die r s

/-- A thread becomes fatal: it issues nothing more, and its dump is asked for (R83, 14 R351). -/
def becomeFatal (w : Who) (tr : Trap) (s : State) : State :=
  match s.thread w with
  | none => s
  | some t =>
    let s := askDump (w.tile / 5120) { kind := 0, cls := 3, who := w, stamp := s.cycle, code := tr.code, sub := tr.sub, info := tr.info } s
    (s.setThread w { t with entering := none, faults := [], fatal := some tr, faultClass := max t.faultClass 3 }).schedule
      s.cycle phaseLand (.threadFatal w)

/-- A later fault of a context that waits for its dump: the first fills the secondary fields (14 R353). -/
def DumpReq.also (r : DumpReq) (code : BitVec 8) (sub : BitVec 4) (info : Word) : DumpReq :=
  match r.second with
  | none => { r with second := some (code, sub, info) }
  | some _ => { r with later := r.later + 1 }

/-- The events that the traps of a slot count as (14 R343). -/
def countTrap (w : Who) (tr : Trap) (s : State) : State :=
  let s := if tr.rollback then s.tallySlot w evRollbacks else s
  let s := if tr.code = cWindowViolation then s.tallySlot w evWindows else s
  if tr.code = cRangeLocked then s.tallySlot w evLocks else s

/-- TRAP ENTRY: with every result landed, the fault earliest in program order or the trap that began entry is taken
(R83). A trap raised with cr.status.inh = 1 makes the thread fatal. -/
def trapEnter (w : Who) (s : State) : State :=
  match s.thread w with
  | none => s
  | some t =>
    match t.entering with
    | none => s
    | some begun =>
      let tr := match earliest t.faults with
        | some (_, f) => f
        | none => begun
      let s := countTrap w tr s
      if t.status.inh then becomeFatal w tr s
      else
        let s := if tr.rollback then restoreStreams w t.shadow.spos s else s
        let t1 := if tr.rollback then t.rolledBack else t
        let pc := t1.handler tr.code
        let t2 := { t1.record tr with
          entering := none, faults := [], wait := none, committing := false, pc := pc, resumeAt := s.cycle + 4, taken := some tr }
        takeMark w pc (s.setThread w t2)

/-- A trap begins: the thread stops issuing, and is entered at once when nothing is outstanding (R83). A trap whose entry has
begun stays the one that is taken. -/
def raise (w : Who) (tr : Trap) (s : State) : State :=
  match s.thread w with
  | none => s
  | some t =>
    let s' := s.setThread w { t with entering := some (t.entering.getD tr) }
    if t.outst.isEmpty then trapEnter w s' else s'

/-- A precise trap that an instruction meets after it has issued: where another entry has begun meanwhile, that one is taken,
and the instruction, which has had no effect, is the next one (R83, R84). -/
def raiseLate (w : Who) (tr : Trap) (s : State) : State :=
  match s.thread w with
  | none => s
  | some t => if t.entering.isSome then raise w tr (s.setThread w { t with pc := tr.epc }) else raise w tr s

/-- A fault that an access has returned: collected, and entry begins if it has not (R83). -/
def collect (w : Who) (tok : Nat) (tr : Trap) (s : State) : State :=
  match s.thread w with
  | none => s
  | some t =>
    let s := if t.fatal.isSome then
        s.modDie (w.tile / 5120) fun d =>
          { d with dumps := d.dumps.map fun r => if r.kind = 0 && r.who = w then r.also tr.code tr.sub tr.info else r }
      else s
    s.setThread w { t with
      faults := t.faults ++ [(tok, { tr with rollback := true })], entering := some (t.entering.getD { tr with rollback := true }) }

/-! Issue (03 R79, R82) -/

/-- What the issue of an instruction needs to know of it. -/
structure Opts where
  /-- the wait marker (02 R37) -/
  w : Bool := false
  /-- its bytes -/
  len : BitVec 15 := 4
  /-- the instruction as a 64-bit value, for cr.info (02 R49) -/
  value : Word := 0
  /-- a long operation counts against the 32 outstanding results (03 R78) -/
  long : Bool := false
  /-- a committing instruction (03 R82) -/
  commits : Bool := false
  /-- the vector registers it writes (03 R82) -/
  vregs : List Nat := []

/-- The options of a 32-bit instruction. -/
def opts32 (w : Bool) (i : Instr) : Opts := { w := w, value := ((encode32 i).getD 0).setWidth 64 }
/-- The options of a 64-bit instruction. -/
def opts64 (w : Bool) (i : Instr) : Opts := { w := w, len := 8, value := (encode64 i).getD 0 }

/-- The slot has had its turn of this cycle; what parked it at 32 outstanding results is over, unless it parks so again. -/
def turnTaken (s : State) : State := s.modSlot s.cur fun sl => { sl with turn := s.cycle + 1, full := false }

/-- The vector registers written since the mark, were these written too (03 R82). -/
def Thread.wouldTouch (t : Thread) (vs : List Nat) : Nat :=
  vs.foldl (fun n v => if t.shadow.v.any (fun p => p.1 = v) then n else n + 1) t.vwritten

/-- Writing these vector registers would make more than 32 (03 R82). -/
def Thread.overfull (t : Thread) (vs : List Nat) : Bool := !vs.isEmpty && 32 < t.wouldTouch vs

/-- An implicit mark before an instruction: the thread parks until nothing is outstanding (03 R80, R82). -/
def markBefore : M Unit := do
  let t ← getT
  if !t.outst.isEmpty then stop .park
  modS fun s => takeMark s.cur t.pc s

/-- The waits of an instruction that passes its decode checks, and its implicit mark (02 R37, 03 R78, R82); it answers
whether it takes one. -/
def waits (o : Opts) : M Bool := do
  let t ← getT
  if o.w && !t.outst.isEmpty then stop .park
  if o.long && 32 ≤ t.outst.length then stop .parkFull
  if o.commits || t.overfull o.vregs then
    markBefore
    return true
  return false

/-- The instruction leaves the program counter at the next one (02 R36), and the vector registers that it writes count as
written since the mark (03 R80, R82). -/
def advance (o : Opts) : M Unit := modT fun t => { o.vregs.foldl Thread.touchV t with pc := t.pc + o.len, popped := [], late := [] }

/-- The name by which a queue knows a thread parked on it (07 R178). -/
def State.parker (s : State) : Nat × Nat × Nat :=
  match s.thread s.cur with
  | some t => (s.cur.slot, t.serial, t.resumeAt)
  | none => (s.cur.slot, 0, 0)

/-- The present thread is parked on a queue of its tile. -/
def parkOn (j : Nat) (s : State) : State :=
  s.modTile s.cur.tile fun t =>
    let q := t.queues[j]?.getD {}
    if q.parked.contains s.parker then t
    else { t with queues := t.queues.setIfInBounds j { q with parked := q.parked ++ [s.parker] } }

/-- A computation whose park keeps the implicit mark that has been taken before it (03 R80, R82). -/
def parkedAt (m : M Unit) : M Unit := fun s =>
  match m s with
  | .error .park => .error (.done s)
  | .error (.parkQueue j) => .error (.done (parkOn j s))
  | r => r

/-- An implicit mark that has been taken is counted (14 R343). -/
def countMark (marked : Bool) : M Unit := modS fun s => if marked then s.tallySlot s.cur evMarks else s

/-- An instruction from its decode checks to its last effect: the checks of R49, its waits and marks, the program counter
advanced, its own effect, given its own address, and for a committing one the mark still to come. The implicit mark counts
as an event once, with the issue (14 R343). -/
def issueM (o : Opts) (checks : M Unit) (body : BitVec 15 → M Unit) : M Unit := do
  checks
  let marked ← waits o
  parkedAt do
    countMark marked
    let pc := (← getT).pc
    advance o
    body pc
    if o.commits then modT fun t => { t with committing := true }
    modS fun s => (turnTaken s).tallySlot s.cur evIssued

/-- A turn on which the slot's thread does not issue. -/
def parkedTurn (s : State) : State := ((turnTaken s).tallySlot s.cur evBubbles).tallySlot s.cur evParked

/-- A turn on which the slot's thread is parked at 32 outstanding results: the park counts as an event once (14 R343). -/
def parkedFull (s : State) : State :=
  let s' := if (s.slot s.cur).full then parkedTurn s else (parkedTurn s).tallySlot s.cur evFull
  s'.modSlot s.cur fun sl => { sl with full := true }

/-- What a stopped instruction leaves: nothing of its own effect (03 R84). -/
def afterStop (s : State) : Stop → Result
  | .trap code sub info after =>
    match s.thread s.cur with
    | none => .fault .noThread
    | some t =>
      .next (turnTaken (raise s.cur
        { code := code, sub := sub, info := info, epc := if after then t.pc + 4 else t.pc, fpc := t.pc } s))
  | .park => .next (parkedTurn s)
  | .parkFull => .next (parkedFull s)
  | .parkQueue _ => .next (parkedTurn s)
  | .done s' => .next (parkedTurn s')
  | .fault f => .fault f

/-- A computation run from a state. -/
def runM (m : M Unit) (s : State) : Result :=
  match m s with
  | .ok (_, s') => .next s'
  | .error e => afterStop s e

/-- An instruction issued by the present agent. -/
def issue (o : Opts) (checks : M Unit) (body : BitVec 15 → M Unit) (s : State) : Result := runM (issueM o checks body) s

/-- No check beyond decoding. -/
def noChecks : M Unit := pure ()

/-- A mode check: the instruction traps below the mode (02 R49, 03 R69). -/
def needMode (o : Opts) (mode : Nat) : M Unit := do
  let t ← getT
  if t.status.mode.toNat < mode then trapNow cPrivilege o.value

/-! Results -/

/-- A result enters the outstanding ones: its number, and a place for its landing (03 R77). -/
def addOutst (mk : Nat → Outst) : M Nat := fun s =>
  let (tok, s) := s.fresh
  .ok (tok, s.modThread s.cur fun t => { t with outst := t.outst ++ [mk tok] })

/-- The landing of a result scheduled: its latency from issue or, where a granule that it pops waits for its bank, from the cycle on
which the last of them is read (07 R170). -/
def landsLater (tok latency phase : Nat) (s : State) : State :=
  match s.thread s.cur with
  | none => s
  | some t =>
    if t.late.isEmpty then s.schedule (s.cycle + latency) phase (.longResultLands s.cur tok)
    else
      (s.setThread s.cur { t with
        outst := t.outst.map fun o => if o.tok = tok then { o with bank := t.late, after := latency } else o }).schedule
        (s.cycle + 1) phaseHeld (.longResultLands s.cur tok)

/-- A long result of a fixed latency, with its writes known at issue (03 R77, 04 R88). -/
def longResult (pc : BitVec 15) (latency : Nat) (dests : List (Nat × Nat)) (ws : List Write) : M Unit := do
  let cyc := (← get).cycle
  let tok ← addOutst fun tok => { tok := tok, pc := pc, fin := .ready ws, lands := cyc + latency, dests := dests }
  modS (landsLater tok latency phaseLand)

/-- The registers a result writes, for the order of landings: kind and number (03 R78). -/
def destX (r : Reg) : Nat × Nat := (0, r.toNat)
def destV (n : Nat) : Nat × Nat := (1, n)
def destK (n : BitVec 3) : Nat × Nat := (2, n.toNat)
def destSeg (n : BitVec 3) : Nat × Nat := (3, n.toNat)

end Sys2Proof.Machine
end

