-- ==== Sys2Proof/Machine/Operands.lean ====
section
/-! DEFINITION. Every operand form: the 9-bit operand codes with their kinds and distances (02 R41 to R44), reading
registers, queues, streams and predecessors (06 R155, R156, 07 R177, R185), and writing destinations (05 R114). -/

namespace Sys2Proof.Machine

/-- What a 9-bit operand code names (02 R41). -/
inductive Operand where
  | v (n : Nat)
  | q (n : Nat)
  | s (n : Nat)
  | n (n : Nat)
  | x (r : Reg)
  | none
  deriving DecidableEq, Repr

def operandOf (c : OpCode) : Operand :=
  if c.toNat < 384 then .v c.toNat
  else if c.toNat < 400 then .q (c.toNat - 384)
  else if c.toNat < 416 then .s (c.toNat - 400)
  else if c.toNat < 424 then .n (c.toNat - 416)
  else if c.toNat < 456 then .x (BitVec.ofNat 5 (c.toNat - 424))
  else .none

/-- Operand kinds, for what a position allows. -/
inductive Kind where
  | v | q | s | n | x
  deriving DecidableEq, Repr

def Operand.kind : Operand → Option Kind
  | .v _ => some .v | .q _ => some .q | .s _ => some .s | .n _ => some .n | .x _ => some .x | .none => Option.none

/-- The index of a declared register (06 R149). -/
def Thread.fwdIndex (t : Thread) (n : Nat) : Option Nat := t.fregs.findIdx? (· = n)

/-- Step 3 of R49 for one operand: its kind, the window, and its distance (02 R41 to R43). -/
def operandOk (t : Thread) (kinds : List Kind) (code : OpCode) (dist : BitVec 2) : Bool :=
  match operandOf code with
  | .v n => kinds.contains .v && n < t.window && (dist = 0 || (t.fwdIndex n).isSome)
  | .q _ => kinds.contains .q && dist = 0
  | .s _ => kinds.contains .s && dist = 0
  | .n _ => kinds.contains .n && dist = 0
  | .x _ => kinds.contains .x && dist = 0
  | .none => false

/-- ILLEGAL_OPERAND unless the operand is one the position takes. -/
def needOperand (o : Opts) (kinds : List Kind) (code : OpCode) (dist : BitVec 2) : M Unit := do
  let t ← getT
  if !operandOk t kinds code dist then trapNow cIllegalOperand o.value

/-- ILLEGAL_OPERAND unless a condition holds. -/
def needOk (o : Opts) (ok : Bool) : M Unit := do
  if !ok then trapNow cIllegalOperand o.value

/-- The kinds of a source in general, and of a destination in general (02 R42). -/
def srcKinds : List Kind := [.v, .q, .s, .x]
def dstKinds : List Kind := [.v, .q, .s, .n]

/-- The register number of an x code. -/
def xReg (code : OpCode) : Reg :=
  match operandOf code with
  | .x r => r
  | _ => 0

/-- The register number of a v code. -/
def vNum (code : OpCode) : Nat :=
  match operandOf code with
  | .v n => n
  | _ => 0

def isKind (k : Kind) (code : OpCode) : Bool := (operandOf code).kind = some k

/-- A value in every element of a width (02 R42). -/
def broadcast (w : Nat) (v : Word) : Vec := BitVec.ofNat 256 ((v.toNat % 2 ^ w) * ((2 ^ 256 - 1) / (2 ^ w - 1)))

/-! Faults found after issue -/

/-- A rollback trap that the instruction itself meets before any of its effect: it returns to the mark (03 R82, R84). -/
def rollbackNow {α : Type} (pc : BitVec 15) (code : BitVec 8) (sub : BitVec 4) (info : Word) : M α := fun s =>
  let (tok, s) := s.fresh
  let s := collect s.cur tok { code := code, sub := sub, info := info, epc := pc, fpc := pc } s
  match s.thread s.cur with
  | some t => .error (.done (if t.outst.isEmpty then trapEnter s.cur s else s))
  | none => .error (.fault .noThread)

/-- A correction counted for a tile (01 R34). -/
def State.countCorrection (s : State) (tile : Nat) (corrected : Bool) : State :=
  if corrected then (s.modTile tile fun t => { t with corrected := t.corrected + 1 }).tally tile evCorrections none 1 else s

/-- A granule as the present thread consumes it: checked, a failure a rollback SEAL_FAULT (01 R34). -/
def consumeGranule (pc : BitVec 15) (g : Granule) (expect : Option (BitVec 6)) (info : Word) : M Vec := do
  match sealCheck g expect with
  | .ok (d, corrected) =>
    modS fun s => s.countCorrection s.cur.tile corrected
    return d
  | .error f =>
    modS fun s => s.countCorrection s.cur.tile (sealFixes g)
    rollbackNow pc cSealFault f.sub info

/-! Queues (07 R177 to R179) -/

def Queue.depth (q : Queue) : Nat :=
  let d := (q.cfg.extractLsb' 24 4).toNat
  if d = 0 then 0 else 2 ^ d
def Queue.enabled (q : Queue) : Bool := q.cfg.extractLsb' 24 4 ≠ 0
def Queue.prod (q : Queue) : BitVec 8 := q.cfg.extractLsb' 32 8
def Queue.cons (q : Queue) : BitVec 8 := q.cfg.extractLsb' 40 8
def Queue.remote (q : Queue) : Bool := q.cfg.getLsbD 48
/-- The SRAM offset of entry i. -/
def Queue.offset (q : Queue) (i : Nat) : Nat := ((q.cfg.extractLsb' 5 14).toNat + i % q.depth) * 32

def Tile.queue (t : Tile) (j : Nat) : Queue := t.queues[j]?.getD {}
def Tile.setQueue (t : Tile) (j : Nat) (q : Queue) : Tile := { t with queues := t.queues.setIfInBounds j q }

/-- An access to a queue that is not enabled or not open to the slot is a QUEUE_FAULT (R177). A thread that was parked on a queue when
a qcfg.set emptied it stays parked until the next push or pop (R178). -/
def needQueue (j : Nat) (push : Bool) : M Queue := do
  let q := (← getTile).queue j
  if q.stay.contains (← get).parker then stop (.parkQueue j)
  let slot := (← get).cur.slot
  if !q.enabled || !(if push then q.prod else q.cons).getLsbD slot then trapNow cQueueFault (BitVec.ofNat 64 j)
  return q

/-! Streams (07 R183 to R186) -/

def Stream.total (st : Stream) : Nat :=
  (st.count[0]?.getD 0).toNat * (st.count[1]?.getD 0).toNat * (st.count[2]?.getD 0).toNat

/-- The segment offset of granule n of a pattern (R183). -/
def Stream.offset (st : Stream) (n : Nat) : Word :=
  let c0 := (st.count[0]?.getD 0).toNat
  let c1 := (st.count[1]?.getD 0).toNat
  let step (i : Nat) (k : Nat) : Word := BitVec.ofNat 64 i * (st.stride[k]?.getD 0).signExtend 64
  st.base + step (n % c0) 0 + step (n / c0 % c1) 1 + step (n / (c0 * c1)) 2

def Tile.stream (t : Tile) (j : Nat) : Option Stream := t.streams[j]?.getD none
def Tile.setStream (t : Tile) (j : Nat) (st : Option Stream) : Tile := { t with streams := t.streams.setIfInBounds j st }

/-- The granules that the transfer unit keeps ahead of the program (R185). -/
def prefetchDepth : Nat := 8

/-- The granules a read stream's unit is to fetch now: those ahead that it neither holds nor is fetching. -/
def Stream.wanted (st : Stream) : List Nat :=
  ((List.range prefetchDepth).map (st.pos + ·)).filter fun n =>
    n < st.total && !st.busy.contains n && !st.held.any (fun p => p.1 = n)

/-- The transfer unit starts every fetch it may (R185). -/
def startPrefetch (tile j : Nat) (s : State) : State :=
  match (s.tile tile).stream j with
  | none => s
  | some st =>
    if st.write || st.stalled then s else
      let want := st.wanted
      let s := s.modTile tile (·.setStream j (some { st with busy := st.busy ++ want }))
      want.foldl (fun s _ => s.scheduleFree phaseAccess (.streamPrefetch tile j)) s

/-- An access by another slot or thread, to an unbound stream or in the wrong direction is a QUEUE_FAULT (R183). -/
def needStream (j : Nat) (write : Bool) : M Stream := do
  let t ← getT
  let slot := (← get).cur.slot
  match (← getTile).stream j with
  | some st =>
    if st.owner ≠ slot || st.thread ≠ t.serial || st.write ≠ write then trapNow cQueueFault (BitVec.ofNat 64 (0x10 + j))
    return st
  | none => trapNow cQueueFault (BitVec.ofNat 64 (0x10 + j))

/-! Predecessors (06 R155, R156) -/

/-- An entry of the slot's forwarding buffer: the current item's, register j at distance k. -/
def Slot.fwdGet (sl : Slot) (key : FwdKey) : Option FwdEntry :=
  (sl.fwd.find? (fun p => p.1 = key)).map (·.2)
def Slot.fwdPut (sl : Slot) (key : FwdKey) (e : FwdEntry) : Slot :=
  { sl with fwd := (sl.fwd.filter (fun p => p.1 ≠ key)) ++ [(key, e)] }

/-- A predecessor operand's place in the forwarding buffer. -/
def Thread.fwdKey (t : Thread) (n : Nat) (dist : BitVec 2) : FwdKey := ⟨t.item.toNat, (t.fwdIndex n).getD 0, dist.toNat⟩

/-- A predecessor operand: an empty entry parks, poison traps, a failed check makes the entry poison (R155, R156). -/
def readPredecessor (pc : BitVec 15) (code : OpCode) (n : Nat) (dist : BitVec 2) : M Vec := do
  let t ← getT
  let s ← get
  let key := t.fwdKey n dist
  let where_ : Word := (0#53 ++ dist ++ code : BitVec 64)
  match (s.slot s.cur).fwdGet key with
  | none => stop .park
  | some .poison => trapNow cPredecessorPoison where_
  | some (.value g seed) =>
    match sealCheck g none with
    | .ok (d, corrected) =>
      modS fun s => s.countCorrection s.cur.tile corrected
      return d
    | .error f =>
      modS fun s => (s.countCorrection s.cur.tile (sealFixes g)).modSlot s.cur (·.fwdPut key .poison)
      rollbackNow pc cSealFault f.sub (match seed with
        | some a => BitVec.ofNat 64 a
        | none => (1#1 ++ 0#52 ++ dist ++ code : BitVec 64))

/-! Sources -/

/-- The precise faults of a source at issue (R76): earlier counts how many operands before it name the same queue or
stream. -/
def sourceFault (code : OpCode) (dist : BitVec 2) (earlier : Nat) : M Unit := do
  match operandOf code with
  | .v n =>
    if dist ≠ 0 then
      let t ← getT
      let s ← get
      if (s.slot s.cur).fwdGet (t.fwdKey n dist) = some .poison then
        trapNow cPredecessorPoison (0#53 ++ dist ++ code : BitVec 64)
  | .q j => let _ ← needQueue j false
  | .s j =>
    let st ← needStream j false
    if st.total ≤ st.pos + earlier then trapNow cQueueFault (BitVec.ofNat 64 (0x10 + j))
  | _ => pure ()

/-- A granule of a stream has not arrived: the thread parks, and a transfer unit that a fault has stopped fetches on (07 R185). -/
def fetchOn {α : Type} (j : Nat) : M α := fun s =>
  match (s.tile s.cur.tile).stream j with
  | some st =>
    if st.stalled then
      .error (.done (startPrefetch s.cur.tile j (s.modTile s.cur.tile (·.setStream j (some { st with stalled := false })))))
    else .error .park
  | none => .error .park

/-- One source, not yet consumed (02 R42, R43, 05 R114). -/
def readSource (pc : BitVec 15) (width : Nat) (expect : BitVec 6) (code : OpCode) (dist : BitVec 2) (earlier : Nat) : M Vec := do
  match operandOf code with
  | .v n => if dist = 0 then return (← getT).getV n else readPredecessor pc code n dist
  | .x r => return broadcast width (← getX r)
  | .q j =>
    let q := (← getTile).queue j
    if q.count ≤ earlier then stop (.parkQueue j)
    let off := q.offset (q.head + earlier)
    let s ← get
    consumeGranule pc (s.granule (.sram s.cur.tile off)) (some expect) (BitVec.ofNat 64 off)
  | .s j =>
    let st ← needStream j false
    let n := st.pos + earlier
    match st.held.find? (fun p => p.1 = n) with
    | none => fetchOn j
    | some (_, g, tr) =>
      match tr with
      | some f =>
        modTileM fun t => t.setStream j (some { st with stalled := true })
        rollbackNow pc f.code f.sub f.info
      | none => consumeGranule pc (g.getD ⟨0, sealZero⟩) (some expect) (st.offset n)
  | _ => return 0

/-- How many earlier operands name the same queue or stream. -/
def sameAs (code other : OpCode) : Nat := if code = other && (isKind .q code || isKind .s code) then 1 else 0

/-- The granule of a queue or stream operand taken: a pop on the issue cycle, a read position moved on (07 R177, R185). -/
def consume (code : OpCode) : M Unit := do
  match operandOf code with
  | .q j =>
    let s ← get
    let q := (← getTile).queue j
    let off := q.offset q.head
    modT fun t => { t with
      popped := t.popped ++ [(j, s.granule (.sram s.cur.tile off))]
      late := if s.bankTaken s.cur.tile off then t.late ++ [off] else t.late }
    modTileM fun t => t.setQueue j { q with head := (q.head + 1) % q.depth, count := q.count - 1, parked := [], stay := [] }
  | .s j =>
    modTileM fun t =>
      match t.stream j with
      | some st => t.setStream j (some { st with pos := st.pos + 1, held := st.held.filter (fun p => st.pos < p.1 + prefetchDepth) })
      | none => t
    modS fun s => startPrefetch s.cur.tile j s
  | _ => pure ()

/-- Whether an operand makes a short instruction long: a queue or stream source (05 R117). -/
def slowSource (code : OpCode) : Bool := isKind .q code || isKind .s code

/-! Destinations -/

/-- The precise faults of a destination at issue (07 R177, R181, R186). -/
def destFault (code : OpCode) : M Unit := do
  match operandOf code with
  | .q j => let _ ← needQueue j true
  | .s j =>
    let st ← needStream j true
    if st.total ≤ st.pos then trapNow cQueueFault (BitVec.ofNat 64 (0x10 + j))
  | .n j => if ((← getTile).ports[j]?.getD none).isNone then trapNow cQueueFault (BitVec.ofNat 64 (0x200 + j))
  | _ => pure ()

/-- The room a destination needs is there, or the thread parks (07 R177, R186). -/
def destRoom (code : OpCode) : M Unit := do
  match operandOf code with
  | .q j =>
    let q := (← getTile).queue j
    let s ← get
    if q.depth ≤ q.count + q.inFlight || q.stay.contains s.parker then stop (.parkQueue j)
  | .s j =>
    match (← getTile).stream j with
    | some st => if prefetchDepth ≤ st.drain.length then stop .park
    | none => pure ()
  | _ => pure ()

end Sys2Proof.Machine
end

