-- ==== Sys2Proof/Machine/Space.lean ====
section
/-! DEFINITION. Places and permissions: tile positions (00 R4, 11 R283), windows (13 R320, R323), range locks (07 R173 to
R175), segments (03 R73, R74), page tables, rights and homes (10 R255 to R264). -/

namespace Sys2Proof.Machine

/-! Positions -/

def tileDie (t : Nat) : Nat := t / 5120
def tileRow (t : Nat) : Nat := t % 5120 / 80
def tileCol (t : Nat) : Nat := t % 80
def tileAt (die row col : Nat) : Nat := die * 5120 + row * 80 + col

/-- The cluster of a tile: die × 320 + cluster row × 20 + cluster column (R260). -/
def clusterOf (t : Nat) : Nat := tileDie t * 320 + tileRow t / 4 * 20 + tileCol t / 4
/-- Tile number i of a cluster: tile row × 4 + tile column (R144). -/
def clusterTile (c i : Nat) : Nat := tileAt (c / 320) (c % 320 / 20 * 4 + i / 4) (c % 20 * 4 + i % 4)
/-- The place of a tile among its cluster's sixteen. -/
def inCluster (t : Nat) : Nat := tileRow t % 4 * 4 + tileCol t % 4

/-- A tile that is not there (R289, R290). -/
def State.hole (s : State) (t : Nat) : Bool := 40960 ≤ t || s.pkg.holes.contains t

/-! Banks and windows -/

/-- The range j of a window descriptor that is in use: first and last granule (R320). -/
def winRange (d : Vec) (j : Nat) : Option (Nat × Nat) :=
  if d.getLsbD (224 + j) then
    some ((d.extractLsb' (112 + 28 * j) 14).toNat, (d.extractLsb' (126 + 28 * j) 14).toNat)
  else none

/-- A granule that an open window covers (R323). -/
def Window.covers (w : Window) (g : Nat) : Bool :=
  w.st = .opened && (List.range 4).any fun j =>
    match winRange w.desc j with
    | some (first, last) => first ≤ g && g ≤ last
    | none => false

/-- A byte offset in a timed-owned bank (07 R168). -/
def Tile.timedOwned (t : Tile) (off : Nat) : Bool := t.banks.getLsbD (off / 16384)

/-- A granule that threads may reach (R168, R323). -/
def Tile.openGranule (t : Tile) (off : Nat) : Bool :=
  !t.timedOwned off || t.timed.files.win.toList.any (·.covers (off / 32))

/-- The granule offsets that a range of bytes touches. -/
def granulesOf (first size : Nat) : List Nat :=
  (List.range ((first + size - 1) / 32 - first / 32 + 1)).map fun i => (first / 32 + i) * 32

/-- The first granule of a range that threads may not reach. -/
def Tile.shutGranule (t : Tile) (first size : Nat) : Option Nat := (granulesOf first size).find? fun o => !t.openGranule o

/-- A range within thread-owned banks below the end of the SRAM (07 R176, R179). -/
def Tile.threadOwned (t : Tile) (first size : Nat) : Bool :=
  first + size ≤ sramSize && (granulesOf first size).all fun o => !t.timedOwned o

/-! Range locks -/

/-- A thread access that an entry forbids (R173, R175). -/
def Lock.hits (l : Lock) (virt write : Bool) (first last : Nat) : Bool :=
  l.virt = virt && (l.lock = 2 || (l.lock = 1 && write)) && l.first ≤ last && first ≤ l.last

def Tile.locked (t : Tile) (virt write : Bool) (first last : Nat) : Bool := t.locks.any (·.2.hits virt write first last)

/-- An entry put into the table under the lowest number that is free (07 R173; log 84). -/
def Tile.lockIn (t : Tile) (l : Lock) : Tile :=
  { t with locks := Tab.put t.locks (((List.range 16).find? fun n => !t.locks.any (·.1 = n)).getD 16) l }

/-- An entry released. -/
def Tile.unlock (t : Tile) (l : Lock) : Tile := { t with locks := t.locks.eraseP (·.2 = l) }

/-- The entries of a table (R173). -/
def lockEntries : Nat := 16

/-! Segments -/

/-- The right's bit (R73). -/
def Need.bit : Need → Nat
  | .read => 0 | .write => 1 | .execute => 2 | .atomic => 3

def Need.writes : Need → Bool
  | .write => true | .atomic => true | _ => false

/-- The address that an offset of a segment forms (R74). -/
def Seg.address (g : Seg) (off : Word) : Nat :=
  if g.kind = 2 then g.base.toNat + off.toNat else (g.base.toNat + off.toNat) % 2 ^ 56

/-- The same of an offset that the limit has allowed. -/
def Seg.addr (g : Seg) (off : Nat) : Nat := g.address (BitVec.ofNat 64 off)

/-- The rank of a virtual address (R255). -/
def rankOf (va : Nat) : Nat := va / 2 ^ 44 % 4096

/-- The rights check of R74. -/
def Seg.rightsOk (g : Seg) (rank : Nat) (need : Need) (off : Word) : Bool :=
  (g.kind = 1 || g.kind = 2) && g.rights.getLsbD need.bit &&
    (g.kind ≠ 1 || rankOf (g.address off) = rank || g.rights.getLsbD 4)

/-- The limit check of R74. -/
def Seg.limitOk (g : Seg) (off size : Nat) : Bool := off + size - 1 ≤ g.limit.toNat

/-- A trap that names a segment (03 R72). -/
def segTrap {α : Type} (code : BitVec 8) (n : BitVec 3) (off : Word) : M α :=
  stop (.trap code (n.setWidth 4) off false)

/-- The rights and limit checks of R74, precise. The offset is a sum that may pass 2^64, and is then beyond any limit. -/
def needSeg (n : BitVec 3) (need : Need) (off size : Nat) : M Seg := do
  let g := (← getT).getSeg n
  if !g.rightsOk (← get).pkg.rank need (BitVec.ofNat 64 off) then segTrap cSegmentRights n (BitVec.ofNat 64 off)
  if !g.limitOk off size then segTrap cSegmentLimit n (BitVec.ofNat 64 off)
  return g

/-- The alignment check of R74, on the address formed (log 20). -/
def needAligned (ok : Bool) (off : Nat) : M Unit := do
  if !ok then trapNow cMisaligned (BitVec.ofNat 64 off)

/-- Windows and local range locks for a thread's own SRAM through a kind 2 segment, precise (07 R168, R175). -/
def needOwn (write : Bool) (first size : Nat) : M Unit := do
  let tile ← getTile
  match tile.shutGranule first size with
  | some o => trapNow cWindowViolation (BitVec.ofNat 64 (max o first))
  | none => pure ()
  if tile.locked false write first (first + size - 1) then trapNow cRangeLocked (BitVec.ofNat 64 first)

/-- The granule name of an address reached through a segment. -/
def Seg.key (g : Seg) (addr : Nat) : GKey := if g.kind = 2 then .own (addr / 32 * 32) else .virt (addr / 32 * 32)

/-! Pages (10 R257 to R263) -/

/-- The index of an address in the table of a level, its width in bits and its lowest bit. -/
def levelIndex (level va : Nat) : Nat :=
  match level with
  | 4 => va / 2 ^ 38 % 64
  | 3 => va / 2 ^ 29 % 512
  | 2 => va / 2 ^ 20 % 512
  | 1 => va / 2 ^ 16 % 16
  | _ => va / 2 ^ 12 % 16

/-- The alignment of a table of a level, or of a leaf entry (R257). -/
def tableAlign (level : Nat) : Nat :=
  match level with
  | 4 => 512 | 3 => 4096 | 2 => 4096 | 1 => 128 | _ => 256

/-- The fault a port raises: cause, subtype and cr.info. -/
structure PortFault where
  code : BitVec 8
  sub : BitVec 4 := 0
  info : Word
  deriving DecidableEq, Repr

/-- No trap: the request parks at the port, and is made again (16 R399). -/
def parksHere : PortFault := { code := 0, info := 0 }
def PortFault.parks (f : PortFault) : Bool := f.code = 0

def pageFault (sub : BitVec 4) (va : Nat) : PortFault := { code := cPageFault, sub := sub, info := BitVec.ofNat 64 va }

/-- Bytes of HBM that a walk reads: the granule is checked, and an error it finds is the walk's (R258). The corrections
are counted with the granules read. -/
def walkRead (s : State) (a size : Nat) : Except PortFault (Nat × Nat) :=
  let base := a / 32 * 32
  let g := s.granule (.hbm base)
  match sealCheck g none with
  | .ok (d, corrected) => .ok (d.toNat / 2 ^ (8 * (a % 32)) % 2 ^ (8 * size), if corrected then 1 else 0)
  | .error f => .error { code := cSealFault, sub := f.sub, info := BitVec.ofNat 64 (base + 2 ^ 62) }

/-- A leaf found, with its page. -/
def leafAt (s : State) (va a size : Nat) : Except PortFault Cached := do
  let (leaf, _) ← walkRead s a 16
  return ⟨va % 2 ^ 44 / size * size, size, BitVec.ofNat 64 leaf, BitVec.ofNat 64 (leaf / 2 ^ 64), a⟩

/-- The walk from a table of a level (R257). -/
def walkFrom (s : State) (va : Nat) : Nat → Nat → Except PortFault Cached
  | 0, t => leafAt s va (t + 16 * levelIndex 0 va) 4096
  | level + 1, t => do
    let (u, _) ← walkRead s (t + 8 * levelIndex (level + 1) va) 8
    if u / 2 ^ 63 = 0 || 2 ≤ u / 2 ^ 61 % 4 then .error (pageFault 0 va)
    else
      let next := u / 16 % 2 ^ 44 * 16
      if u / 2 ^ 61 % 4 = 1 then
        if level + 1 = 3 then leafAt s va next (2 ^ 29)
        else if level + 1 = 2 then leafAt s va next (2 ^ 20)
        else .error (pageFault 0 va)
      else walkFrom s va level (next / tableAlign level * tableAlign level)

/-- The corrections of one granule that a walk reads. -/
def readFixes (s : State) (a : Nat) : Nat := if sealFixes (s.granule (.hbm (a / 32 * 32))) then 1 else 0

/-- The corrections of the granules that a walk from a table of a level reads, up to where it ends (R258). -/
def walkFixes (s : State) (va : Nat) : Nat → Nat → Nat
  | 0, t => readFixes s (t + 16 * levelIndex 0 va)
  | level + 1, t =>
    match walkRead s (t + 8 * levelIndex (level + 1) va) 8 with
    | .error _ => readFixes s (t + 8 * levelIndex (level + 1) va)
    | .ok (u, n) =>
      let next := u / 16 % 2 ^ 44 * 16
      if u / 2 ^ 63 = 0 || 2 ≤ u / 2 ^ 61 % 4 then n
      else if u / 2 ^ 61 % 4 = 1 then (if level + 1 = 3 || level + 1 = 2 then n + readFixes s next else n)
      else n + walkFixes s va level (next / tableAlign level * tableAlign level)

def Cached.home (c : Cached) : Nat := (c.entry.extractLsb' 61 2).toNat
def Cached.flag (c : Cached) (b : Nat) : Bool := c.entry.getLsbD b
/-- The data address of a page of homes 0, 1 and 3 (R259). -/
def Cached.frame (c : Cached) : Nat := (c.entry.extractLsb' 12 36).toNat * 4096 / c.size * c.size
def Cached.pinTile (c : Cached) : Nat := (c.entry.extractLsb' 32 16).toNat
def Cached.pinPage (c : Cached) : Nat := (c.entry.extractLsb' 12 7).toNat

/-- A leaf that R259 accepts. -/
def Cached.ok (s : State) (c : Cached) : Bool :=
  c.flag 63 &&
    if c.home = 2 then
      c.size = 4096 && !s.hole c.pinTile && c.entry.extractLsb' 19 13 = 0 && c.pinPage ≤ 95
    else c.frame + c.size ≤ hbmSize

/-- Where an address of the page lies. -/
def Cached.place (c : Cached) (va : Nat) : Loc :=
  if c.home = 2 then .sram c.pinTile (c.pinPage * 4096 + va % 4096) else .hbm (c.frame + va % c.size)

/-- The rights checks of R261, in their order. -/
def Cached.denies (c : Cached) (need : Need) : Option (BitVec 4) :=
  match need with
  | .read => if c.flag 57 then none else some 0
  | .execute => if c.flag 59 then none else some 3
  | .write => if c.flag 56 then some 2 else if c.flag 58 then none else some 1
  | .atomic =>
    if !c.flag 57 then some 0 else if c.flag 56 then some 2 else if c.flag 60 && c.flag 58 then none else some 1

/-- The firmware-mapped pages of the package (log 8): they lie in the firmware reserve at the same distances as their
virtual addresses. -/
def firmwareBase : Nat := 0xFFF00000000
/-- The data address of the firmware reserve (15 R356; log 8). -/
def reserveBase : Nat := 766 * 2 ^ 30

/-- A page that needs no page table of the job: the place of an address, and whether threads may write there. The map (11
R288), the alignment record (16 R378), the rank table (16 R384), the move ring (16 R400), the arrival logs (12 R308), the
trace rings with their writable first pages (14 R341), the dump areas (14 R352), the package page (15 R359) and the
watchdogs (14 R354). -/
def builtinPage (va : Nat) : Option (Loc × Bool) :=
  let a := va % 2 ^ 44
  let o := a - firmwareBase
  if a < firmwareBase then none
  else if o < 0x200000 || (0x400000 ≤ o && o < 0x401000) || (0x600000 ≤ o && o < 0x640000) || (0x800000 ≤ o && o < 0x2800000)
      || (0x10000000 ≤ o && o < 0x20000000) then some (.hbm (reserveBase + o), false)
  else if 0x700000 ≤ o && o < 0x703000 then some (.hbm (reserveBase + o), true)
  else if 0x4000000 ≤ o && o < 0xC000000 then some (.hbm (reserveBase + o), o % 0x1000000 < 0x1000)
  else if 0x20000000 ≤ o && o < 0x20001000 then some (.page (o - 0x20000000), false)
  else if 0x30000000 ≤ o && o < 0x30080000 then some (.watchdog (o - 0x30000000), true)
  else none

/-- The translation that a port holds for an address. -/
def held (s : State) (cluster va : Nat) : Option Cached :=
  (s.cluster cluster).cache.find? fun c => c.base ≤ va % 2 ^ 44 && va % 2 ^ 44 < c.base + c.size

/-- A translation that a port holds or finds by a walk (R255 step 2, R264). -/
def lookup (s : State) (cluster va : Nat) : Except PortFault (Cached × Bool) :=
  match held s cluster va with
  | some c => .ok (c, true)
  | none => do
    let c ← walkFrom s va 4 s.pkg.root
    if c.ok s then .ok (c, false) else .error (pageFault 0 va)

/-- The cache size of a port (R264). -/
def cacheSize : Nat := 2048

/-- A successful translation of a local address. -/
structure Found where
  loc : Loc
  home : Nat
  logged : Bool
  deriving DecidableEq, Repr

/-- The fault of a page drops its cached translation (R264). -/
def dropCached (s : State) (cluster va : Nat) : State :=
  s.modCluster cluster fun c =>
    { c with cache := c.cache.filter fun e => !(e.base ≤ va % 2 ^ 44 && va % 2 ^ 44 < e.base + e.size) }

/-- The dirty bit set at its owner by an indivisible update of the entry word (R262). -/
def setDirty (s : State) (leaf : Nat) : State :=
  let g := s.granule (.hbm leaf)
  match sealCheck g none with
  | .ok (d, _) =>
    let d' := d ||| (1 <<< (8 * (leaf % 32) + 53))
    s.setGranule (.hbm leaf) (sealed d' (tagOf g.sl))
  | .error _ => s

/-- The steps of R255 at a cluster's port for an address of the package's own rank: the place, or the fault, with the port's
state after. The watchdogs' page has rules of its own (14 R354). -/
def translateAt (s : State) (cluster va : Nat) (need : Need) : Except PortFault Found × State :=
  match builtinPage va with
  | some (.watchdog off, _) => (.ok ⟨.watchdog off, 1, false⟩, s)
  | some (loc, writable) =>
    if need = .read || (writable && need ≠ .execute) then (.ok ⟨loc, 1, false⟩, s)
    else (.error (pageFault (if need = .execute then 3 else 1) va), s)
  | none =>
    match lookup s cluster va with
    | .error f => (.error f, dropCached s cluster va)
    | .ok (c, hit) =>
      if !c.groups.getLsbD (s.cluster cluster).group.toNat then
        (.error { code := cGroupDenied, info := BitVec.ofNat 64 va }, dropCached s cluster va)
      else
        match c.denies need with
        | some sub => (.error (pageFault sub va), dropCached s cluster va)
        | none =>
          let dirties := need.writes && !c.flag 53
          let s := if dirties then setDirty s c.leaf else s
          let c' := if dirties then { c with entry := c.entry ||| (1 <<< 53) } else c
          let s := s.modCluster cluster fun k =>
            { k with cache := if hit then k.cache.map fun e => if e.leaf = c.leaf then { e with entry := c'.entry } else e
                              else (k.cache ++ [c']).drop (k.cache.length + 1 - cacheSize) }
          (.ok ⟨c.place va, c.home, c.flag 55⟩, s)

/-- The corrections of the walk that an address needs at a port, if it needs one. -/
def portFixes (s : State) (cluster va : Nat) : Nat :=
  if (builtinPage va).isSome || (held s cluster va).isSome then 0 else walkFixes s (va % 2 ^ 44) 4 s.pkg.root

/-- The same for an access of a tile, for which the corrections of the walk are counted (R258, 01 R34). -/
def translate (s : State) (tile va : Nat) (need : Need) : Except PortFault Found × State :=
  let n := portFixes s (clusterOf tile) va
  let s := if n = 0 then s else (s.modTile tile fun t => { t with corrected := t.corrected + n }).tally tile evCorrections none n
  translateAt s (clusterOf tile) va need

/-- The rank that a forwarding leaf names for an address of the own rank (R399). -/
def forwardTo (s : State) (cluster va : Nat) : Option Nat :=
  match builtinPage va with
  | some _ => none
  | none =>
    if (held s cluster va).isSome then none
    else
      match walkFrom s (va % 2 ^ 44) 4 s.pkg.root with
      | .ok c =>
        if !c.flag 63 && c.entry.extractLsb' 49 4 ≠ 0 then some (c.entry.extractLsb' 36 12).toNat else none
      | .error _ => none

/-- Where an address would be found now, changing nothing. -/
def peek (s : State) (tile va : Nat) : Option Loc :=
  match (translate s tile va .read).1 with
  | .ok f => some f.loc
  | .error _ => none

/-- An access to an address goes to a far package, or to a page that has moved to one (R255 step 1, 16 R399). -/
def State.isFar (s : State) (tile va : Nat) : Bool := rankOf va ≠ s.pkg.rank || (forwardTo s (clusterOf tile) va).isSome

/-- The leaf of an address of this package asks for arrival records (R259). -/
def pageLogged (s : State) (tile va : Nat) : Bool :=
  match lookup s (clusterOf tile) va with
  | .ok (c, _) => c.flag 55
  | .error _ => false

/-! Places and ranges -/

/-- A place some bytes further on. -/
def Loc.shift (n : Nat) : Loc → Loc
  | .sram tile off => .sram tile (off + n)
  | .hbm a => .hbm (a + n)
  | .page off => .page (off + n)
  | .watchdog off => .watchdog (off + n)
  | .remote r va => .remote r (va + n)

/-- Where granule n of a range lies, and whether its page is logged. -/
def Span.at (sp : Span) (n : Nat) : Option (Loc × Bool) :=
  (sp.pieces.find? fun p => p.start ≤ 32 * n && 32 * n < p.start + p.size).map fun p => (p.loc.shift (32 * n - p.start), p.logged)

/-- A store merged into a granule by its owner: the old content is checked, and an error makes the result poison (04
R100, 05 R140). -/
def mergeGranule (old : Granule) (data : Vec) (mask : BitVec 32) (tag : Option (BitVec 6)) : Granule × Bool :=
  match (if mask = ones 32 then tag else none) with
  | some t => (sealed data t, false)
  | none =>
    match sealCheck old none with
    | .ok (d, corrected) => (sealed (blend d data (byteMask mask)) (tagOf old.sl), corrected)
    | .error _ => (sealed (blend old.data data (byteMask mask)) tagPoison, sealFixes old)

/-! Replay capture (14 R347) -/

/-- A cluster holds a tile of a replay's rectangle on its die. -/
def Replay.covers (r : Replay) (cluster : Nat) : Bool :=
  let row := cluster % 320 / 20 * 4
  let col := cluster % 20 * 4
  row < r.row0 + r.height && r.row0 < row + 4 && col < r.col0 + r.width && r.col0 < col + 4

/-- A tile of its die lies in the rectangle. -/
def Replay.holds (r : Replay) (tile : Nat) : Bool :=
  r.row0 ≤ tileRow tile && tileRow tile < r.row0 + r.height && r.col0 ≤ tileCol tile && tileCol tile < r.col0 + r.width

/-- A granule of the save area written. -/
def Replay.fill (r : Replay) (n : Nat) (g : Granule) (s : State) : State :=
  match r.area.at n with
  | some (loc, _) => if loc.far then s else s.setGranule loc g
  | none => s

/-- The address of page k recorded in the save area. -/
def Replay.note (r : Replay) (k va : Nat) (s : State) : State :=
  let byte := 4096 * r.cap + 8 * k
  match r.area.at (byte / 32) with
  | some (loc, _) =>
    if loc.far then s
    else s.setGranule loc (mergeGranule (s.granule loc) (BitVec.ofNat 256 (va * 2 ^ (8 * (byte % 32)))) (BitVec.ofNat 32 (255 * 2 ^ (byte % 32))) none).1
  | none => s

/-- A port that translates a write captures its page first, once in a replay; without a free save slot the write proceeds and
overflow is set. -/
def capture (tile va : Nat) (loc : Loc) (s : State) : State :=
  let cluster := clusterOf tile
  let die := cluster / 320
  match (s.die die).replay, loc with
  | some r, .hbm a =>
    let page := va / 4096 * 4096
    if !r.covers cluster || r.pages.any (·.1 = page) then s
    else if r.cap ≤ r.pages.length then s.modDie die fun d => { d with replay := some { r with overflow := true } }
    else
      let k := r.pages.length
      let s := (List.range 128).foldl (fun s i => r.fill (128 * k + i) (s.granule (.hbm (a / 4096 * 4096 + 32 * i))) s) s
      (r.note k page s).modDie die fun d => { d with replay := some { r with pages := r.pages ++ [(page, a / 4096 * 4096)] } }
  | _, _ => s

/-! Scopes (12 R301) -/

/-- Whether an owner lies within a scope of a thread of a tile. -/
def withinScope (scope : Nat) (tile : Nat) : Loc → Bool
  | .sram t _ =>
    match scope with
    | 0 => false
    | 1 => t = tile
    | 2 => clusterOf t = clusterOf tile
    | 3 => tileDie t = tileDie tile
    | _ => true
  | .remote _ _ => 5 ≤ scope
  | _ => 4 ≤ scope

end Sys2Proof.Machine
end

