-- ==== Sys2Proof/Machine/Record.lean ====
section
/-! DEFINITION. Interrupt inputs (03 R75), and trace records with their buffers (14 R337 to R342). -/

namespace Sys2Proof.Machine

/-- An interrupt input's event (03 R75). -/
def setInput (w : Who) (input : Nat) (s : State) : State :=
  s.modThread w fun t => { t with ipend := t.ipend ||| BitVec.ofNat 8 (2 ^ input) }

/-! Records (R337) -/

/-- A trace record. -/
def traceRecord (stamp value : Word) (aux : BitVec 32) (tile addr : Nat) (cause : BitVec 8) (kind : BitVec 4) (slot : BitVec 3) : Vec :=
  stamp ++ value ++ aux ++ BitVec.ofNat 16 tile ++ BitVec.ofNat 16 addr ++ cause ++ kind ++ slot ++ 0#49

def traceDepth : Nat := 16

/-- The data address of a die's trace ring (R341; log 8), and its capacity. -/
def traceBase (die : Nat) : Nat := reserveBase + 0x4000000 + die * 0x1000000
def traceSize : Nat := 524160

/-- An interrupt input set in every thread of a tile. -/
def setAllInputs (tile input : Nat) (s : State) : State :=
  (List.range 8).foldl (fun s k => setInput ⟨tile, k⟩ input s) s

/-- A loss record enters a free entry before any new record (R342). -/
def placeLoss (tile : Nat) (s : State) : State :=
  let t := s.tile tile
  if t.traceLost = 0 || traceDepth ≤ t.trace.length then s
  else
    s.setTile tile { t with
      trace := t.trace ++ [traceRecord (BitVec.ofNat 64 s.cycle) (BitVec.ofNat 64 t.traceLost) 0 tile 0 0 4 0], traceLost := 0 }

/-- The trace network takes the head of a tile's buffer, one record every two cycles of the die. -/
def sendTrace (tile : Nat) (s : State) : State :=
  let (n, s) := s.drawLatency
  s.schedule (max (s.cycle + n) (s.die (tileDie tile)).writer) phaseAccess (.traceRingWrite (tileDie tile) tile)

/-- A record enters its tile's buffer, or is dropped and counted. -/
def enterTrace (tile : Nat) (r : Vec) (s : State) : State :=
  let t := s.tile tile
  if traceDepth ≤ t.trace.length then
    ((setAllInputs tile 4 s).modTile tile fun t => { t with traceLost := t.traceLost + 1 }).tally tile evDrops none 1
  else sendTrace tile (s.setTile tile { t with trace := t.trace ++ [r] })

end Sys2Proof.Machine
end

