-- ==== Sys2Proof/Machine/Results.lean ====
section
/-! DEFINITION. Where results go: registers at issue or at landing, queues, streams and ports (03 R77, R78, 05 R114, R117),
and the landing of an outstanding result. -/

namespace Sys2Proof.Machine

/-! Packets (11 R284 to R287) -/

/-- The class 2 flits of a packet: a port send's head and granule (11 R284, R285). -/
def Payload.flits : Payload → Nat
  | .granule .. => 2
  | _ => 0

/-- A packet enters the mesh at its source's router, about to read its heading code. -/
def inject (tok : Nat) (pc : BitVec 15) (desc : Vec) (load : Payload) (delay : Nat) (s : State) : State :=
  let (id, s) := s.fresh
  let serial := match s.thread s.cur with
    | some t => t.serial
    | none => 0
  let p : Packet :=
    { id := id, who := s.cur, thread := serial, tok := tok, pc := pc, desc := desc, cluster := clusterOf s.cur.tile, load := load }
  let s := s.tally s.cur.tile evFlits none load.flits
  let (n, s) := s.drawLatency
  { s with packets := s.packets ++ [p] }.schedule (s.cycle + delay + n) phaseAccess (.packetHop id)

/-- A port's descriptor; a port never loaded is a QUEUE_FAULT (07 R181). -/
def needPort (j : Nat) : M Vec := do
  match (← getTile).ports[j]?.getD none with
  | some d => return d
  | none => trapNow cQueueFault (BitVec.ofNat 64 (0x200 + j))

/-! Delivery -/

/-- The WAITCs of a tile whose word's granule has been written read again (07 R199). -/
def wakeWords (tile off : Nat) (s : State) : State :=
  (List.range 8).foldl (fun s n =>
    match s.thread ⟨tile, n⟩ with
    | none => s
    | some t =>
      match t.wait with
      | some (.word pc key byte o b cond d u reading _) =>
        if key = .own (off / 32 * 32) then
          if reading then s.modThread ⟨tile, n⟩ fun t => { t with wait := some (.word pc key byte o b cond d u reading true) }
          else s.schedule (s.cycle + 1) phaseAccess (.waitcReread ⟨tile, n⟩)
        else s
      | _ => s) s

/-- A granule of a queue's storage written. -/
def putEntry (tile off : Nat) (g : Granule) (s : State) : State := wakeWords tile off (s.setGranule (.sram tile off) g)

/-- A granule pushed at the tail of a queue (07 R177). -/
def Queue.pushed (q : Queue) : Queue :=
  { q with tail := (q.tail + 1) % q.depth, count := q.count + 1, inFlight := q.inFlight - 1, parked := [], stay := [] }

/-- The push performs: the granule is written and counted. A queue that has been set anew meanwhile, and has no room, loses
it (R178). -/
def pushGranule (tile j : Nat) (g : Granule) (s : State) : State :=
  let q := (s.tile tile).queue j
  if q.depth ≤ q.count then s.modTile tile (·.setQueue j { q with inFlight := q.inFlight - 1 })
  else ((putEntry tile (q.offset q.tail) g s).modTile tile (·.setQueue j q.pushed)).tally tile evPushes none 1

/-- A popped granule returned to the head of its queue, where the instruction that took it has had no effect (R181). -/
def unpopGranule (tile : Nat) (s : State) (p : Nat × Granule) : State :=
  let q := (s.tile tile).queue p.1
  if q.depth ≤ q.count then s
  else
    let head := (q.head + q.depth - 1) % q.depth
    (putEntry tile (q.offset head) p.2 s).modTile tile (·.setQueue p.1 { q with head := head, count := q.count + 1 })

/-- The granules that the present instruction has taken returned, for a fault before its effect (03 R82). -/
def giveBack (s : State) : State :=
  match s.thread s.cur with
  | some t => t.popped.reverse.foldl (unpopGranule s.cur.tile) s
  | none => s

/-- A granule taken by a write stream's unit, whose drain is on its way; into its own tile SRAM the granules drain in order, one a
cycle, from the cycle after the first is there (07 R186). -/
def takeGranule (tile j : Nat) (g : Granule) (loc : Loc) (s : State) : State :=
  match (s.tile tile).stream j with
  | none => s
  | some st =>
    let s := s.modTile tile (·.setStream j (some { st with pos := st.pos + 1, drain := st.drain ++ [(st.pos, g, loc)] }))
    if st.seg.kind = 2 then (if st.drain.isEmpty then s.schedule (s.cycle + 1) phaseAccess (.streamDrain tile j) else s)
    else s.scheduleFree phaseAccess (.streamDrain tile j)

/-- A granule of sixteen words of the idle half, and the half's ready bit cleared (08 R208). -/
def Timed.setIdle (t : Timed) (n : Nat) (v : Vec) : Timed :=
  let put (h : Tab (BitVec 16)) := (List.range 16).foldl (fun h i => Tab.putD 0 h (16 * n + i) (v.extractLsb' (16 * i) 16)) h
  if t.files.active then { t with h0 := put t.h0, ready := false, edits := t.edits + 1 }
  else { t with h1 := put t.h1, ready := false, edits := t.edits + 1 }

/-- The effect of one write of a result on the machine. -/
def applyWrite (w : Who) (s : State) : Write → State
  | .push q g => pushGranule w.tile q g s
  | .stream j g loc => takeGranule w.tile j g loc s
  | .upat j v => s.modTile w.tile fun t => { t with upat := t.upat.setIfInBounds j v }
  | .half n v => s.modTile w.tile fun t => { t with timed := t.timed.setIdle n v }
  | .bundle n v => s.modTile w.tile fun t => { t with timed := { t.timed with bundles := Tab.putD 0 t.timed.bundles n v } }
  | .task r =>
    let (n, s) := s.fresh
    s.modTile w.tile fun t =>
      { t with deque := t.deque ++ [⟨r, some w.slot, n⟩], conts := (w.slot, n) :: t.conts, forking := t.forking - 1
               dequeFrom := s.cycle + 1 }
  | .trace r => s.modTile w.tile fun t => { t with traced := t.traced ++ [(w.slot, r)] }
  | .emptyRemote d => s.modDie d fun d => { d with cache := [], steps := d.steps + 1 }
  | wr => s.modThread w (·.write wr)

def applyWrites (w : Who) (s : State) (ws : List Write) : State := ws.foldl (applyWrite w) s

/-- A granule sent to a q, s or n destination by an instruction whose result lands a number of cycles after issue; it
carries the writes that land with it. The thread issues nothing more until then (03 R82, 05 R114). -/
def sendGranule (pc : BitVec 15) (code : OpCode) (long : Option Nat) (g : Granule) (ws : List Write) : M Unit := do
  let s ← get
  match operandOf code with
  | .q j =>
    let lat := long.getD 2
    modTileM fun t => t.setQueue j { t.queue j with inFlight := (t.queue j).inFlight + 1 }
    let tok ← addOutst fun tok => { tok := tok, pc := pc, fin := .ready (.push j g :: ws), lands := s.cycle + lat }
    modS (landsLater tok lat phaseAccess)
  | .s j =>
    let st ← needStream j true
    let off := st.offset st.pos
    let addr := st.seg.address off
    let lat := long.getD 1
    if st.seg.kind = 2 then
      if ((← getTile).shutGranule addr 32).isSome then
        modS giveBack
        rollbackNow pc cWindowViolation 0 (BitVec.ofNat 64 addr)
      longResult pc lat [] (.stream j g (.sram s.cur.tile addr) :: ws)
    else
      let tok ← addOutst fun tok => { tok := tok, pc := pc, fin := .accept j g, lands := s.cycle + lat }
      modS fun s =>
        let (id, s) := s.fresh
        let serial := match s.thread s.cur with
          | some t => t.serial
          | none => 0
        let a : Access :=
          { id := id, who := s.cur, thread := serial, key := .virt addr, kind := .probe tok true, stage := 1 }
        let (n, s) := s.drawLatency
        ({ s with accs := s.accs ++ [a] }.modThread s.cur (·.writes ws)).schedule (s.cycle + lat + n) phaseAccess (.portAccess id)
  | .n j =>
    let desc ← needPort j
    let tok ← addOutst fun tok => { tok := tok, pc := pc, fin := .ready ws, lands := s.cycle }
    modS (inject tok pc desc (.granule (desc.extractLsb' 200 4).toNat g) (long.getD 0))
  | _ => pure ()

/-- A vector result: the bits of mask are written, for a q, s or n destination the rest as zero (05 R114). -/
def putVector (pc : BitVec 15) (code : OpCode) (long : Option Nat) (value mask : Vec) (z : Bool) (tag : BitVec 6)
    (flags : BitVec 7) : M Unit := do
  match operandOf code with
  | .v n =>
    let ws : List Write := [.v n (value &&& mask) (if z then fullMask else mask), .flags flags]
    match long with
    | none => modT (·.writes ws)
    | some lat => longResult pc lat [destV n] ws
  | _ => sendGranule pc code long (sealed (value &&& mask) tag) [.flags flags]

/-- A scalar result by a 9-bit code: an x register, or a granule that holds it tagged 0x05 (04 R90). -/
def putScalar (pc : BitVec 15) (code : OpCode) (long : Option Nat) (value : Word) : M Unit := do
  match operandOf code with
  | .x r =>
    match long with
    | none => modT (·.setX r value)
    | some lat => longResult pc lat [destX r] [.x r value]
  | _ => sendGranule pc code long (sealed (value.setWidth 256) 0x05) []

/-- An instruction with these operand codes is committing (03 R82). -/
def commitsBy (d a b : OpCode) : Bool :=
  isKind .q d || isKind .n d || isKind .s d || isKind .q a || isKind .q b

/-- The latency of a short instruction whose sources may be queues or streams: 4 cycles after the last granule arrives
(05 R117). -/
def shortLatency (a b : OpCode) : Option Nat := if slowSource a || slowSource b then some 4 else none

/-- Where both operands carry distances, a is taken before b, its park and its SEAL_FAULT too (06 R155). -/
def takenFirst (ka kb : BitVec 2) : Bool := ka ≠ 0 && kb ≠ 0

/-- The sources of an instruction, read and consumed, with the latency that a queue or stream source gives: first every
precise fault, then the room that the destination needs, then a, then b (02 R42, 05 R114, R117). -/
def readOperands (pc : BitVec 15) (w : Nat) (tag : BitVec 6) (d a : OpCode) (ka : BitVec 2) (b : OpCode) (kb : BitVec 2) :
    M (Vec × Vec × Option Nat) := do
  destFault d
  sourceFault a ka 0
  let first := takenFirst ka kb
  if !first then sourceFault b kb (sameAs a b)
  destRoom d
  let va ← readSource pc w tag a ka 0
  if first then sourceFault b kb (sameAs a b)
  let vb ← readSource pc w tag b kb (sameAs a b)
  consume a
  consume b
  return (va, vb, shortLatency a b)

/-! Landing (03 R78) -/

/-- The bytes of a granule request: those taken from the store buffer over those read. -/
def Req.bytes (r : Req) : Vec := blend (r.got.getD 0) r.own (byteMask r.ownMask)

/-- The instruction store written with a granule's bytes (04 R113). -/
def storeCode (m : Memory) (a : Nat) (v : Vec) : Nat → Memory
  | 0 => m
  | n + 1 => storeCode (m.write (a % 32768) (byteOf v 0)) (a + 1) (v >>> 8) n

/-- The writes of a result once all it waits for is there (04 R98, R101, 05 R139, R141, R142). -/
def Outst.writes (o : Outst) : List Write :=
  let granule (i : Nat) : Vec := match o.reqs[i]? with
    | some r => r.bytes
    | none => 0
  match o.fin with
  | .ready ws => ws
  | .scalar d byte size signed =>
    let raw := BitVec.ofNat 64 ((granule 0).toNat / 2 ^ (8 * byte) % 2 ^ (8 * size))
    [.x d (if signed then (raw.setWidth (8 * size)).signExtend 64 else raw)]
  | .vector d mask zmask => [.v d (granule 0 &&& mask) (mask ||| zmask)]
  | .gather d width elems zmask =>
    let value := elems.foldl (fun v (e : Nat × Nat × Nat) =>
      v ||| ((granule e.2.1 >>> e.2.2) &&& (BitVec.ofNat 256 (2 ^ width - 1))) <<< (e.1 * width)) (0 : Vec)
    let mask := elems.foldl (fun v (e : Nat × Nat × Nat) => v ||| (BitVec.ofNat 256 (2 ^ width - 1)) <<< (e.1 * width)) (0 : Vec)
    [.v d value (mask ||| zmask)]
  | .unpack d pat bit active zmask =>
    let bits := (List.range o.reqs.length).foldl (fun n i => n + (granule i).toNat * 2 ^ (256 * i)) 0
    let r := patUnpack pat (bits / 2 ^ bit) active
    [.v d r.1 (active ||| zmask), .flags r.2]
  | .segment n =>
    let rec_ := granule 0
    [.seg n { kind := 1, rights := rec_.extractLsb' 136 5, limit := rec_.extractLsb' 64 48, base := rec_.extractLsb' 0 56 }]
  | .istore _ _ => []
  | .probe _ => []
  | .accept _ _ => []
  | .item _ _ => []
  | .xit _ => []
  | .killed => []
  | .evict _ _ => []
  | .publish _ _ => []
  | .reply => []

end Sys2Proof.Machine
end

