-- ==== Sys2Proof/Machine/Access.lean ====
section
/-! DEFINITION. Memory accesses in flight: their faults, reads, writes, atomics, and what a write sets off at its owner
(04 R99 to R105, 07 R171, R172, R197, 12 R303 to R309). -/

namespace Sys2Proof.Machine

/-! Accesses -/

def State.access (s : State) (id : Nat) : Option Access := s.accs.find? (·.id = id)
def State.dropAccess (s : State) (id : Nat) : State := { s with accs := s.accs.filter (·.id ≠ id) }
def State.putAccess (s : State) (a : Access) : State := { s with accs := s.accs.map fun b => if b.id = a.id then a else b }

/-- The thread that an access belongs to, while it lives. -/
def State.accessThread (s : State) (a : Access) : Option Thread := (s.thread a.who).filter (·.serial = a.thread)

/-- The virtual address or SRAM offset of an access's granule. -/
def GKey.addr : GKey → Nat
  | .own o => o
  | .virt a => a

/-- The address that an access names (03 R84). -/
def Access.addr (a : Access) : Nat := a.key.addr + a.byte

def Access.tok : Access → Option Nat := fun a =>
  match a.kind with
  | .granule t _ => some t
  | .probe t _ => some t
  | .atomic t .. => some t
  | .walk t .. => some t
  | .multicast t _ => some t
  | .launch t .. => some t
  | _ => none

/-- The class 2 flits that an access's request takes: a head, and the granule that a store sends (11 R284). -/
def Access.flits (a : Access) : Nat :=
  match a.kind with
  | .release .. => 2 | .drain .. => 2 | .burst .. => 0
  | .launch .. => match a.key with
    | .own _ => 0
    | .virt _ => 2
  | _ => 1

/-- An access that a FENCE or DRAIN waits for: a store or an atomic (04 R106, R107). -/
def Access.stores (a : Access) : Bool :=
  match a.kind with
  | .release .. => true
  | .atomic .. => true
  | _ => false

/-- With every result landed, a trap whose entry has begun is entered (03 R83). -/
def settle (w : Who) (s : State) : State :=
  match s.thread w with
  | some t =>
    if !t.outst.isEmpty then s
    else if t.fatal.isSome then s.schedule s.cycle phaseLand (.threadFatal w)
    else if t.entering.isSome then s.schedule s.cycle phaseLand (.trapEntry w)
    else s
  | none => s

/-- An outstanding result that ends with no effect. -/
def dropOutst (w : Who) (tok : Nat) (s : State) : State :=
  s.modThread w fun t => { t with outst := t.outst.filter (·.tok ≠ tok) }

/-- A rollback fault returns to the thread for one of its results: the result is dropped (03 R83). -/
def failResult (w : Who) (serial tok : Nat) (f : PortFault) (s : State) : State :=
  match s.thread w with
  | none => s
  | some t =>
    if t.serial ≠ serial then s else
      match t.outst.find? (·.tok = tok) with
      | none => s
      | some o =>
        let s := t.popped.reverse.foldl (unpopGranule w.tile) s
        settle w (dropOutst w tok
          (collect w tok { code := f.code, sub := f.sub, info := f.info, epc := o.pc, fpc := o.pc } s))

/-- A rollback fault that no outstanding result carries: WAITC's (07 R199). -/
def failWait (w : Who) (pc : BitVec 15) (f : PortFault) (s : State) : State :=
  let (tok, s) := s.fresh
  settle w ((collect w tok { code := f.code, sub := f.sub, info := f.info, epc := pc, fpc := pc } s).modThread w
    fun t => { t with wait := none })

/-- The string of a released store fails at a router: its thread takes the rollback trap (11 R287). -/
def failRelease (w : Who) (f : PortFault) (s : State) : State :=
  match s.thread w with
  | none => s
  | some t =>
    let (tok, s) := s.fresh
    settle w (collect w tok { code := f.code, sub := f.sub, info := f.info, epc := t.mpc, fpc := t.mpc } s)

/-- An access ends with a fault. -/
def failAccess (a : Access) (f : PortFault) (s : State) : State :=
  let s := s.dropAccess a.id
  match a.tok with
  | some tok => failResult a.who a.thread tok f s
  | none =>
    match s.accessThread a, a.kind with
    | some _, .release .. => failRelease a.who f s
    | some t, _ =>
      match t.wait with
      | some (.word pc ..) => failWait a.who pc f s
      | _ => s
    | none, _ => s

/-- A landing scheduled. -/
def landAt (w : Who) (tok lat : Nat) (s : State) : State := s.schedule (s.cycle + lat) phaseLand (.longResultLands w tok)

/-- A fixed number of cycles, or a free latency. -/
def landIn (w : Who) (tok : Nat) (lat : Option Nat) (s : State) : State :=
  match lat with
  | some n => landAt w tok n s
  | none => s.scheduleFree phaseLand (.longResultLands w tok)

/-- A request's data has come: with the last, the result lands. -/
def gotGranule (a : Access) (tok idx : Nat) (d : Vec) (lat : Option Nat) (s : State) : State :=
  match s.accessThread a with
  | none => s
  | some t =>
    let outst := t.outst.map fun o =>
      if o.tok = tok then { o with reqs := o.reqs.mapIdx fun i r => if i = idx then { r with got := some d } else r } else o
    let s := s.setThread a.who { t with outst := outst }
    match outst.find? (·.tok = tok) with
    | none => s
    | some o =>
      if o.reqs.all (·.got.isSome) then
        match o.fin with
        | .istore _ _ => landAt a.who tok 1 s
        | _ => landIn a.who tok lat s
      else s

/-! Deque (07 R192) and armed counters (07 R196, R197) -/

def dequeDepth : Nat := 32

/-- A record pushed at the near end. -/
def Tile.push (t : Tile) (r : Task) : Tile := { t with deque := t.deque ++ [r] }

/-- There is room in the deque beside the records that FORKs have on their way (R193). -/
def Tile.roomy (t : Tile) : Bool := t.deque.length + t.forking < dequeDepth

/-- The deque serves a request on a cycle, and another on the next (R192). -/
def Tile.served (t : Tile) (cycle : Nat) : Tile := { t with dequeFrom := cycle + 1 }

/-- An armed word that is zero fires: its record is pushed, or waits in its entry for room, or for the deque's next cycle. -/
def fireArm (tile i : Nat) (serial : Nat) (s : State) : State :=
  let t := s.tile tile
  match t.armed[i]?.getD none with
  | none => s
  | some a =>
    if t.roomy && t.dequeFrom ≤ s.cycle then
      s.setTile tile { (t.push ⟨a.record, none, serial⟩).served s.cycle with armed := t.armed.setIfInBounds i none }
    else
      let s := s.setTile tile { t with armed := t.armed.setIfInBounds i (some { a with fired := true }) }
      if t.roomy then s.schedule t.dequeFrom phaseAccess (.deferredArmPush tile) else s

/-- The armed words of a granule that a write of some of its bytes reaches are tested (R197). -/
def testArms (tile off : Nat) (bytes : BitVec 32) (s : State) : State :=
  (List.range 16).foldl (fun s i =>
    match (s.tile tile).armed[i]?.getD none with
    | none => s
    | some a =>
      if !a.fired && a.off / 32 = off / 32 && bytes.extractLsb' (a.off % 32) 8 ≠ 0 && s.mem.readN (Loc.addr (.sram tile a.off)) 8 = 0 then
        let (n, s) := s.fresh
        fireArm tile i n s
      else s) s

/-- The data address of the move service's ring (16 R400; log 8). -/
def moveRing : Nat := reserveBase + 0x700000

/-- What follows a write at its owner: waits and, for the bytes of a write that armed counters test, the counters; the move service
sees its head word. -/
def afterWrite (loc : Loc) (tested : BitVec 32) (s : State) : State :=
  match loc with
  | .sram tile off => wakeWords tile off (if tested = 0 then s else testArms tile off tested s)
  | .hbm a => if a / 32 * 32 = moveRing then s.scheduleFree phaseAccess .pageMove else s
  | _ => s

/-! HBM owners (15 R356) -/

def pseudoChannel (a : Nat) : Nat := (a / 256 + a / 256 / 768) % 768

/-- The cluster whose port owns a data address. -/
def ownerCluster (a : Nat) : Nat :=
  let pc := pseudoChannel a
  let j := pc % 96
  pc / 96 * 320 + j / 3 % 16 * 20 + (if j < 48 then 0 else 19)

/-- The readiness bit of the stack that holds a data address (15 R364). -/
def State.stackReady (s : State) (a : Nat) : Bool := s.pkg.ready.getLsbD (9 + pseudoChannel a / 64)

/-- The ratio of the regions that run, 0 with none (13 R334). -/
def State.ratio (s : State) : Nat :=
  match s.regions.find? (·.2.started) with
  | some r => r.2.ratio
  | none => 0

/-- Threaded traffic waits at the owner of a place: at ratio 16, until its stack is ready, or where a lane failure has taken
the pseudo-channel down (13 R334, 15 R355, R364; log 64). -/
def State.hbmShut (s : State) : Loc → Bool
  | .hbm a => s.ratio = 16 || !s.stackReady a || s.pkg.dead.contains (pseudoChannel a)
  | _ => false

/-- A page walk of threaded traffic for an address waits while the regions leave HBM no threaded slot (13 R334). -/
def State.walkWaits (s : State) (cluster va : Nat) : Bool := s.ratio = 16 && (builtinPage va).isNone && (held s cluster va).isNone

/-- A request for a page of the own rank parks at its port: for a walk that finds no threaded HBM slot (13 R334), or where the page is
in transit (16 R399). -/
def State.pageWaits (s : State) (cluster va : Nat) : Bool :=
  rankOf va = s.pkg.rank && (s.walkWaits cluster va || forwardTo s cluster va = some s.pkg.rank)

/-- The cluster whose port or tile owns a place of this package. -/
def Loc.cluster : Loc → Option Nat
  | .sram tile _ => some (clusterOf tile)
  | .hbm a => some (ownerCluster a)
  | _ => none

/-- The data address of a die's arrival log ring (12 R308; log 8). -/
def logBase (die : Nat) : Nat := reserveBase + 0x800000 + die * 0x400000
def logSize : Nat := 131071

/-- Who made a logged write (12 R309). -/
structure Logged where
  va : Nat
  bytes : BitVec 32
  rank : Nat
  who : Who
  kind : Nat
  deriving DecidableEq, Repr

/-- One arrival record, written by the owner into its own die's ring before it acknowledges (R309). -/
def arrivalRecord (a : Nat) (l : Logged) (s : State) : State :=
  let c := ownerCluster a
  let base := logBase (c / 320)
  let header := s.granule (.hbm base)
  let n := (header.data.extractLsb' 0 64).toNat
  let rec_ : Vec :=
    BitVec.ofNat 64 (s.cluster c).logged ++ BitVec.ofNat 56 (l.va / 32 * 32) ++ l.bytes ++ BitVec.ofNat 12 l.rank ++
      BitVec.ofNat 16 l.who.tile ++ BitVec.ofNat 3 l.who.slot ++ BitVec.ofNat 3 l.kind ++ BitVec.ofNat 12 c ++ 0#58
  let s := s.setGranule (.hbm (base + 32 * (1 + n % logSize))) (sealed rec_ 0)
  let s := s.setGranule (.hbm base) (sealed (0#128 ++ BitVec.ofNat 64 logSize ++ BitVec.ofNat 64 (n + 1)) 0)
  s.modCluster c fun c => { c with logged := c.logged + 1 }

/-- A logged page's record, for a write that performs at an HBM owner (R309). -/
def logWrite (loc : Loc) (l : Option Logged) (s : State) : State :=
  match loc, l with
  | .hbm a, some l => arrivalRecord a l s
  | _, _ => s

/-- The record of a thread's access. -/
def Access.record (a : Access) (rank kind : Nat) (bytes : BitVec 32) : Option Logged :=
  if a.logged then some ⟨a.key.addr, bytes, rank, a.who, kind⟩ else none

/-! Writes at an owner -/

/-- A correction made by an owner, counted for the tile that asked for the access; none of this package asks for what firmware
or another package does (01 R34; log 80). -/
def countFor (asker : Option Nat) (corrected : Bool) (s : State) : State :=
  match asker with
  | some tile => s.countCorrection tile corrected
  | none => s

/-- A line of a tile's read cache rewritten if it is there (07 R172). -/
def cacheUpdate (tile va : Nat) (g : Granule) (s : State) : State :=
  s.modTile tile fun t =>
    let i := va / 32 % 256
    let set := (t.cache[i]?.getD []).map fun l => if l.va = va / 32 * 32 then { l with g := g } else l
    { t with cache := t.cache.setIfInBounds i set }

/-- A released store performs at a place of this package (04 R100). -/
def performRelease (a : Access) (loc : Loc) (data : Vec) (mask : BitVec 32) (tag : Option (BitVec 6)) (s : State) : State :=
  let (g, corrected) := mergeGranule (s.granule loc) data mask tag
  let s := countFor (some a.who.tile) corrected (s.setGranule loc g)
  let s := match loc, a.key with
    | .hbm _, .virt va => cacheUpdate a.who.tile va g s
    | _, _ => s
  afterWrite loc mask (logWrite loc (a.record s.pkg.rank 0 mask) s)

/-! Atomics (04 R102 to R105) -/

/-- The new value of an atomic of a width, and its flags: the operation codes of R102, and 0x1F for CAS. -/
def atomicNew (op w : Nat) (old operand expected : Nat) : Option Nat × BitVec 7 :=
  let sgn (n : Nat) : Int := intOf true w n
  match op with
  | 0 => (some ((old + operand) % 2 ^ w), 0)
  | 1 => (some (old &&& operand), 0)
  | 2 => (some (old ||| operand), 0)
  | 3 => (some (old ^^^ operand), 0)
  | 4 => (some (if sgn operand < sgn old then operand else old), 0)
  | 5 => (some (if sgn old < sgn operand then operand else old), 0)
  | 6 => (some (min old operand), 0)
  | 7 => (some (max old operand), 0)
  | 8 => (some operand, 0)
  | 9 =>
    let r := addF32 .rne old operand
    (some r.1, r.2.toBits)
  | _ => (if old = expected then some operand else none, 0)

/-- The old value as the destination receives it: a 32-bit one sign-extended. -/
def atomicOld (w old : Nat) : Word := if w = 32 then (BitVec.ofNat 32 old).signExtend 64 else BitVec.ofNat 64 old

/-- The outcome of an atomic on a granule: the new granule if it writes, the old value, the flags. -/
def atomicOn (g : Granule) (byte op w : Nat) (operand expected : Word) :
    Except SealFault (Option Granule × Word × BitVec 7 × Bool) :=
  match sealCheck g none with
  | .error f => .error f
  | .ok (d, corrected) =>
    let old := d.toNat / 2 ^ (8 * byte) % 2 ^ w
    let (new, flags) := atomicNew op w old (operand.toNat % 2 ^ w) (expected.toNat % 2 ^ w)
    let g' := new.map fun n =>
      sealed (blend d (BitVec.ofNat 256 (n * 2 ^ (8 * byte))) (BitVec.ofNat 256 ((2 ^ w - 1) * 2 ^ (8 * byte)))) (tagOf g.sl)
    .ok (g', atomicOld w old, flags, corrected)

/-- The writes of a result set, to be applied when it lands. -/
def setReply (w : Who) (tok : Nat) (ws : List Write) (s : State) : State :=
  s.modThread w fun t => { t with outst := t.outst.map fun o => if o.tok = tok then { o with fin := .ready ws } else o }

/-- A seal fault of an access (03 R84). -/
def Access.sealFault (a : Access) (f : SealFault) : PortFault :=
  { code := cSealFault, sub := f.sub, info := BitVec.ofNat 64 a.key.addr }

/-- An atomic performs at a place of this package, and its result lands. -/
def performAtomic (a : Access) (loc : Loc) (tok op : Nat) (wide : Bool) (operand expected : Word) (d : Reg)
    (lat : Option Nat) (s : State) : State :=
  let w := if wide then 64 else 32
  match atomicOn (s.granule loc) a.byte op w operand expected with
  | .error f => failAccess a (a.sealFault f) (countFor (some a.who.tile) (sealFixes (s.granule loc)) s)
  | .ok (g', old, flags, corrected) =>
    let s := countFor (some a.who.tile) corrected (s.dropAccess a.id)
    let s := match g' with
      | some g =>
        let bytes := BitVec.ofNat 32 ((2 ^ (w / 8) - 1) * 2 ^ a.byte)
        afterWrite loc bytes (logWrite loc (a.record s.pkg.rank (if op = 0x1F then 2 else 1) bytes) (s.setGranule loc g))
      | none => s
    landIn a.who tok lat (setReply a.who tok [.x d old, .flags flags, .fold 8 old] s)

/-! Reads -/

/-- A WAITC condition (07 R199). -/
def waitHolds (cond : BitVec 3) (v b : Word) : Bool :=
  match cond.toNat with
  | 0 => v = b
  | 1 => v ≠ b
  | 2 => !v.slt b
  | 3 => !v.ult b
  | 4 => v.slt b
  | _ => v.ult b

/-- The thread waits at a WAITC on a word of a granule. -/
def Thread.waitsFor (t : Thread) (key : GKey) : Bool :=
  match t.wait with
  | some (.word _ k ..) => k = key
  | _ => false

/-- A WAITC's read has returned: it lands, reads again, or waits (R199). -/
def wordRead (w : Who) (v : Word) (s : State) : State :=
  match s.thread w with
  | none => s
  | some t =>
    match t.wait with
    | some (.word pc key byte off b cond d u _ again) =>
      if waitHolds cond v b then s.setThread w { (t.setX d v).write (.fold 8 v) with wait := none, pc := t.pc + 4 }
      else
        let s := s.setThread w { t with wait := some (.word pc key byte off b cond d u false false) }
        match key with
        | .own _ => if again then s.schedule s.cycle phaseAccess (.waitcReread w) else s
        | .virt _ => s.schedule (s.cycle + 64) phaseAccess (.waitcReread w)
    | _ => s

/-- A read access has read its granule: the thread checks it (R99). -/
def deliverRead (a : Access) (g : Granule) (lat : Option Nat) (s : State) : State :=
  match s.accessThread a with
  | none => s.dropAccess a.id
  | some t =>
    match a.kind with
    | .granule tok idx =>
      let expect := ((t.outst.find? (·.tok = tok)).bind (·.expect))
      match sealCheck g expect with
      | .error f => failAccess a (a.sealFault f) (s.countCorrection a.who.tile (sealFixes g))
      | .ok (d, corrected) => gotGranule a tok idx d lat ((s.dropAccess a.id).countCorrection a.who.tile corrected)
    | .word =>
      if !t.waitsFor a.key then s.dropAccess a.id
      else
      match sealCheck g none with
      | .error f => failAccess a (a.sealFault f) (s.countCorrection a.who.tile (sealFixes g))
      | .ok (d, corrected) =>
        let v := BitVec.ofNat 64 (d.toNat / 2 ^ (8 * a.byte))
        wordRead a.who v ((s.dropAccess a.id).countCorrection a.who.tile corrected)
    | _ => s.dropAccess a.id

/-! The order of one thread's accesses (12 R304, R305) -/

/-- Where an access of this package will perform, as far as it can be told now. -/
def Access.where_ (s : State) (a : Access) : Option Loc :=
  match a.loc with
  | some l => some l
  | none =>
    match a.key with
    | .own o => some (.sram a.who.tile o)
    | .virt v => if rankOf v = s.pkg.rank then peek s a.who.tile v else none

/-- Two accesses name one granule, by one address or by two. -/
def sameGranule (s : State) (a b : Access) : Bool :=
  b.key = a.key || ((Access.where_ s a).isSome && (Access.where_ s a).map Loc.granule = (Access.where_ s b).map Loc.granule)

/-- An earlier access of the same thread to the same granule is still on its way. -/
def earlierSame (s : State) (a : Access) : Bool :=
  s.accs.any fun b => b.id < a.id && b.who = a.who && b.thread = a.thread && b.stage < 4 && sameGranule s a b

/-- An earlier load of the same thread of the same granule has not returned: a later one may not return an older value (R304). -/
def earlierLoad (s : State) (a : Access) : Bool :=
  s.accs.any fun b => b.id < a.id && b.who = a.who && b.thread = a.thread && sameGranule s a b &&
    match b.kind with
    | .granule _ _ => true
    | _ => false

/-! The bank port (07 R170, R171) -/

/-- An access that a taken bank has held at a tile's port before another is still held there; n is the other's place, none for one
that reaches the port now. -/
def State.portWaits (s : State) (tile : Nat) (n : Option Nat) : Bool :=
  s.accs.any fun b =>
    match b.held with
    | some (t, m) => t = tile && (match n with
      | some k => m < k
      | none => true)
    | none => false

/-- What reaches a tile's bank port on this cycle cannot perform on it. -/
def State.portTaken (s : State) (tile off : Nat) : Bool := s.bankTaken tile off || s.portWaits tile none

/-- The same for an access that may have been held before. -/
def State.portHolds (s : State) (a : Access) (tile off : Nat) : Bool := s.bankTaken tile off || s.portWaits tile (a.held.map (·.2))

/-- An access held at a tile's port until the next cycle, in its place in the order of arrival. -/
def holdAtPort (a : Access) (tile : Nat) (again : Event) (s : State) : State :=
  let s := if a.held.isSome then s else
    let (n, s) := s.fresh
    s.putAccess { a with held := some (tile, n) }
  s.schedule (s.cycle + 1) phaseHeld again

/-- An earlier access of the same thread to its own tile's SRAM has not performed yet (R305). -/
def earlierOwn (s : State) (a : Access) : Bool :=
  s.accs.any fun b => b.id < a.id && b.who = a.who && b.thread = a.thread &&
    (match b.kind with
      | .probe _ _ => false
      | _ => match Access.where_ s b with
        | some (.sram t _) => t = a.who.tile
        | _ => false)

/-! Starting accesses -/

/-- An access of the present thread: to its own SRAM it reaches the bank port on the next cycle (07 R171), otherwise it
leaves its tile. -/
def startAccess (key : GKey) (byte size delay : Nat) (kind : AccKind) (s : State) : State :=
  let (id, s) := s.fresh
  let t := s.thread s.cur
  let a : Access :=
    { id := id, who := s.cur, thread := (t.map (·.serial)).getD 0, key := key, byte := byte, size := size, kind := kind
      launch := t.bind (·.launch), mode := (t.map (·.status.mode)).getD 0, epoch := (s.die (tileDie s.cur.tile)).steps }
  let s := { s with accs := s.accs ++ [a] }
  match key with
  | .own _ => s.schedule (s.cycle + 1 + delay) phaseAccess (.bankAccess id)
  | .virt _ => s.schedule (s.cycle + 1) phaseAccess (.portAccess id)

/-- The bytes of a granule that the store buffer of the present thread holds (R99). -/
def Thread.gatedAt (t : Thread) (key : GKey) : Vec × BitVec 32 :=
  match t.gated.find? (·.key = key) with
  | some g => (g.data, g.mask)
  | none => (0, 0)

/-- A request for a granule of which certain bytes are needed: read from memory only if the store buffer lacks some. -/
def Thread.request (t : Thread) (key : GKey) (needed : BitVec 32) : Req :=
  let (d, m) := t.gatedAt key
  if needed &&& ~~~m = 0 then
    match key with
    | .own _ => { key := key, own := d, ownMask := m, got := some 0 }
    | .virt _ => { key := key, own := d, ownMask := m, skip := true }
  else { key := key, own := d, ownMask := m }

/-- The accesses of the requests that are still to be made; with spread, one granule a cycle (05 R117). -/
def startRequests (tok byte size : Nat) (spread : Bool) (s : State) : Nat → List Req → State
  | _, [] => s
  | i, r :: rest =>
    if r.got.isSome then startRequests tok byte size spread s (i + 1) rest
    else startRequests tok byte size spread (startAccess r.key byte size (if spread then i else 0) (.granule tok i) s) (i + 1) rest

/-- A granule of the thread's own tile SRAM, reached through a kind 2 segment. -/
def GKey.isOwn : GKey → Bool
  | .own _ => true
  | .virt _ => false

/-- A load: its result is outstanding, and its granules are on their way (R99). From the own tile it lands 8 cycles after issue, with
spread one more for each granule beyond the first (05 R117), also where the store buffer holds them. -/
def load (pc : BitVec 15) (reqs : List Req) (fin : Finish) (expect : Option (BitVec 6)) (dests : List (Nat × Nat))
    (byte : Nat) (spread : Bool) : M Unit := do
  let cyc := (← get).cycle
  let least := 8 + (if spread then reqs.length - 1 else 0)
  let tok ← addOutst fun tok =>
    { tok := tok, pc := pc, reqs := reqs, fin := fin, expect := expect, dests := dests
      lands := if reqs.all (·.key.isOwn) then cyc + least else cyc }
  if reqs.all (·.got.isSome) then modS fun s => landAt s.cur tok least s
  else
    let size := match fin with
      | .scalar _ _ size _ => size
      | _ => 32
    modS fun s => startRequests tok byte size spread s 0 reqs

end Sys2Proof.Machine
end

