-- ==== Sys2Proof/Machine/Loads.lean ====
section
/-! DEFINITION. Scalar loads and stores, LDBR, atomics, CAS and instruction store loads (04 R98 to R105, R113). -/

namespace Sys2Proof.Machine

/-- The byte mask of size bytes from a byte of a granule. -/
def bytesAt (byte size : Nat) : BitVec 32 := BitVec.ofNat 32 ((2 ^ size - 1) * 2 ^ byte)

/-- The segment offset of an M-format access (R98). -/
def Thread.mOffset (t : Thread) (f : MForm) (scale : Nat) : Nat := (t.getX f.base).toNat + f.off.toNat * scale

/-- The precise checks of a naturally aligned access of one piece: its address (03 R74, 07 R168, R175). -/
def needPiece (seg : BitVec 3) (need : Need) (off size : Nat) : M (Seg × Nat) := do
  let g ← needSeg seg need off size
  let addr := g.addr off
  needAligned (addr % size = 0) off
  if g.kind = 2 then needOwn need.writes addr size
  return (g, addr)

/-- A scalar load (R98, R99). -/
def scalarLoad (size : Nat) (signed : Bool) (f : MForm) (s : State) : Result :=
  issue { w := f.w, long := true } noChecks (fun pc => do
    let t ← getT
    let (g, addr) ← needPiece f.seg .read (t.mOffset f size) size
    load pc [t.request (g.key addr) (bytesAt (addr % 32) size)] (.scalar f.d (addr % 32) size signed) none [destX f.d]
      (addr % 32) false) s

def execLd8 (f : MForm) (s : State) : Result := scalarLoad 1 true f s
def execLd16 (f : MForm) (s : State) : Result := scalarLoad 2 true f s
def execLd32 (f : MForm) (s : State) : Result := scalarLoad 4 true f s
def execLd64 (f : MForm) (s : State) : Result := scalarLoad 8 true f s
def execLdc8 (f : MForm) (s : State) : Result := scalarLoad 1 false f s
def execLdc16 (f : MForm) (s : State) : Result := scalarLoad 2 false f s
def execLdc32 (f : MForm) (s : State) : Result := scalarLoad 4 false f s

/-! Gated stores (03 R82, 05 R140) -/

def storeBuffer : Nat := 64

/-- A store merged into the buffer; a tag is set only by a store of a whole granule. -/
def Thread.gate (t : Thread) (key : GKey) (loc : Option Loc) (data : Vec) (mask : BitVec 32) (tag : Option (BitVec 6)) : Thread :=
  match t.gated.find? (·.key = key) with
  | some _ =>
    { t with gated := t.gated.map fun g =>
        if g.key = key then
          { g with data := blend g.data data (byteMask mask), mask := g.mask ||| mask,
                   tag := if mask = ones 32 then tag else g.tag }
        else g }
  | none =>
    { t with gated := t.gated ++ [⟨key, data &&& byteMask mask, mask, if mask = ones 32 then tag else none, loc⟩] }

/-- The granules of a list that the buffer does not hold yet. -/
def Thread.newGranules (t : Thread) (keys : List GKey) : Nat :=
  (keys.eraseDups.filter fun k => !t.gated.any (·.key = k)).length

/-- A store that would need a 65th granule takes an implicit mark before it issues (R82). -/
def roomFor (pc : BitVec 15) (keys : List GKey) : M Unit := do
  let t ← getT
  if storeBuffer < t.gated.length + t.newGranules keys then
    if !t.outst.isEmpty then stop .park
    modS fun s => (takeMark s.cur pc s).tallySlot s.cur evMarks

/-- One piece of a store, gated; a kind 1 piece sends its translation, an outstanding result (R82). -/
def gateStore (pc : BitVec 15) (g : Seg) (addr : Nat) (data : Vec) (mask : BitVec 32) (tag : Option (BitVec 6)) : M Unit := do
  let key := g.key addr
  if g.kind = 2 then
    modS fun s => s.modThread s.cur (·.gate key (some (.sram s.cur.tile (addr / 32 * 32))) data mask tag)
  else
    if 32 ≤ (← getT).outst.length then stop .parkFull
    modT (·.gate key none data mask tag)
    let cyc := (← get).cycle
    let tok ← addOutst fun tok => { tok := tok, pc := pc, fin := .probe key, lands := cyc }
    let size := if tag.isSome then 32 else ((List.range 32).filter (mask.getLsbD ·)).length
    modS (startAccess key ((List.range 32).findIdx (mask.getLsbD ·)) size 0 (.probe tok true))

/-- A scalar store (R98, R100). -/
def scalarStore (size : Nat) (f : MForm) (s : State) : Result :=
  issue { w := f.w } noChecks (fun pc => do
    let t ← getT
    let (g, addr) ← needPiece f.seg .write (t.mOffset f size) size
    roomFor pc [g.key addr]
    let data : Vec := BitVec.ofNat 256 ((t.getX f.d).toNat % 2 ^ (8 * size) * 2 ^ (8 * (addr % 32)))
    gateStore pc g addr data (bytesAt (addr % 32) size) none) s

def execSt8 (f : MForm) (s : State) : Result := scalarStore 1 f s
def execSt16 (f : MForm) (s : State) : Result := scalarStore 2 f s
def execSt32 (f : MForm) (s : State) : Result := scalarStore 4 f s
def execSt64 (f : MForm) (s : State) : Result := scalarStore 8 f s

/-- LDBR: a segment register from a buffer record of the pool (R101); seg names the target. -/
def execLdbr (w : Bool) (seg : BitVec 3) (base : Reg) (off : BitVec 10) (s : State) : Result :=
  let o := { opts32 w (.ldbr w seg base off) with long := true }
  issue o (needOk o (seg ≠ 7)) (fun pc => do
    let t ← getT
    let offset := (t.getX base).toNat + off.toNat * 32
    let g ← needSeg 7 .read offset 32
    let addr := g.addr offset
    needAligned (offset % 32 = 0 && addr % 32 = 0) offset
    if g.kind = 2 then needOwn false addr 32
    load pc [t.request (g.key addr) (ones 32)] (.segment seg) none [destSeg seg] 0 false) s

/-! Atomics and CAS (R102 to R105) -/

/-- An atomic: committing, performed by the granule's owner. -/
def atomic (op : Nat) (wide : Bool) (f : AtForm) (s : State) : Result :=
  issue { w := f.w, long := true, commits := true } noChecks (fun pc => do
    let t ← getT
    let size := if wide then 8 else 4
    let (g, addr) ← needPiece f.seg .atomic (t.getX f.a).toNat size
    let cyc := (← get).cycle
    let tok ← addOutst fun tok => { tok := tok, pc := pc, fin := .reply, lands := cyc, dests := [destX f.d] }
    modS (startAccess (g.key addr) (addr % 32) size 0 (.atomic tok op wide (t.getX f.b) (t.getX f.d) f.d))) s

def execAadd64 (f : AtForm) (s : State) : Result := atomic 0 true f s
def execAand64 (f : AtForm) (s : State) : Result := atomic 1 true f s
def execAor64 (f : AtForm) (s : State) : Result := atomic 2 true f s
def execAxor64 (f : AtForm) (s : State) : Result := atomic 3 true f s
def execAmin64 (f : AtForm) (s : State) : Result := atomic 4 true f s
def execAmax64 (f : AtForm) (s : State) : Result := atomic 5 true f s
def execAminc64 (f : AtForm) (s : State) : Result := atomic 6 true f s
def execAmaxc64 (f : AtForm) (s : State) : Result := atomic 7 true f s
def execAswp64 (f : AtForm) (s : State) : Result := atomic 8 true f s
def execAadd32 (f : AtForm) (s : State) : Result := atomic 0 false f s
def execAand32 (f : AtForm) (s : State) : Result := atomic 1 false f s
def execAor32 (f : AtForm) (s : State) : Result := atomic 2 false f s
def execAxor32 (f : AtForm) (s : State) : Result := atomic 3 false f s
def execAmin32 (f : AtForm) (s : State) : Result := atomic 4 false f s
def execAmax32 (f : AtForm) (s : State) : Result := atomic 5 false f s
def execAminc32 (f : AtForm) (s : State) : Result := atomic 6 false f s
def execAmaxc32 (f : AtForm) (s : State) : Result := atomic 7 false f s
def execAswp32 (f : AtForm) (s : State) : Result := atomic 8 false f s
def execAfadd (f : AtForm) (s : State) : Result := atomic 9 false f s
/-- CAS: x[d] is both the expected value and the destination (R104). -/
def execCas64 (f : AtForm) (s : State) : Result := atomic 0x1F true f s
def execCas32 (f : AtForm) (s : State) : Result := atomic 0x1F false f s

/-! Instruction store loads (R113) -/

/-- ISLD: x[d] granules from segment offset x[a] to instruction store byte x[b]. Where x[b] alone is misaligned, cr.info is the
instruction store offset (log 88). -/
def execIsld (f : AtForm) (s : State) : Result :=
  let o := { opts32 f.w (.isld f) with long := true, commits := true }
  issue o noChecks (fun pc => do
    let t ← getT
    let count := (t.getX f.d).toNat
    needOk o (1 ≤ count && count ≤ 1024)
    let off := (t.getX f.a).toNat
    let dst := (t.getX f.b).toNat % 32768
    let g ← needSeg f.seg .execute off (32 * count)
    let addr := g.addr off
    needAligned (off % 32 = 0 && dst % 32 = 0 && addr % 32 = 0) (if off % 32 = 0 && addr % 32 = 0 then dst else off)
    if g.kind = 2 then needOwn false addr (32 * count)
    let reqs := (List.range count).map fun i => { key := g.key (g.addr (off + 32 * i)) : Req }
    load pc reqs (.istore dst 0) none [] 0 true) s

end Sys2Proof.Machine
end

