-- ==== Sys2Proof/Machine/Items.lean ====
section
/-! DEFINITION. Work items: where they run, sending and delivering declared registers, the ends of items and of threads (06
R146 to R165). -/

namespace Sys2Proof.Machine

/-! The launch descriptor (11 R292) -/

def Launch.field (l : Launch) (lo n : Nat) : Nat := (l.desc.extractLsb' lo n).toNat
/-- N (R146). -/
def Launch.items (l : Launch) : Nat := l.field 132 40
/-- T (R147). -/
def Launch.perTile (l : Launch) : Nat := l.field 98 3 + 1
/-- P = Q × T (R147). -/
def Launch.positions (l : Launch) : Nat := l.tiles.length * l.perTile
/-- Tile and slot of a position (R147). -/
def Launch.place (l : Launch) (p : Nat) : Who := ⟨l.tiles[p % l.tiles.length]?.getD 0, p / l.tiles.length⟩

def State.launch (s : State) (n : Nat) : Launch := Tab.get {} s.launches n
def State.modLaunch (s : State) (n : Nat) (f : Launch → Launch) : State :=
  if s.launches.any (·.1 = n) then { s with launches := Tab.put s.launches n (f (s.launch n)) } else s

def Launch.part (l : Launch) (tile : Nat) : TilePart := Tab.get {} l.parts tile
def Launch.modPart (l : Launch) (tile : Nat) (f : TilePart → TilePart) : Launch :=
  { l with parts := Tab.put l.parts tile (f (l.part tile)) }

/-! Delivery times (R154) -/

/-- A cluster's row and column in the package's grid (11 R283). -/
def gridRow (c : Nat) : Nat := c / 320 / 4 * 16 + c % 320 / 20
def gridCol (c : Nat) : Nat := c / 320 % 4 * 20 + c % 20

def dist (a b : Nat) : Nat := (a - b) + (b - a)

/-- Cluster hops between two clusters. -/
def hops (a b : Nat) : Nat := dist (gridRow a) (gridRow b) + dist (gridCol a) (gridCol b)

/-- The cluster at a row and column of the package's grid (11 R283). -/
def clusterAt (row col : Nat) : Nat := (row / 16 * 4 + col / 20) * 320 + row % 16 * 20 + col % 20

/-- The next cluster on the way from one cluster to another in dimension order, columns first, and the heading there (11 R286). -/
def pathNext (a b : Nat) : Option (Nat × Nat) :=
  if gridCol a < gridCol b then some (clusterAt (gridRow a) (gridCol a + 1), 3)
  else if gridCol b < gridCol a then some (clusterAt (gridRow a) (gridCol a - 1), 0)
  else if gridRow a < gridRow b then some (clusterAt (gridRow a + 1) (gridCol a), 2)
  else if gridRow b < gridRow a then some (clusterAt (gridRow a - 1) (gridCol a), 1)
  else none

/-- A crossing that carries nothing: one that failed training at boot, or that a lane failure has taken down (15 R355). -/
def State.crossingDown (s : State) (c h : Nat) : Bool := s.pkg.down.contains (c, h) || s.pkg.severed.contains (c, h)

/-- The index of the first code of a way that a router refuses: a crossing that is down, an absent router (11 R287). -/
def pathBad (s : State) (b : Nat) : Nat → Nat → Nat → Option Nat
  | 0, _, _ => none
  | n + 1, a, i =>
    match pathNext a b with
    | none => none
    | some (c, h) =>
      if (c / 320 ≠ a / 320 && s.crossingDown a h) || s.pkg.absent.contains c then some i else pathBad s b n c (i + 1)

/-- The failing code of the string that hardware forms from one cluster to another: a heading, the switch to the escape class, a
code a hop (11 R286; log 85). -/
def pathFault (s : State) (a b : Nat) : Option Nat :=
  if s.pkg.down.isEmpty && s.pkg.severed.isEmpty && s.pkg.absent.isEmpty then none else pathBad s b 111 a 2

/-- ROUTE_INVALID as the issuing thread takes it (11 R287). -/
def routeInvalid (index : Nat) : PortFault := { code := cRouteInvalid, info := BitVec.ofNat 64 index }

/-- The cycles of a delivery on an idle mesh, and of its acknowledgement. -/
def deliveryTime (src dst : Nat) : Nat := if src = dst then 4 else 8 + 6 * hops (clusterOf src) (clusterOf dst)

/-! Sending (R153, R154) -/

/-- No current item (R146). -/
def noItem : BitVec 40 := ones 40

/-- A register sent by an item to one of its three successors; beyond N nothing is delivered. -/
def sendTo (w : Who) (t : Thread) (lid tok j : Nat) (entry : FwdEntry) (s : State) (k : Nat) : State :=
  let l := s.launch lid
  let item := t.item.toNat + k
  if l.items ≤ item then s
  else
    let (id, s) := s.fresh
    let target := l.place (item % l.positions)
    let d : Delivery :=
      { id := id, who := w, thread := t.serial, tok := tok, launch := lid, key := ⟨item, j, k⟩, target := target, entry := entry }
    { s with deliveries := s.deliveries ++ [d] }.schedule (s.cycle + deliveryTime w.tile target.tile) phaseLand
      (.forwardingDelivery id)

/-- The declared registers of a list, each sent to three successors as a value or as poison. -/
def sendRegisters (w : Who) (t : Thread) (lid tok : Nat) (poison : Bool) (s : State) (js : List Nat) : State :=
  js.foldl (fun s j =>
    let entry : FwdEntry := if poison then .poison else .value (sealed (t.getV (t.fregs[j]?.getD 0)) 0) none
    [1, 2, 3].foldl (sendTo w t lid tok j entry) s) s

/-- The declared registers that the current item has not sent, of those a mask names. -/
def Thread.unsent (t : Thread) (mask : BitVec 8) : List Nat :=
  (List.range t.fregs.length).filter fun j => mask.getLsbD j && !t.sent.getLsbD j

/-- The deliveries of a thread's that were under way when it was spilled belong to the instruction that it executes again (R164; log
83). -/
def takeOver (w : Who) (serial tok : Nat) (s : State) : State :=
  { s with deliveries := s.deliveries.map fun d => if d.who = w && d.thread = serial then { d with tok := tok } else d }

/-- The sends of an item under a result that lands when every delivery is accepted; without one it lands a cycle later. -/
def sendAndWait (w : Who) (pc : BitVec 15) (mask : BitVec 8) (poison : Bool) (fin : Finish) (s : State) : State :=
  match s.thread w with
  | none => s
  | some t =>
    let (tok, s) := s.fresh
    let js := if t.item = noItem then [] else t.unsent mask
    let o : Outst := { tok := tok, pc := pc, fin := fin, lands := s.cycle + 1 }
    let s := (takeOver w t.serial tok s).setThread w { t with outst := t.outst ++ [o], sent := t.sent ||| (if js = [] then 0 else mask) }
    let s := match t.run with
      | some r => sendRegisters w t r.launch tok poison s js
      | none => s
    if s.deliveries.any (·.tok = tok) then s else landAt w tok 1 s

/-! Delivery -/

/-- The thread of a slot that runs items: its own, or the spilled one (R164). -/
def Slot.runner (sl : Slot) : Option Thread :=
  match sl.victim with
  | some v => some v.thread
  | none => sl.thread

/-- The current item of a slot in a launch. -/
def State.currentItem (s : State) (w : Who) (lid : Nat) : Option Nat :=
  match (s.slot w).runner with
  | some t =>
    match t.run with
    | some r => if r.launch = lid && t.item ≠ noItem then some t.item.toNat else none
    | none => none
  | none => none

/-- The bank of a delivery at its target, as the target stands: none when the item has ended (R154). -/
def Delivery.bank (d : Delivery) (s : State) : Option Nat :=
  match s.currentItem d.target d.launch with
  | some c => if d.key.item < c then none else some ((d.key.item - c) / (s.launch d.launch).positions)
  | none => none

/-- A delivery accepted: with the last of its result, the sender's instruction lands when the acknowledgement is back. -/
def acceptDelivery (d : Delivery) (s : State) : State :=
  let back := s.cycle + deliveryTime d.target.tile d.who.tile
  let s := { s with deliveries := s.deliveries.filter (·.id ≠ d.id) }
  match (s.thread d.who).filter (·.serial = d.thread) with
  | none => s
  | some t =>
    let outst := t.outst.map fun o => if o.tok = d.tok then { o with lands := max o.lands back } else o
    let s := s.setThread d.who { t with outst := outst }
    if s.deliveries.any (·.tok = d.tok) then s
    else
      match outst.find? (·.tok = d.tok) with
      | some o => s.schedule o.lands phaseLand (.longResultLands d.who d.tok)
      | none => s

/-- A store or atomic that the sender issued before the sending instruction has not performed (R162). -/
def Delivery.early (d : Delivery) (s : State) : Bool :=
  s.accs.any fun a => a.who = d.who && a.thread = d.thread && a.stores && a.id < d.tok

/-- A delivery marked as waiting at its sender, or as on its way again. -/
def holdDelivery (id : Nat) (waits : Bool) (s : State) : State :=
  { s with deliveries := s.deliveries.map fun e => if e.id = id then { e with waiting := waits } else e }

/-- FORWARDING_DELIVERY (R154). -/
def execForwardingDelivery (id : Nat) (s : State) : Result :=
  match s.deliveries.find? (·.id = id) with
  | none => .next s
  | some d =>
    if d.early s then .next (s.schedule (s.cycle + 1) phaseLand (.forwardingDelivery id))
    else
      match pathFault s (clusterOf d.who.tile) (clusterOf d.target.tile) with
      | some i =>
        .next (failResult d.who d.thread d.tok (routeInvalid i) { s with deliveries := s.deliveries.filter (·.id ≠ id) })
      | none =>
      match d.bank s with
      | none => .next (acceptDelivery d s)
      | some b =>
        if 3 < b then
          .next (holdDelivery id true s)
        else .next (acceptDelivery d (s.modSlot d.target (·.fwdPut d.key d.entry)))

/-- ITEM_ADVANCE_REPORT: deliveries that waited for a slot and now find their bank leave again (R154). -/
def execItemAdvanceReport (who : Who) (s : State) : Result :=
  .next (s.deliveries.foldl (fun s d =>
    if d.waiting && d.target = who && (d.bank s).getD 0 ≤ 3 then
      (holdDelivery d.id false s).schedule
        (s.cycle + deliveryTime d.who.tile who.tile) phaseLand (.forwardingDelivery d.id)
    else s) s)

/-! The ends of items and threads -/

/-- An item of the present run ends: counted if it completed, the buffer advanced, the next item taken (R152, R158). -/
def advanceItem (w : Who) (completed : Bool) (s : State) : State :=
  match s.thread w with
  | none => s
  | some t =>
    match t.run with
    | none => s
    | some r =>
      let l := s.launch r.launch
      let c := t.item.toNat
      let next : BitVec 40 := if c + l.positions < l.items then BitVec.ofNat 40 (c + l.positions) else noItem
      let s := if completed then s.modLaunch r.launch (·.modPart w.tile fun p => { p with items := p.items + 1 }) else s
      let s := s.modSlot w fun sl =>
        { sl with thread := some { t with item := next, sent := 0 }, fwd := sl.fwd.filter fun p => c < p.1.item }
      if s.deliveries.any fun d => d.waiting && d.target = w then s.scheduleFree phaseLand (.itemAdvanceReport w) else s

/-- A range-lock entry of a stream released (07 R174). -/
def Tile.unlockStream (t : Tile) (j : Nat) : Tile :=
  { t with locks := t.locks.filter fun l => !(l.2.owner = 2 && l.2.ident.toNat = j) }

/-- A stream freed: a write stream that still drains is unbound when it has (07 R186). -/
def Tile.freeStream (t : Tile) (j : Nat) : Tile :=
  match t.stream j with
  | none => t
  | some st =>
    if st.write && !st.drain.isEmpty then t.setStream j (some { st with freeing := true })
    else (t.setStream j none).unlockStream j

/-- The streams that a thread of a slot holds. -/
def Tile.streamsOf (t : Tile) (slot serial : Nat) : List Nat :=
  (List.range 16).filter fun j =>
    match t.stream j with
    | some st => st.owner = slot && st.thread = serial
    | none => false

/-- A thread ends: its slot becomes empty, its streams are freed, its fault class is reported, a victim returns (R159, 07
R186, R190, 11 R297). -/
def threadEnd (w : Who) (s : State) : State :=
  match s.thread w with
  | none => s
  | some t =>
    let s := match t.launch with
      | some l => s.modLaunch l (·.modPart w.tile fun p => { p with cls := max p.cls t.faultClass })
      | none => s
    let s := s.modDie (tileDie w.tile) fun d =>
      { d with replay := d.replay.map fun r => if r.holds w.tile then { r with ended := r.ended ^^^ t.hash } else r }
    let s := s.modTile w.tile fun tile => (tile.streamsOf w.slot t.serial).foldl Tile.freeStream tile
    let s := s.modSlot w fun sl => { sl with thread := none, fwd := if t.run.isSome then [] else sl.fwd }
    let s := if (s.slot w).victim.isSome then s.schedule (s.cycle + 1) phaseAccess (.victimRestore w) else s
    match t.run with
    | some r => s.schedule (s.cycle + 1) phaseAccess (.done r.launch w.tile)
    | none => s

/-- The fault class that a thread reports, raised (R160, R161, 11 R297). -/
def Thread.raiseClass (t : Thread) (c : Nat) : Thread := { t with faultClass := max t.faultClass c }

/-- ITEM's result: the item ended, the next one or the branch (R158). -/
def landItem (w : Who) (d : Reg) (dest : BitVec 15) (s : State) : State :=
  match s.thread w with
  | none => s
  | some t =>
    let s := if t.item = noItem then s else advanceItem w true s
    s.modThread w fun t =>
      if t.item = noItem then { t.setX d (ones 64) with pc := dest } else t.setX d (t.item.setWidth 64)

/-- XIT's result: the item ended or killed, then the next item at the kernel's entry, or the thread's end (R159). -/
def landXit (w : Who) (kill : Bool) (s : State) : State :=
  match s.thread w with
  | none => s
  | some t =>
    if t.item = noItem then threadEnd w s
    else
      let s := advanceItem w (!kill) (s.setThread w (if kill then t.raiseClass 2 else t))
      match s.thread w with
      | some t => if t.item = noItem then threadEnd w s else s.setThread w { t with pc := t.entry }
      | none => s

/-- THREAD_FATAL: once it is dumped (14 R351), the current item is killed, then each remaining one, then the thread ends (R161). -/
def execThreadFatal (who : Who) (s : State) : Result :=
  match s.thread who with
  | none => .next s
  | some t =>
    if t.fatal.isNone || !t.outst.isEmpty || (s.die (who.tile / 5120)).dumps.any (fun r => r.kind = 0 && r.who = who) then .next s
    else if t.item = noItem then .next (threadEnd who s)
    else .next (sendAndWait who t.pc (ones 8) true .killed (s.setThread who { t.raiseClass 2 with gated := [], wait := none }))

/-! The item instructions (R157 to R159) -/

/-- ITEM. -/
def execItem (w : Bool) (d : Reg) (off : BitVec 13) (s : State) : Result :=
  issue { w := w, commits := true } noChecks (fun pc =>
    modS fun s => sendAndWait s.cur pc (ones 8) false (.item d (pc + BitVec.ofInt 15 (4 * off.toInt))) s) s

/-- XIT. -/
def execXit (w : Bool) (kill : Bool) (s : State) : Result :=
  issue { w := w, commits := true } noChecks (fun pc =>
    modS fun s => sendAndWait s.cur pc (ones 8) kill (.xit kill) s) s

/-- FWD: a thread without an item, an empty mask and a register that is not declared are ILLEGAL_OPERAND. -/
def execFwd (w : Bool) (mask : BitVec 8) (s : State) : Result :=
  let o := { opts32 w (.fwd w mask) with commits := true }
  issue o
    (do
      let t ← getT
      needOk o (mask ≠ 0 && t.item ≠ noItem && mask.toNat < 2 ^ t.fregs.length))
    (fun pc => modS fun s => sendAndWait s.cur pc mask false (.ready []) s) s

end Sys2Proof.Machine
end

