-- ==== Sys2Proof/Machine/Landing.lean ====
section
/-! DEFINITION. The landing of results, accesses at a tile's bank port, atomics at their owner, trap entry and interrupts
(03 R76 to R83, 04 R105, 07 R170, R171). -/

namespace Sys2Proof.Machine

/-- An earlier outstanding write of one of the same registers has not landed (03 R78). -/
def blockedBy (outst : List Outst) (o : Outst) : Bool :=
  (outst.takeWhile (·.tok ≠ o.tok)).any fun e => e.dests.any fun d => o.dests.contains d

/-- A push onto a queue. -/
def Outst.pushes (o : Outst) : Option Nat :=
  match o.fin with
  | .ready (.push j _ :: _) => some j
  | _ => none

/-- A push due on a cycle on which its bank is taken, or the bank port holds what came before (07 R170, R171). -/
def pushTaken (s : State) (w : Who) (o : Outst) : Bool :=
  match o.pushes with
  | some j =>
    let q := (s.tile w.tile).queue j
    s.portTaken w.tile (q.offset q.tail)
  | none => false

/-- A result changed. -/
def modOutst (w : Who) (tok : Nat) (f : Outst → Outst) (s : State) : State :=
  s.modThread w fun t => { t with outst := t.outst.map fun o => if o.tok = tok then f o else o }

/-- The pops that wait for their banks: those that are free now are read, and with the last the result's latency begins (07 R170). -/
def popsRead (w : Who) (o : Outst) (s : State) : State :=
  let rest := o.bank.filter (s.bankTaken w.tile)
  let s' := modOutst w o.tok (fun o => { o with bank := rest }) s
  if rest.isEmpty then
    s'.schedule (s.cycle + o.after) (if o.pushes.isSome then phaseAccess else phaseLand) (.longResultLands w o.tok)
  else s'.schedule (s.cycle + 1) phaseHeld (.longResultLands w o.tok)

/-- The next granule of an instruction store load written, and its result landing a cycle on (04 R113); a fetch meanwhile finds the old
word of a granule not yet written, and the new one of a granule written (log 88). -/
def writeCode (w : Who) (o : Outst) (dst done : Nat) (r : Req) (s : State) : State :=
  let s := s.modTile w.tile fun t => { t with istore := storeCode t.istore (dst + 32 * done) r.bytes 32 }
  (modOutst w o.tok (fun o => { o with fin := .istore dst (done + 1) }) s).schedule (s.cycle + 1) phaseLand (.longResultLands w o.tok)

/-- The effect of a result that lands. -/
def landResult (w : Who) (o : Outst) (s : State) : State :=
  match o.fin with
  | .item d dest => landItem w d dest s
  | .xit kill => landXit w kill s
  | .killed => (advanceItem w false s).schedule s.cycle phaseLand (.threadFatal w)
  | _ => applyWrites w s o.writes

/-! Spilling (07 R189, R190) -/

/-- The two words of a segment register (03 R73). -/
def Seg.low (g : Seg) : Word := g.base.setWidth 64
def Seg.high (g : Seg) : Word := g.kind ++ g.rights ++ 0#7 ++ g.limit

/-- The doublewords of a save area below 0x300. -/
def saveWords (t : Thread) (f : Option Trap) : List Word :=
  let seg (g : Seg) : List Word := [g.low, g.high]
  let pair (lo hi : BitVec 32) : Word := hi ++ lo
  let k (i : Nat) : BitVec 32 := t.getK (BitVec.ofNat 3 i)
  let gen (i : Nat) : BitVec 32 := t.gen[i]?.getD 0
  let status : Word := (bit t.status.spt ++ bit t.status.inh ++ bit t.status.pie ++ bit t.status.ie ++ t.status.pmode ++ t.status.mode
    : BitVec 8).setWidth 64
  let fault : List Word := match f with
    | some tr => [(tr.sub ++ tr.code).setWidth 64, tr.info, tr.epc.setWidth 64, tr.fpc.setWidth 64, 1]
    | none => [0, 0, 0, 0, 0]
  t.mpc.setWidth 64 :: (List.range 31).map (fun i => t.getX (BitVec.ofNat 5 (i + 1))) ++
    (List.range 4).map (fun i => pair (k (2 * i)) (k (2 * i + 1))) ++ t.seg.toList.flatMap seg ++
    [status, t.cause.setWidth 64, t.info, t.epc, t.fpc, t.tvec, t.ftvec, t.ienable.setWidth 64, t.ipend.setWidth 64, t.scratch,
      t.fflags.setWidth 64, t.fmode.setWidth 64, t.srseed.setWidth 64, t.timecmp] ++
    [if t.item = ones 40 then ones 64 else t.item.setWidth 64] ++ (List.range 4).map (fun i => pair (gen (2 * i)) (gen (2 * i + 1))) ++
    t.shape.toList.flatMap (fun e => [pair (e[0]?.getD 0) (e[1]?.getD 0), pair (e[2]?.getD 0) (e[3]?.getD 0)]) ++
    fault ++ [0, 0, 0, 0]

/-- Four words a granule. -/
def granulesOfWords : List Word → List Vec
  | a :: b :: c :: d :: rest => (d ++ c ++ b ++ a) :: granulesOfWords rest
  | _ => []

/-- The granules of a save area. -/
def saveGranules (t : Thread) (f : Option Trap) : List Vec :=
  granulesOfWords (saveWords t f) ++ (List.range t.window).map t.getV

/-- The child of a SPAWN starts in its slot, which it may use from a cycle on (R188). -/
def startChild (w : Who) (child : Thread) (from_ : Nat) (s : State) : State :=
  let (n, s) := s.fresh
  let child := { child with serial := n, resumeAt := from_, hash := BitVec.ofNat 64 (w.tile * 8 + w.slot) }
  s.modSlot w fun sl => { sl with thread := some { child with shadow := child.snapshot [] } }

/-- A granule written by the spill engine; one that leaves for another package changes nothing here. -/
def spillWrite (s : State) (p : Loc × Vec) : State := if p.1.far then s else afterWrite p.1 0 (s.setGranule p.1 (sealed p.2 0))

/-- The spill engine cannot reach a granule on this cycle: its bank is taken, or its stack is shut (07 R170, 13 R334). -/
def spillWaits (s : State) (l : Loc) : Bool :=
  match l with
  | .sram tile off => s.portTaken tile off
  | l => s.hbmShut l

/-- A result of the item instructions that waits for its deliveries, one of which waits for its target's bank (06 R154): a spilled
thread keeps waiting so, and re-executes the instruction when it resumes (06 R164; log 83). -/
def sendWaits (s : State) (o : Outst) : Bool := s.deliveries.any fun d => d.tok = o.tok && d.waiting

/-- A spawn.evict goes on: the victim drains; then a fault that it has collected is recorded, or its mark is taken; its save
area is written, a granule a cycle; the child starts, and the SPAWN lands (R189). -/
def evictStep (who : Who) (o : Outst) (slot : Nat) (d : Reg) (s : State) : State :=
  let vw : Who := ⟨who.tile, slot⟩
  let again (n : Nat) (s : State) : State := s.schedule (s.cycle + n) phaseLand (.longResultLands who o.tok)
  let finish (e : Evict) (s : State) : State :=
    let s := s.modSlot vw fun sl => { sl with evict := none }
    applyWrites who (dropOutst who o.tok (startChild vw e.child (s.cycle + 1) s)) [.x d 0]
  match (s.slot vw).evict with
  | none => dropOutst who o.tok s
  | some e =>
    if e.started then
      match e.left with
      | [] => settle who (finish e s)
      | p :: rest =>
        if spillWaits s p.1 then again 1 s
        else
          again (if rest.isEmpty then 6 + e.vectors else 1)
            ((spillWrite s p).modSlot vw fun sl => { sl with evict := some { e with left := rest } })
    else
      match s.thread vw with
      | none => again (6 + e.vectors) (s.modSlot vw fun sl => { sl with evict := some { e with started := true } })
      | some t =>
        if !t.outst.all (sendWaits s) || t.fatal.isSome || (t.entering.isSome && t.faults.isEmpty) then again 1 s
        else
          let t := match t.outst with
            | o :: _ => { t with outst := [], pc := o.pc }
            | [] => t
          let s := s.setThread vw t
          let fault := (earliest t.faults).map (·.2)
          let s := if fault.isSome then restoreStreams vw t.shadow.spos s else takeMark vw t.pc s
          let t := (s.thread vw).getD t
          let t := if fault.isSome then t.rolledBack else t
          let t := { t with wait := none, entering := none, faults := [], committing := false }
          let fault := fault.map fun f => { f with epc := t.mpc, rollback := false }
          let v : Victim := { thread := { t with ipend := 0 }, save := e.save, since := s.cycle, fault := fault }
          again 1 (s.modSlot vw fun sl =>
            { sl with thread := none, victim := some v, evict := some { e with started := true, left := e.save.zip (saveGranules t fault) } })

/-- A result of a load (14 R343). -/
def Finish.isLoad : Finish → Bool
  | .scalar .. => true | .vector .. => true | .gather .. => true | .unpack .. => true | .segment _ => true | .istore _ _ => true
  | _ => false

/-- The granule that an instruction store load is to write next. -/
def nextCode (o : Outst) : Option (Nat × Nat × Req) :=
  match o.fin with
  | .istore dst done => (o.reqs[done]?).map fun r => (dst, done, r)
  | _ => none

/-- LONG_RESULT_LANDS (03 R78). -/
def execLongResultLands (who : Who) (tok : Nat) (s : State) : Result :=
  match s.thread who with
  | none => .next s
  | some t =>
    match t.outst.find? (·.tok = tok) with
    | none => .next s
    | some o =>
      match o.fin with
      | .evict slot d => .next (evictStep who o slot d s)
      | _ =>
      if !o.bank.isEmpty then .next (popsRead who o s)
      else if s.cycle < o.lands then .next (s.schedule o.lands phaseLand (.longResultLands who tok))
      else if blockedBy t.outst o then .next (s.schedule (s.cycle + 1) phaseLand (.longResultLands who tok))
      else if pushTaken s who o then .next (s.schedule (s.cycle + 1) phaseHeld (.longResultLands who tok))
      else
      match nextCode o with
      | some (dst, done, r) => .next (writeCode who o dst done r s)
      | none =>
        let s := if o.fin.isLoad then s.tallySlot who evLoads else s
        .next (settle who (landResult who o (dropOutst who tok s)))

/-- TRAP_ENTRY (03 R83). A victim's fault is recorded by its eviction instead (07 R189). -/
def execTrapEntry (who : Who) (s : State) : Result :=
  match s.thread who with
  | some t => .next (if t.outst.isEmpty && !((s.slot who).evict.isSome && !t.faults.isEmpty) then trapEnter who s else s)
  | none => .next s

/-- An asynchronous trap begins at the thread's instruction boundary (03 R84). -/
def raiseAsync (w : Who) (code : BitVec 8) (info : Word) (s : State) : State :=
  match s.thread w with
  | some t => raise w { code := code, info := info, epc := t.pc, fpc := t.pc, async := true } (s.setThread w { t with wait := none })
  | none => s

/-- An asynchronous trap raised after an instruction's effect: with cr.status.inh = 1 it makes the thread fatal, with another entry
begun it is not the one that is taken, and otherwise it waits for the instruction boundary (03 R82, R83, R84). -/
def raiseAfter (w : Who) (tr : Trap) (s : State) : State :=
  match s.thread w with
  | none => s
  | some t =>
    if t.entering.isSome || t.fatal.isSome then s
    else if t.status.inh then raise w { tr with async := true } s
    else s.setThread w { t with asyncs := t.asyncs ++ [tr] }

/-- An enabled interrupt is pending and may be taken (03 R76). -/
def Thread.interruptible (t : Thread) : Bool :=
  t.status.ie && !t.status.inh && t.ipend &&& t.ienable ≠ 0 && t.entering.isNone && t.fatal.isNone && t.halted.isNone

/-- The lowest pending enabled input. -/
def Thread.input (t : Thread) : Nat := trailing8 (t.ipend &&& t.ienable).toNat 8
where
  trailing8 (a : Nat) : Nat → Nat
    | 0 => 0
    | n + 1 => if a % 2 = 1 then 0 else 1 + trailing8 (a / 2) n

/-- INTERRUPT (03 R76). -/
def execInterrupt (who : Who) (s : State) : Result :=
  match s.thread who with
  | some t => .next (if t.interruptible then raiseAsync who cInterrupt (BitVec.ofNat 64 t.input) s else s)
  | none => .next s

/-- TIMER_INTERRUPT: the timer input is a level (03 R75). -/
def execTimerInterrupt (who : Who) (s : State) : Result :=
  match s.thread who with
  | some t => .next (if t.timecmp.toNat ≤ s.cycle then setInput who 1 s else s)
  | none => .next s

/-- An access of a thread to its own SRAM through a kind 2 segment reaches the bank port, once the earlier accesses of the thread to
this SRAM have; there it is held while the timed plane takes the bank or an access that came before it is held (07 R170, R171, 12
R305). -/
def execBankAccess (id : Nat) (s : State) : Result :=
  match s.access id with
  | none => .next s
  | some a =>
    if a.held.isNone && earlierOwn s a then .next (s.schedule (s.cycle + 1) phaseAccess (.bankAccess id))
    else if s.portHolds a a.who.tile a.key.addr then .next (holdAtPort a a.who.tile (.bankAccess id) s)
    else
      let s := s.putAccess { a with held := none }
      match a.kind with
      | .atomic .. => .next (s.schedule s.cycle phaseAccess (.atomicAtOwner id))
      | _ => .next (deliverRead a (s.granule (.sram a.who.tile a.key.addr)) (some 7) s)

/-- ATOMIC_AT_OWNER (04 R105): at the own tile the result lands 12 cycles after issue. -/
def execAtomicAtOwner (id : Nat) (s : State) : Result :=
  match s.access id with
  | none => .next s
  | some a =>
    match a.kind with
    | .atomic tok op wide operand expected d =>
      match a.key with
      | .own off => .next (performAtomic a (.sram a.who.tile off) tok op wide operand expected d (some 11) s)
      | .virt _ =>
        match a.loc with
        | some loc => .next (performAtomic a loc tok op wide operand expected d none s)
        | none => .next s
    | _ => .next s

end Sys2Proof.Machine
end

