-- ==== Sys2Proof/Machine/System.lean ====
section
/-! DEFINITION. Fences and drains, control registers, handlers, WFI and SEGW (04 R106 to R112). -/

namespace Sys2Proof.Machine

/-! FENCE and DRAIN -/

/-- The group table of the map: the ranks by group index as the group was formed; a package alone is a group of one (11 R288, 16
R377). -/
def Pkg.groupTable (p : Pkg) : BitVec 1024 := if p.gsize ≤ 1 then ones 1008 ++ BitVec.ofNat 16 p.rank else p.gformed

/-- A rank is a member of this package's aligned group (16 R377). -/
def Pkg.inGroup (p : Pkg) (rank : Nat) : Bool :=
  (List.range p.gsize).any fun i => (p.groupTable.extractLsb' (16 * i) 16).toNat = rank

/-- A store or atomic of the thread whose owner lies within a scope has not performed (12 R302). Where the owner is not
known yet, the access may lie anywhere. -/
def pendingWithin (s : State) (w : Who) (serial scope : Nat) : Bool :=
  s.accs.any fun a => a.who = w && a.thread = serial && a.stores &&
    match a.loc with
    | some (.remote r _) => 6 ≤ scope || (scope = 5 && s.pkg.inGroup r)
    | some l => withinScope scope w.tile l
    | none =>
      match a.key with
      | .own o => withinScope scope w.tile (.sram w.tile o)
      | .virt _ => 1 ≤ scope

/-- The thread parks until its earlier stores and atomics have performed within a scope. -/
def waitPerformed (scope : Nat) : M Unit := do
  let s ← get
  let t ← getT
  if pendingWithin s s.cur t.serial scope then stop .park

/-- What an acquire at a scope empties (12 R302): the tile's threaded read cache, whose invalidation takes 4 cycles, and
from package scope the cluster's translation cache. -/
def acquire (scope : Nat) (w : Who) (s : State) : State :=
  let s := if 2 ≤ scope then
      (s.modTile w.tile fun t => { t with cache := Vector.replicate 256 [] }).modThread w
        fun t => { t with resumeAt := s.cycle + 4 }
    else s
  if 4 ≤ scope then s.modCluster (clusterOf w.tile) fun c => { c with cache := [] } else s

/-- FENCE: kind 1 acquire, 2 release, 3 full (R106). -/
def execFence (w : Bool) (kind : BitVec 2) (scope : BitVec 3) (s : State) : Result :=
  issue { w := w, commits := true } noChecks (fun _ => do
    if kind.getLsbD 1 then waitPerformed scope.toNat
    if kind.getLsbD 0 then modS fun s => acquire scope.toNat s.cur s) s

/-- DRAIN (R107). -/
def execDrain (w : Bool) (scope : BitVec 3) (s : State) : Result :=
  issue { w := w, commits := true } noChecks (fun _ => waitPerformed scope.toNat) s

/-! Control registers (03 R70 to R72, 04 R108) -/

/-- The lowest mode that may read a register, and the lowest that may write it. -/
def crModes (r : Nat) : Option (Nat × Option Nat) :=
  match r with
  | 0x000 => some (0, some 1)
  | 0x001 => some (1, some 1) | 0x002 => some (1, some 1) | 0x003 => some (1, some 1) | 0x004 => some (1, some 1)
  | 0x005 => some (1, some 1) | 0x006 => some (3, some 3) | 0x007 => some (1, some 1) | 0x008 => some (1, some 1)
  | 0x009 => some (1, some 1)
  | 0x010 => some (0, some 0) | 0x011 => some (0, some 0) | 0x012 => some (0, some 0)
  | 0x020 => some (0, none) | 0x021 => some (0, none) | 0x022 => some (0, none) | 0x023 => some (0, none)
  | 0x024 => some (0, none) | 0x025 => some (1, some 1) | 0x026 => some (0, none) | 0x027 => some (0, none)
  | _ => none

/-- The bits of cr.status (R71). -/
def Status.word (st : Status) : Word :=
  (bit st.spt ++ bit st.inh ++ bit st.pie ++ bit st.ie ++ st.pmode ++ st.mode : BitVec 8).setWidth 64

/-- cr.status written: mode is read-only, bits 63 to 8 are reserved. -/
def Status.write (st : Status) (v : Word) : Status :=
  { st with spt := v.getLsbD 7, inh := v.getLsbD 6, pie := v.getLsbD 5, ie := v.getLsbD 4, pmode := v.extractLsb' 2 2 }

/-- A control register's value (R70). -/
def crRead (s : State) (w : Who) (t : Thread) (r : Nat) : Word :=
  match r with
  | 0x000 => t.status.word
  | 0x001 => t.cause.setWidth 64
  | 0x002 => t.info
  | 0x003 => t.epc
  | 0x004 => t.fpc
  | 0x005 => t.tvec
  | 0x006 => t.ftvec
  | 0x007 => t.ienable.setWidth 64
  | 0x008 => t.ipend.setWidth 64
  | 0x009 => t.scratch
  | 0x010 => t.fflags.setWidth 64
  | 0x011 => t.fmode.setWidth 64
  | 0x012 => t.srseed.setWidth 64
  | 0x020 => t.item.setWidth 64
  | 0x021 => BitVec.ofNat 64 w.slot
  | 0x022 => BitVec.ofNat 64 w.tile
  | 0x023 => BitVec.ofNat 64 t.outst.length
  | 0x024 => BitVec.ofNat 64 s.cycle
  | 0x025 => t.timecmp
  | 0x026 => 0#17 ++ BitVec.ofNat 7 t.gated.length ++ 0#2 ++ BitVec.ofNat 6 t.vwritten ++ 0#17 ++ t.mpc
  | 0x027 => t.ttab.setWidth 64
  | _ => 0

/-- A word whose two low bits read as zero. -/
def aligned4 (v : Word) : Word := v.extractLsb' 2 62 ++ 0#2

/-- A control register written (R70 to R72, R75, R108). -/
def Thread.crWrite (t : Thread) (r : Nat) (v : Word) : Thread :=
  match r with
  | 0x000 => { t with status := t.status.write v }
  | 0x001 => { t with cause := v.setWidth 12 }
  | 0x002 => { t with info := v }
  | 0x003 => { t with epc := aligned4 v }
  | 0x004 => { t with fpc := v }
  | 0x005 => { t with tvec := aligned4 v }
  | 0x006 => { t with ftvec := v }
  | 0x007 => { t with ienable := v.setWidth 8 }
  | 0x008 => { t with ipend := v.setWidth 8 }
  | 0x009 => { t with scratch := v }
  | 0x010 => { t with fflags := v.setWidth 7 }
  | 0x011 => { t with fmode := if 6 ≤ v.toNat % 8 then 0 else v.setWidth 3 }
  | 0x012 => { t with srseed := v.setWidth 32, gen := seedGens (v.setWidth 32) }
  | 0x025 => { t with timecmp := v }
  | _ => t

/-- The checks of CRR (02 R51). -/
def crrCheck (o : Opts) (r : Nat) : M Unit :=
  match crModes r with
  | none => needOk o false
  | some (rd, _) => needMode o rd

/-- CRR (R108). -/
def execCrr (w : Bool) (d : Reg) (r : BitVec 12) (s : State) : Result :=
  let o := opts32 w (.crr w d r)
  issue o (crrCheck o r.toNat) (fun _ => do
    let s ← get
    modT fun t => t.setX d (crRead s s.cur t r.toNat)) s

/-- The checks of CRW before its waits: a register with no write access is PRIVILEGE in any mode. -/
def crwCheck (o : Opts) (r : Nat) : M Unit := do
  match crModes r with
  | none => needOk o false
  | some (_, none) => trapNow cPrivilege o.value
  | some (_, some wr) => needMode o wr

/-- The value that a CRW would give cr.status.pmode, checked (R71). -/
def pmodeCheck (o : Opts) (v : Word) : M Unit := do
  let pm := v.extractLsb' 2 2
  needOk o (pm ≠ 2)
  if pm = 3 && (← getT).status.mode ≠ 3 then trapNow cPrivilege o.value

/-- The registers whose CRW is not committing (03 R82). -/
def crwCommits (r : Nat) : Bool := r ≠ 0x008 && r ≠ 0x010 && r ≠ 0x011 && r ≠ 0x012

/-- CRW (R108). -/
def execCrw (w : Bool) (a : Reg) (r : BitVec 12) (s : State) : Result :=
  let o := { opts32 w (.crw w a r) with commits := crwCommits r.toNat }
  issue o (crwCheck o r.toNat) (fun _ => do
    let v ← getX a
    if r.toNat = 0x000 then pmodeCheck o v
    modT (·.crWrite r.toNat v)) s

/-! Handlers -/

/-- The causes whose return leaves no mark on the launch's status (11 R297). -/
def quietCause (code : BitVec 8) : Bool := code = cTrap || code = cInterrupt || code = cSpilled || code = cDebugStop

/-- What TRET does to the thread once its mark is taken (03 R85). -/
def Thread.returned (t : Thread) : Thread :=
  { t with
    status := t.status.leave, pc := toPc t.epc
    faultClass := match t.taken with
      | some tr => if quietCause tr.code then t.faultClass else max t.faultClass 1
      | none => t.faultClass }

/-- TRET (R109). -/
def execTret (w : Bool) (s : State) : Result :=
  let o := opts32 w (.tret w)
  issue o (needMode o 1) (fun _ => do
    let t ← getT
    if !t.outst.isEmpty then stop .park
    modS fun s => takeMark s.cur (toPc t.epc) s
    modT Thread.returned) s

/-- TRAP: cr.epc is the next instruction (R110). -/
def execTrap (w : Bool) (imm : BitVec 13) (s : State) : Result :=
  issue { w := w } noChecks (fun _ => stop (.trap cTrap 0 (imm.signExtend 64) true)) s

/-- WFI: the thread waits until an enabled interrupt is pending (R111). -/
def execWfi (w : Bool) (s : State) : Result :=
  issue { w := w } noChecks (fun _ => modT fun t =>
    if t.ipend &&& t.ienable ≠ 0 then t else { t with wait := some .wfi }) s

/-! SEGW (R112) -/

/-- A segment value from its two words (03 R73). -/
def segOf (lo hi : Word) : Seg :=
  { kind := hi.extractLsb' 60 4, rights := hi.extractLsb' 55 5, limit := hi.extractLsb' 0 48, base := lo.extractLsb' 0 56 }

/-- The values that R73 accepts. -/
def segOk (lo hi : Word) : Bool :=
  let g := segOf lo hi
  g.kind.toNat ≤ 2 && hi.extractLsb' 48 7 = 0 && lo.extractLsb' 56 8 = 0 &&
    (g.kind ≠ 2 || g.base.toNat + g.limit.toNat ≤ 393215)

/-- SEGW. -/
def execSegw (w : Bool) (a b : Reg) (seg : BitVec 3) (s : State) : Result :=
  let o := { opts32 w (.segw w a b seg) with commits := true }
  issue o (needMode o 1) (fun _ => do
    let t ← getT
    needOk o (segOk (t.getX a) (t.getX b))
    modT (·.setSeg seg (segOf (t.getX a) (t.getX b)))) s

end Sys2Proof.Machine
end

