-- ==== Sys2Proof/Machine/Views.lean ====
section
/-! DEFINITION. What a read finds at a place that holds no bytes of its own, the package page and the watchdogs (15 R359, 14
R354), and helpers of the meanings that read tile SRAM themselves. -/

namespace Sys2Proof.Machine

/-! The package page (15 R359) -/

/-- The clock register of the page. -/
def Pkg.clockWord (p : Pkg) : Word := 0#54 ++ bit p.thermal ++ bit p.capped ++ 0#2 ++ BitVec.ofNat 6 p.m

/-- The doubleword at an offset of the page. -/
def Pkg.pageWord (p : Pkg) (off : Nat) : Word :=
  if off = 0x000 then p.ready
  else if off = 0x008 then p.failed
  else if off = 0x010 then p.clockWord
  else if off = 0x018 then p.secver
  else if 0x100 ≤ off && off < 0x140 then p.job.extractLsb' (8 * (off - 0x100)) 64
  else if off = 0x300 then p.command &&& ~~~0xFFFF0000#64
  else if off = 0x308 then p.cmdStatus
  else if 0x320 ≤ off && off < 0x3A0 then p.gtable.extractLsb' (8 * (off - 0x320)) 64
  else if 0x400 ≤ off && off < 0x420 then p.nonce.extractLsb' (8 * (off - 0x400)) 64
  else if off = 0x420 then p.buffer
  else if off = 0x428 then p.outLen
  else if off = 0x5F8 then p.mailStatus
  else 0

/-- Four doublewords as a granule. -/
def fourWords (f : Nat → Word) : Vec := f 24 ++ f 16 ++ f 8 ++ f 0

/-! Watchdogs (14 R354) -/

/-- The word at an offset of the watchdogs' range; what is no watchdog reads as zero. -/
def State.dogWord (s : State) (off : Nat) : Word :=
  if off % 0x10000 < 64 then ((s.die (off / 0x10000)).dogs[off % 0x10000 / 8]?.getD {}).word else 0

/-- The granule that another package answers with for an address, as one read finds it (log 38). -/
def State.farGranule (s : State) (va : Nat) : Granule :=
  ⟨Config.farData (2 ^ 60 * (s.draws + 1) + va), Config.farSeal (2 ^ 60 * (s.draws + 1) + va)⟩

/-- The granule that a read of a place finds. -/
def State.view (s : State) (l : Loc) : Granule :=
  match l with
  | .page off => sealed (fourWords fun k => s.pkg.pageWord (off / 32 * 32 + k)) 0
  | .watchdog off => sealed (fourWords fun k => s.dogWord (off / 32 * 32 + k)) 0
  | .remote _ va => s.farGranule va
  | l => s.granule l

/-! Descriptors in tile SRAM (07 R176) -/

/-- The thread's earlier stores to its own tile have performed: what the instruction reads there itself sees them (04 R100). -/
def ownSettled : M Unit := waitOwn
where
  waitOwn : M Unit := do
    let s ← get
    let t ← getT
    if s.accs.any fun a => a.who = s.cur && a.thread = t.serial && a.stores &&
        (match a.loc with
          | some (.sram tile _) => tile = s.cur.tile
          | some _ => false
          | none => true) then stop .park

/-- n granules read from the thread's own tile SRAM at a byte offset: MISALIGNED, ILLEGAL_OPERAND outside thread-owned banks,
a rollback SEAL_FAULT. The instruction parks while a bank of theirs is taken (R170; log 84). -/
def readDescriptor (o : Opts) (pc : BitVec 15) (off : Word) (align n : Nat) : M (List Vec) := do
  if off.toNat % align ≠ 0 then trapNow cMisaligned off
  if !(← getTile).threadOwned off.toNat (32 * n) then trapNow cIllegalOperand o.value
  ownSettled
  let s ← get
  if (List.range n).any fun i => s.portTaken s.cur.tile (off.toNat + 32 * i) then stop .park
  (List.range n).mapM fun i =>
    consumeGranule pc (s.granule (.sram s.cur.tile (off.toNat + 32 * i))) none (BitVec.ofNat 64 (off.toNat + 32 * i))

/-- The instruction does not go on this turn; what it has done so far is kept and it is executed again. -/
def holdAt {α : Type} (pc : BitVec 15) (f : State → State) : M α := fun s =>
  .error (.done ((f s).modThread s.cur fun t => { t with pc := pc }))

end Sys2Proof.Machine
end

