-- ==== Sys2Proof/Machine/Streams.lean ====
section
/-! DEFINITION. QCFG, SCFG and the streams' transfer units (07 R178 to R186). -/

namespace Sys2Proof.Machine

/-! QCFG (R178 to R180) -/

/-- A queue configuration that R179 accepts; the storage of a queue without depth is none, and is not checked (log 90). -/
def queueOk (tile : Tile) (w : Word) : Bool :=
  let q : Queue := { cfg := w }
  w.extractLsb' 49 15 = 0 && w.extractLsb' 28 4 = 0 && w.extractLsb' 19 5 = 0 && w.extractLsb' 0 5 = 0 &&
    (w.extractLsb' 24 4).toNat ≤ 8 &&
    (q.depth = 0 || tile.threadOwned ((w.extractLsb' 5 14).toNat * 32) (q.depth * 32))

/-- A queue configured anew, and empty: what is parked on it stays parked until the next push or pop (R178). -/
def Queue.reset (q : Queue) (v : Word) (slot : Nat) : Queue :=
  { cfg := v, inFlight := q.inFlight, stay := (q.stay ++ q.parked).filter (·.1 ≠ slot) }

/-- qcfg.set: the queue is configured and emptied. -/
def execQcfgSet (w : Bool) (a : Reg) (q : BitVec 4) (s : State) : Result :=
  let o := { opts32 w (.qcfgSet w a q) with commits := true }
  issue o noChecks (fun _ => do
      let v ← getX a
      needOk o (queueOk (← getTile) v)
      let slot := (← get).cur.slot
      modTileM fun t => t.setQueue q.toNat ((t.queue q.toNat).reset v slot)) s

/-- qcfg.get. -/
def execQcfgGet (w : Bool) (d : Reg) (q : BitVec 4) (s : State) : Result :=
  issue { w := w } noChecks (fun _ => do
    let k := (← getTile).queue q.toNat
    setX d (0#38 ++ bit k.enabled ++ BitVec.ofNat 8 k.tail ++ BitVec.ofNat 8 k.head ++ BitVec.ofNat 9 k.count)) s

/-- A port descriptor that R180 accepts. -/
def portDescOk (v : Vec) : Bool :=
  let len := (v.extractLsb' 192 8).toNat
  1 ≤ len && len ≤ 64 && v.extractLsb' 204 4 = 0 && v.extractLsb' 208 48 = 0

/-- qcfg.port. -/
def execQcfgPort (w : Bool) (a : Reg) (port : BitVec 3) (s : State) : Result :=
  let o := { opts32 w (.qcfgPort w a port) with commits := true }
  issue o noChecks (fun pc => do
    let ds ← readDescriptor o pc (← getX a) 32 1
    let v := ds.headD 0
    if !portDescOk v then trapNow cIllegalOperand o.value
    modTileM fun t => { t with ports := t.ports.setIfInBounds port.toNat (some v) }) s

/-! SCFG (R183, R184) -/

/-- A stream from its descriptor. -/
def streamOf (d0 d1 : Vec) (seg : Seg) (slot serial : Nat) : Stream :=
  let v : BitVec 512 := d1 ++ d0
  { write := v.getLsbD 208, seg := seg, base := v.extractLsb' 0 64
    stride := #v[v.extractLsb' 64 32, v.extractLsb' 96 32, v.extractLsb' 128 32]
    count := #v[v.extractLsb' 160 16, v.extractLsb' 176 16, v.extractLsb' 192 16]
    owner := slot, thread := serial }

/-- The least and the greatest offset of a pattern. -/
def Stream.extent (st : Stream) : Int × Int :=
  (List.range 3).foldl (fun e i =>
    let far := (((st.count[i]?.getD 0).toNat - 1 : Nat) : Int) * (st.stride[i]?.getD 0).toInt
    (e.1 + min 0 far, e.2 + max 0 far)) ((st.base.toNat : Int), (st.base.toNat : Int))

/-- The checks 1 to 4 of a bind. -/
def bindChecks (o : Opts) (d0 d1 : Vec) (n : BitVec 3) (st : Stream) : M Unit := do
  if d0 >>> 209 ≠ 0 || d1 ≠ 0 then trapNow cIllegalOperand o.value
  if (st.count.toList.any (· = 0)) then trapNow cIllegalOperand o.value
  if st.base.toNat % 32 ≠ 0 || st.stride.toList.any (fun x => x.toNat % 32 ≠ 0) || st.seg.base.toNat % 32 ≠ 0 then
    trapNow cMisaligned st.base
  let (lo, hi) := st.extent
  let rank := (← get).pkg.rank
  if !st.seg.rightsOk rank (if st.write then .write else .read) (BitVec.ofInt 64 lo) then
    segTrap cSegmentRights n (BitVec.ofInt 64 lo)
  if lo < 0 then segTrap cSegmentLimit n (BitVec.ofInt 64 lo)
  if (st.seg.limit.toNat : Int) < hi + 31 then segTrap cSegmentLimit n (BitVec.ofInt 64 hi)

/-- The range-lock entry of a binding (R174). -/
def Stream.lock (st : Stream) (j : Nat) : Lock :=
  { virt := st.seg.kind ≠ 2, lock := if st.write then 2 else 1, owner := 2, ident := BitVec.ofNat 10 j
    first := st.seg.address (BitVec.ofInt 64 st.extent.1), last := st.seg.address (BitVec.ofInt 64 st.extent.2) + 31 }

/-- A stream that another thread holds is a QUEUE_FAULT to bind or free (R184, R190). -/
def needMine (j : Nat) (st : Stream) : M Unit := do
  let t ← getT
  if st.owner ≠ (← get).cur.slot || st.thread ≠ t.serial then trapNow cQueueFault (BitVec.ofNat 64 (0x10 + j))

/-- scfg.bind: a stream that the thread holds is freed first; a full lock table parks. -/
def execScfgBind (w : Bool) (a : Reg) (seg : BitVec 3) (sn : BitVec 4) (s : State) : Result :=
  let o := { opts32 w (.scfgBind w a seg sn) with commits := true }
  issue o noChecks (fun pc => do
    let j := sn.toNat
    match (← getTile).stream j with
    | some st =>
      needMine j st
      holdAt pc fun s => s.modTile s.cur.tile (·.freeStream j)
    | none =>
      let ds ← readDescriptor o pc (← getX a) 32 2
      let t ← getT
      let cur := (← get).cur
      let st := streamOf (ds[0]?.getD 0) (ds[1]?.getD 0) (t.getSeg seg) cur.slot t.serial
      bindChecks o (ds[0]?.getD 0) (ds[1]?.getD 0) seg st
      if lockEntries ≤ (← getTile).locks.length then stop .park
      modTileM fun tile => (tile.setStream j (some st)).lockIn (st.lock j)
      modS fun s => startPrefetch s.cur.tile j s) s

/-- scfg.free: of a write stream once every accepted granule has performed, of a read stream 2 cycles after issue (R186). -/
def execScfgFree (w : Bool) (sn : BitVec 4) (s : State) : Result :=
  issue { w := w, commits := true } noChecks (fun pc => do
    let j := sn.toNat
    match (← getTile).stream j with
    | none => trapNow cQueueFault (BitVec.ofNat 64 (0x10 + j))
    | some st =>
      needMine j st
      if st.write && !st.drain.isEmpty then stop .park
      modTileM (·.freeStream j)
      longResult pc (if st.write then 1 else 2) [] []) s

/-! Transfer units (R185, R186) -/

/-- A granule of a read stream held, or the fault that travels with it. -/
def Stream.hold (st : Stream) (n : Nat) (g : Option Granule) (f : Option PortFault) : Stream :=
  { st with
    busy := st.busy.filter (· ≠ n)
    held := st.held ++ [(n, g, f.map fun p => { code := p.code, sub := p.sub, info := p.info, epc := 0, fpc := 0 })] }

/-- The smallest of a list. -/
def least : List Nat → Option Nat
  | [] => none
  | n :: rest => some (rest.foldl min n)

/-- An access of a transfer unit to a far package. -/
def fetchRemote (tile : Nat) (st : Stream) (va : Nat) (kind : AccKind) (s : State) : State :=
  let (id, s) := s.fresh
  let a : Access := { id := id, who := ⟨tile, st.owner⟩, thread := st.thread, key := .virt va, kind := kind, stage := 1 }
  ({ s with accs := s.accs ++ [a] }.tally tile evFlits none a.flits).scheduleFree phaseAccess (.portAccess id)

/-- STREAM_PREFETCH: the first granule wanted is read (R185). -/
def execStreamPrefetch (tile sn : Nat) (s : State) : Result :=
  match (s.tile tile).stream sn with
  | none => .next s
  | some st =>
    if st.write then .next s
    else
      match least (st.busy.filter fun n => !s.accs.any fun a => a.who.tile = tile && a.kind = .fetch sn n) with
      | none => .next (if st.busy.isEmpty then startPrefetch tile sn s else s)
      | some n =>
        let addr := st.seg.address (st.offset n)
        let put (s : State) (st : Stream) : State := s.modTile tile (·.setStream sn (some st))
        if st.seg.kind = 2 then
          if s.portTaken tile addr then .next (s.schedule (s.cycle + 1) phaseHeld (.streamPrefetch tile sn))
          else if !(s.tile tile).openGranule addr then
            .next (put s (st.hold n none (some { code := cWindowViolation, info := BitVec.ofNat 64 addr })))
          else .next (put s (st.hold n (some (s.granule (.sram tile addr))) none))
        else if s.isFar tile addr then
          .next (fetchRemote tile st addr (.fetch sn n) s)
        else
          match translate s tile addr .read with
          | (.error f, s) => .next (put s (st.hold n none (some f)))
          | (.ok ⟨.watchdog _, _, _⟩, s) => .next (put s (st.hold n none (some (pageFault 0 addr))))
          | (.ok ⟨.sram t off, _, _⟩, s) =>
            -- a pinned page: the tile's banks and windows apply, its locks do not (10 R263, R175)
            if !(s.tile t).openGranule off then .next (put s (st.hold n none (some { code := cWindowViolation, info := BitVec.ofNat 64 off })))
            else if s.portTaken t off then .next (s.schedule (s.cycle + 1) phaseHeld (.streamPrefetch tile sn))
            else .next (put (s.tally tile evFlits none 1) (st.hold n (some (s.granule (.sram t off))) none))
          | (.ok f, s) =>
            if s.hbmShut f.loc then .next (s.schedule (s.cycle + 1) phaseAccess (.streamPrefetch tile sn))
            else .next (put (s.tally tile evFlits none 1) (st.hold n (some (s.view f.loc)) none))

/-- A stream that was to be freed, and has drained, is unbound. -/
def freeDrained (tile j : Nat) (s : State) : State :=
  match (s.tile tile).stream j with
  | some st => if st.freeing && st.drain.isEmpty then s.modTile tile fun t => (t.setStream j none).unlockStream j else s
  | none => s

/-- The oldest granule of a drain buffer is out of it. -/
def drained (tile sn : Nat) (st : Stream) (rest : List (Nat × Granule × Loc)) (s : State) : State :=
  freeDrained tile sn (s.modTile tile (·.setStream sn (some { st with drain := rest })))

/-- STREAM_DRAIN: the oldest granule of the drain buffer performs at its destination, whatever windows have done since (R186). -/
def execStreamDrain (tile sn : Nat) (s : State) : Result :=
  match (s.tile tile).stream sn with
  | none => .next s
  | some st =>
    match st.drain with
    | [] => .next (freeDrained tile sn s)
    | (_, g, loc) :: rest =>
      match loc with
      | .sram t off =>
        if s.portTaken t off then .next (s.schedule (s.cycle + 1) phaseHeld (.streamDrain tile sn))
        else
          let s := if st.seg.kind = 2 then s else s.tally tile evFlits none 2
          let s := drained tile sn st rest (afterWrite loc 0 (s.setGranule loc g))
          .next (if st.seg.kind = 2 && !rest.isEmpty then s.schedule (s.cycle + 1) phaseAccess (.streamDrain tile sn) else s)
      | .remote _ va =>
        if s.accs.any fun a => a.who.tile = tile && a.kind = .drain sn g then
          .next (s.scheduleFree phaseAccess (.streamDrain tile sn))
        else
        .next (fetchRemote tile st va (.drain sn g) s)
      | loc =>
        if s.hbmShut loc then .next (s.schedule (s.cycle + 1) phaseAccess (.streamDrain tile sn))
        else
        .next (drained tile sn st rest ((s.setGranule loc g).tally tile evFlits none 2))

end Sys2Proof.Machine
end

