-- ==== Sys2Proof/Machine/Mesh.lean ====
section
/-! DEFINITION. Packets on the mesh: hops and their checks, ROUTE_INVALID, and the arrival of port sends and doorbells (11
R284 to R287, 07 R181, R182), with DBELL. -/

namespace Sys2Proof.Machine

/-! Headings: 0 west, 1 north, 2 south, 3 east (11 R286) -/

def leftOf (h : BitVec 2) : BitVec 2 := if h = 0 then 2 else if h = 2 then 3 else if h = 3 then 1 else 0
def rightOf (h : BitVec 2) : BitVec 2 := if h = 0 then 1 else if h = 1 then 3 else if h = 3 then 2 else 0

/-- The next cluster in a heading, within the package. -/
def neighbour (c : Nat) (h : BitVec 2) : Option Nat :=
  let r := gridRow c
  let k := gridCol c
  if h = 0 then (if k = 0 then none else some (clusterAt r (k - 1)))
  else if h = 1 then (if r = 0 then none else some (clusterAt (r - 1) k))
  else if h = 2 then (if r = 31 then none else some (clusterAt (r + 1) k))
  else if k = 79 then none else some (clusterAt r (k + 1))

/-! Hops (R286, R287) -/

def Packet.code (p : Packet) (i : Nat) : Nat := (p.desc.extractLsb' (3 * i) 3).toNat
def Packet.length (p : Packet) : Nat := (p.desc.extractLsb' 192 8).toNat
/-- The 6-bit value of the two codes after the present one. -/
def Packet.pair (p : Packet) : Nat := p.code (p.index + 1) * 8 + p.code (p.index + 2)

/-- What a router does with the code it consumes. -/
inductive Hop where
  | on (p : Packet)
  | eject (target : Nat)
  /-- it leaves the package by a timed link port -/
  | leave
  /-- it is dropped; the index of the failing code -/
  | bad (index : Nat)
  deriving DecidableEq, Repr

/-- A hop in a heading: the turn rule, the edge, the hole, in this order. -/
def moveTo (s : State) (p : Packet) (h : BitVec 2) (cross : Bool) : Hop :=
  let turn := if p.escape then (h = 0 || h = 3) && p.bent else h = 0 && p.bent
  let bent := p.bent || (if p.escape then h = 1 || h = 2 else h ≠ 0)
  if turn then .bad p.index
  else
    match neighbour p.cluster h with
    | none => .bad p.index
    | some c =>
      let crosses := c / 320 ≠ p.cluster / 320
      if crosses ≠ cross || (crosses && s.crossingDown p.cluster h.toNat) || s.pkg.absent.contains c then .bad p.index
      else .on { p with cluster := c, heading := h, bent := bent, index := p.index + 1 }

/-- The router's action on the next code (R286, R287). -/
def hop (s : State) (p : Packet) : Hop :=
  if p.length ≤ p.index then .bad p.length
  else
    let c := p.code p.index
    if p.index = 0 then (if 3 < c then .bad 0 else .on { p with heading := BitVec.ofNat 2 c, index := 1 })
    else
      match c with
      | 0 => moveTo s p p.heading false
      | 1 => moveTo s p (leftOf p.heading) false
      | 2 => moveTo s p (rightOf p.heading) false
      | 3 =>
        if p.length < p.index + 3 || 19 < p.pair then .bad p.index
        else if p.index + 3 < p.length then .bad (p.index + 3)
        else if p.pair < 16 && s.hole (clusterTile p.cluster p.pair) then .bad p.index
        else .eject p.pair
      | 4 => moveTo s p p.heading true
      | 5 =>
        let port := s.pkg.ports[p.pair]?.getD {}
        if p.length < p.index + 3 || 23 < p.pair then .bad p.index
        else if port.state ≠ 3 || clusterOf port.tile ≠ p.cluster then .bad p.index
        else .leave
      | 6 => if p.escape then .bad p.index else .on { p with escape := true, bent := false, index := p.index + 1 }
      | _ => .bad p.index

def State.packet (s : State) (id : Nat) : Option Packet := s.packets.find? (·.id = id)
def State.dropPacket (s : State) (id : Nat) : State := { s with packets := s.packets.filter (·.id ≠ id) }
def State.putPacket (s : State) (p : Packet) : State := { s with packets := s.packets.map fun q => if q.id = p.id then p else q }

/-- The kind of a packet: packets of one kind on one string from one tile keep their order (R285). -/
def Payload.order : Payload → Nat
  | .granule _ _ => 0 | .doorbell _ _ => 1 | .spawn .. => 1 | .steal _ => 1

/-- The string of a packet: its codes, by length (R286). -/
def Packet.string (p : Packet) : Nat × Nat := (p.length, p.desc.toNat % 2 ^ (3 * p.length))

/-- An earlier packet of the same string that this one may not pass. -/
def Packet.behind (p : Packet) (s : State) : Bool :=
  s.packets.any fun q => q.id < p.id && q.who.tile = p.who.tile && q.string = p.string && q.load.order = p.load.order &&
    !q.dropped && !q.away && (p.ejected.isSome || (q.ejected.isNone && q.index ≤ p.index))

/-- Nothing but one packet is on the mesh. -/
def meshIdle (s : State) (p : Packet) : Bool :=
  s.accs.isEmpty && s.deliveries.isEmpty && s.packets.all fun q => q.id = p.id || q.dropped || q.away

/-- The cycles that a head waits at an output: none on an idle mesh; at most 15 for other classes; for its own class, a time
that the manual leaves open (R284, R285). -/
def headWait (s : State) (p : Packet) : Nat × State :=
  if meshIdle s p then (0, s)
  else
    let (n, s) := s.drawLatency
    (if s.packets.any fun q => q.id ≠ p.id && q.load.order = p.load.order && !q.dropped && !q.away then n else n % 16, s)

/-- The cycles that a code takes: none without a move; a router in 6, and a crossing in its latency (R284, R289). -/
def Hop.cycles (s : State) (p : Packet) : Hop → Nat
  | .on p' =>
    if p'.cluster = p.cluster then 0
    else if p'.cluster / 320 = p.cluster / 320 then 6
    else 6 + Tab.get 0 s.pkg.crossing (p.cluster * 4 + p'.heading.toNat)
  | .eject _ => 6
  | _ => 0

/-- The arrival event of a packet at the target where it was ejected. -/
def Packet.arrival (p : Packet) : Event :=
  match p.load with
  | .granule _ _ => .portSendArrival p.id
  | .doorbell _ _ => .doorbellArrival p.id
  | .spawn .. => .spawnStateArrival p.id
  | .steal _ => .stealRequestArrival p.id

/-- A target of an eject as a tile; what is no tile is 40,960 (07 R181). -/
def ejectTile (cluster t : Nat) : Nat := if t < 16 then clusterTile cluster t else 40960

/-- PACKET_HOP: one router reads the code at the head of the string. -/
def execPacketHop (pkt : Nat) (s : State) : Result :=
  match s.packet pkt with
  | none => .next s
  | some p =>
    if p.behind s then .next (s.schedule (s.cycle + 1) phaseAccess (.packetHop pkt))
    else
      let cycles := (hop s p).cycles s p
      match hop s p with
      | .on p' =>
        let (wait, s) := if cycles = 0 then (0, s) else headWait s p
        .next ((s.putPacket p').schedule (s.cycle + cycles + wait) phaseAccess (.packetHop pkt))
      | .eject t =>
        let (wait, s) := headWait s p
        let (n, s) := s.drawLatency
        .next ((s.putPacket { p with ejected := some (ejectTile p.cluster t) }).schedule (s.cycle + cycles + wait + p.load.flits + n)
          phaseAccess p.arrival)
      | .leave => .next (s.putPacket { p with away := true })
      | .bad i => .next ((s.putPacket { p with dropped := true }).scheduleFree phaseAccess (.routeInvalidNotice pkt i))

/-- ROUTE_INVALID_NOTICE: the issuing thread takes ROUTE_INVALID, a rollback trap (R287). -/
def execRouteInvalidNotice (pkt index : Nat) (s : State) : Result :=
  match s.packet pkt with
  | none => .next s
  | some p =>
    .next (failResult p.who p.thread p.tok { code := cRouteInvalid, info := BitVec.ofNat 64 index } (s.dropPacket pkt))

/-- A packet's sender receives the reply, sent some cycles from now: the result's writes, landing a free latency later. -/
def replyPacket (p : Packet) (ws : List Write) (delay : Nat) (s : State) : State :=
  match (s.thread p.who).filter (·.serial = p.thread) with
  | none => s.dropPacket p.id
  | some t =>
    let outst := t.outst.map fun o => if o.tok = p.tok then { o with fin := .ready (o.writes ++ ws) } else o
    let (n, s) := ((s.dropPacket p.id).setThread p.who { t with outst := outst }).drawLatency
    landAt p.who p.tok (delay + n) s

/-- The target refuses a port send: QUEUE_FAULT at the sender (07 R181). -/
def refuseSend (p : Packet) (queue : Nat) (s : State) : State :=
  failResult p.who p.thread p.tok { code := cQueueFault, info := BitVec.ofNat 64 (0x100 + queue) } (s.dropPacket p.id)

/-- PORT_SEND_ARRIVAL (07 R181): a full queue holds the packet at its input. -/
def execPortSendArrival (pkt : Nat) (s : State) : Result :=
  match s.packet pkt with
  | none => .next s
  | some p =>
    match p.load, p.ejected with
    | .granule queue g, some tile =>
      let q := (s.tile tile).queue queue
      if p.behind s then .next (s.schedule (s.cycle + 1) phaseAccess (.portSendArrival pkt))
      else if 40960 ≤ tile || !q.enabled || !q.remote then .next (refuseSend p queue s)
      else if q.depth ≤ q.count + q.inFlight || s.portTaken tile (q.offset q.tail) then
        .next (s.schedule (s.cycle + 1) phaseHeld (.portSendArrival pkt))
      else
        let s := s.modTile tile (·.setQueue queue { q with inFlight := q.inFlight + 1 })
        .next (replyPacket p [] 0 (pushGranule tile queue g s))
    | _, _ => .next s

/-- DOORBELL_ARRIVAL (07 R182): the slot's interrupt input 2 is set, and the status returns. -/
def execDoorbellArrival (pkt : Nat) (s : State) : Result :=
  match s.packet pkt with
  | none => .next s
  | some p =>
    match p.load, p.ejected with
    | .doorbell d slot, some tile =>
      if p.behind s then .next (s.schedule (s.cycle + 1) phaseAccess (.doorbellArrival pkt))
      else
        let here := tile < 40960 && slot < (s.tile tile).width && (s.thread ⟨tile, slot⟩).isSome
        let status : Word := if 40960 ≤ tile then 2 else if here then 0 else 1
        .next (replyPacket p [.x d status] 0 (if here then setInput ⟨tile, slot⟩ 2 s else s))
    | _, _ => .next s

/-- A result that the reply to a packet gives. -/
def sendPacket (pc : BitVec 15) (desc : Vec) (d : Reg) (load : Payload) : M Unit := do
  let cyc := (← get).cycle
  let tok ← addOutst fun tok => { tok := tok, pc := pc, fin := .ready [], lands := cyc, dests := [destX d] }
  modS (inject tok pc desc load 0)

/-- DBELL: it leaves once the thread's stores and atomics have been acknowledged (07 R182). -/
def execDbell (w : Bool) (d a : Reg) (port : BitVec 3) (s : State) : Result :=
  issue { w := w, commits := true } noChecks (fun pc => do
    let desc ← needPort port.toNat
    waitPerformed 6
    sendPacket pc desc d (.doorbell d ((← getX a).toNat % 8))) s

end Sys2Proof.Machine
end

