-- ==== Sys2Proof/Machine/Ranks.lean ====
section
/-! DEFINITION. Ranks: entries of the rank table and what an access to a far package needs of one (16 R384 to R388), and
forwarding leaves (16 R399). -/

namespace Sys2Proof.Machine

/-- The data address of the rank table's entry of a rank (R384; log 8). -/
def rankAddr (r : Nat) : Nat := reserveBase + 0x600000 + 64 * r

/-- The entry that the ports still hold where a RANKW has written another (R386). -/
def State.oldEntry (s : State) (r : Nat) : Option (Nat × Nat × Vec × Vec) :=
  s.pkg.oldEntries.find? fun e => e.1 = r && s.cycle < e.2.1

/-- Granule 0 of an entry, as the ports hold it (R385, R386). -/
def State.rankEntry (s : State) (r : Nat) : Vec :=
  match s.oldEntry r with
  | some (_, _, e, _) => e
  | none => (s.granule (.hbm (rankAddr r))).data
/-- Granule 1, the string of route 1. -/
def State.rankString (s : State) (r : Nat) : Vec :=
  match s.oldEntry r with
  | some (_, _, _, v) => v
  | none => (s.granule (.hbm (rankAddr r + 32))).data

def entryValid (e : Vec) : Bool := e.getLsbD 255
def entryRoute (e : Vec) : Nat := (e.extractLsb' 252 3).toNat
def entryRights (e : Vec) : BitVec 3 := e.extractLsb' 249 3
def entryTimeout (e : Vec) : Nat := (e.extractLsb' 192 32).toNat

/-- The entropy value of the packets of a request on a path, on a route over Ultra Ethernet (R392). -/
def entryEntropy (e : Vec) (path : BitVec 4) : Option (BitVec 16) :=
  let base : BitVec 16 := e.extractLsb' 224 16
  match entryRoute e with
  | 2 => some base
  | 3 => some (base + BitVec.ofNat 16 (path.toNat % ((e.extractLsb' 240 4).toNat + 1)))
  | _ => none

/-- The right of an entry that an access needs: atomics need write as well (R388). -/
def entryAllows (e : Vec) (need : Need) : Bool :=
  match need with
  | .read => (entryRights e).getLsbD 0
  | .write => (entryRights e).getLsbD 1
  | .atomic => (entryRights e).getLsbD 2 && (entryRights e).getLsbD 1
  | .execute => (entryRights e).getLsbD 0

/-- What becomes of an access to a far rank at the port (R387, R388). -/
inductive RankVerdict where
  | go | park | deny | noRoute
  deriving DecidableEq, Repr

/-- The port that the string of a route 1 entry begins with. -/
def stringPort (v : Vec) : Nat := (v.extractLsb' 3 3).toNat * 8 + (v.extractLsb' 6 3).toNat

/-- An entry's verdict: invalid parks, route 0 or a missing right is denied, a string whose port is not trained fails at its
first hop (11 R287). -/
def State.rankVerdict (s : State) (rank : Nat) (need : Need) : RankVerdict :=
  let e := s.rankEntry rank
  if !entryValid e then .park
  else if entryRoute e = 0 || !entryAllows e need then .deny
  else if entryRoute e = 1 && (s.pkg.ports[stringPort (s.rankString rank)]?.getD {}).state ≠ 3 then .noRoute
  else .go

/-- The fault of a verdict at a virtual address. -/
def RankVerdict.fault (va : Nat) : RankVerdict → PortFault
  | .noRoute => { code := cRouteInvalid, info := 0 }
  | _ => { code := cRemoteDenied, info := BitVec.ofNat 64 va }

/-- A page at another rank, of a request that no access carries: it goes out on the entry for that rank, and the page's home may refuse it
(R388, R399; log 38). -/
def forwardPage (s : State) (rank addr : Nat) (need : Need) : Except PortFault Found × State :=
  match s.rankVerdict rank need with
  | .park => (.error parksHere, s)
  | .go =>
    let s' : State := { s with draws := s.draws + 1 }
    if Config.farRefuses s.draws then (.error { code := cRemoteDenied, info := BitVec.ofNat 64 addr }, s') else (.ok ⟨.remote rank addr, 0, false⟩, s')
  | v => (.error (v.fault addr), s)

end Sys2Proof.Machine
end

