-- ==== Sys2Proof/Machine/Tasks.lean ====
section
/-! DEFINITION. Spawning and spilling, the deque with FORK, POPC and STEAL, armed counters, barriers and WAITC (07 R187 to
R199, 10 R277). -/

namespace Sys2Proof.Machine

/-! SPAWN (R187 to R189) -/

/-- A copy descriptor that the parent's window allows. -/
def copyOk (t : Thread) (v : Word) : Bool :=
  let vf := (v.extractLsb' 0 9).toNat
  let vc := (v.extractLsb' 9 6).toNat
  let xf := (v.extractLsb' 15 5).toNat
  let xc := (v.extractLsb' 20 4).toNat
  v.extractLsb' 24 40 = 0 && vc ≤ 32 && xc ≤ 8 && (vc = 0 || vf + vc ≤ t.window) && (xc = 0 || xf + xc ≤ 32)

def copyVectors (v : Word) : Nat := (v.extractLsb' 9 6).toNat

/-- A child as it is set up (R188). -/
def Thread.child (t : Thread) (entry : BitVec 15) (v : Word) : Thread :=
  let base := Thread.born 0 entry t.status.mode t.window
  let vs := (List.range (copyVectors v)).map ((v.extractLsb' 0 9).toNat + ·)
  let xs := (List.range (v.extractLsb' 20 4).toNat).map fun i => BitVec.ofNat 5 ((v.extractLsb' 15 5).toNat + i)
  let base := xs.foldl (fun c r => c.setX r (t.getX r)) base
  { base with v := vs.foldl (fun m n => Tab.putD 0 m n (t.getV n)) [], seg := t.seg, ttab := t.ttab, launch := t.launch }

/-- The vector registers of a tile's register file. -/
def registerFile : Nat := 1536

/-- The windows of a tile's live threads. -/
def Tile.live (t : Tile) : Nat := t.slots.toList.foldl (fun n sl => n + (match sl.thread with
  | some t => t.window
  | none => 0)) 0

/-- The status of a plain SPAWN into a slot of a tile, without the spawning slot (R187). -/
def Tile.spawnStatus (t : Tile) (slot window : Nat) : Nat :=
  if t.width ≤ slot then 2
  else if (t.slot slot).thread.isSome || (t.slot slot).evict.isSome || (t.slot slot).victim.isSome then 1
  else if registerFile < t.live + window then 4
  else 0

/-- The checks that every form makes. -/
def spawnChecks (o : Opts) (f : AForm) : M Unit := do
  let t ← getT
  needOk o (copyOk t (t.getX f.b))

/-- The entry address; one that is not a multiple of 4 is MISALIGNED. -/
def spawnEntry (f : AForm) : M (BitVec 15) := do
  let a ← getX f.a
  if a.extractLsb' 0 2 ≠ 0 then trapNow cMisaligned a
  return a.setWidth 15

/-- A plain SPAWN's effect, with the status for the spawning slot. -/
def spawnHere (pc : BitVec 15) (f : AForm) (slot : Nat) (own : Nat) (entry : BitVec 15) : M Unit := do
  let t ← getT
  let s ← get
  let v := t.getX f.b
  let tile ← getTile
  let status := if slot = s.cur.slot then own else tile.spawnStatus slot t.window
  if status = 0 then modS (startChild ⟨s.cur.tile, slot⟩ (t.child entry v) (s.cycle + 6 + copyVectors v))
  longResult pc (6 + copyVectors v) [destX f.d] [.x f.d (BitVec.ofNat 64 status)]

def execSpawn (f : AForm) (slot : BitVec 3) (s : State) : Result :=
  let o := { opts32 f.w (.spawn f slot) with commits := true }
  issue o noChecks (fun pc => do
    spawnChecks o f
    let entry ← spawnEntry f
    let width := (← getTile).width
    spawnHere pc f slot.toNat (if width ≤ slot.toNat then 2 else 1) entry) s

/-- spawn.port: the state travels in class 1. -/
def execSpawnPort (f : AForm) (port slot : BitVec 3) (s : State) : Result :=
  let o := { opts32 f.w (.spawnPort f port slot) with commits := true }
  issue o noChecks (fun pc => do
    spawnChecks o f
    let entry ← spawnEntry f
    let desc ← needPort port.toNat
    let t ← getT
    let v := t.getX f.b
    sendPacket pc desc f.d (.spawn f.d slot.toNat (copyVectors v) (t.child entry v))) s

/-- SPAWN_STATE_ARRIVAL: the child is set up as for a local SPAWN, and the status returns once it is ready (R188). -/
def execSpawnStateArrival (pkt : Nat) (s : State) : Result :=
  match s.packet pkt with
  | none => .next s
  | some p =>
    match p.load, p.ejected with
    | .spawn d slot vectors child, some tile =>
      if p.behind s then .next (s.schedule (s.cycle + 1) phaseAccess (.spawnStateArrival pkt))
      else
        let status := if 40960 ≤ tile then 2
          else if tile = p.who.tile && slot = p.who.slot then 1
          else (s.tile tile).spawnStatus slot child.window
        let s := if status = 0 then startChild ⟨tile, slot⟩ child (s.cycle + 6 + vectors) s else s
        .next (replyPacket p [.x d (BitVec.ofNat 64 status)] (if status = 0 then 6 + vectors else 0) s)
    | _, _ => .next s

/-- The places of a save area's granules, each page translated for writing: a failure is the SPAWN's rollback trap. -/
def savePlaces (pc : BitVec 15) (g : Seg) : Nat → Nat → M (List Loc)
  | _, 0 => return []
  | off, n + 1 => do
    let s ← get
    let addr := g.addr off
    let loc ← (if g.kind = 2 then return Loc.sram s.cur.tile addr
      else if s.pageWaits (clusterOf s.cur.tile) addr then stop .park
      else
        match (match (if rankOf addr = s.pkg.rank then forwardTo s (clusterOf s.cur.tile) addr else some (rankOf addr)) with
          | some rank => forwardPage s rank addr .write
          | none => translate s s.cur.tile addr .write) with
        | (.error f, s') => do
          if f.parks then stop .park
          set s'
          rollbackNow pc f.code f.sub f.info
        | (.ok ⟨.watchdog _, _, _⟩, _) => rollbackNow pc cPageFault 0 (BitVec.ofNat 64 addr)
        | (.ok f, s') => do
          set s'
          return f.loc)
    return loc :: (← savePlaces pc g (off + 32) n)

/-- spawn.evict (R189). -/
def execSpawnEvict (f : AForm) (seg slot : BitVec 3) (s : State) : Result :=
  let o := { opts32 f.w (.spawnEvict f seg slot) with commits := true }
  issue o (needMode o 1) (fun pc => do
      spawnChecks o f
      let entry ← spawnEntry f
      let t ← getT
      let s ← get
      let tile ← getTile
      let n := slot.toNat
      let sl := tile.slot n
      let v := t.getX f.b
      if tile.width ≤ n then longResult pc 6 [destX f.d] [.x f.d 2]
      else if n = s.cur.slot || sl.victim.isSome || sl.evict.isSome then longResult pc 6 [destX f.d] [.x f.d 3]
      else
        match sl.thread with
        | none => spawnHere pc f n 3 entry
        | some victim =>
          let g ← needSeg seg .write 0 (768 + 32 * victim.window)
          needAligned (g.base.toNat % 32 = 0) 0
          if g.kind = 2 then needOwn true (g.addr 0) (768 + 32 * victim.window)
          let save ← savePlaces pc g 0 (24 + victim.window)
          let cyc := s.cycle
          let tok ← addOutst fun tok => { tok := tok, pc := pc, fin := .evict n f.d, lands := cyc, dests := [destX f.d] }
          let e : Evict :=
            { who := s.cur, serial := t.serial, tok := tok, child := { t.child entry v with window := victim.window }
              vectors := copyVectors v, save := save }
          modS fun s => s.modSlot ⟨s.cur.tile, n⟩ fun sl => { sl with evict := some e }
          modS fun s => landAt s.cur tok 1 s) s

/-! VICTIM_RESTORE (R190) -/

/-- A thread's state as a save area delivers it: w n is doubleword n, v the vector registers. -/
def Thread.restored (t : Thread) (w : Nat → Word) (v : List Vec) : Thread :=
  let half (n i : Nat) : BitVec 32 := (w (n + i / 2)).extractLsb' (32 * (i % 2)) 32
  let st := w 52
  { t with
    x := Vector.ofFn fun i : Fin 32 => if i.val = 0 then 0 else w i.val
    k := Vector.ofFn fun i : Fin 8 => if i.val = 0 then ones 32 else half 32 i.val
    seg := Vector.ofFn fun i : Fin 8 =>
      let lo := w (36 + 2 * i.val)
      let hi := w (37 + 2 * i.val)
      ({ kind := hi.extractLsb' 60 4, rights := hi.extractLsb' 55 5, limit := hi.setWidth 48, base := lo.setWidth 56 } : Seg)
    status := { spt := st.getLsbD 7, inh := st.getLsbD 6, pie := st.getLsbD 5, ie := st.getLsbD 4, pmode := st.extractLsb' 2 2
                mode := st.setWidth 2 }
    cause := (w 53).setWidth 12, info := w 54, epc := w 55, fpc := w 56, tvec := w 57, ftvec := w 58
    ienable := (w 59).setWidth 8, ipend := (w 60).setWidth 8 ||| t.ipend, scratch := w 61, fflags := (w 62).setWidth 7
    fmode := if 6 ≤ (w 63).toNat % 8 then 0 else (w 63).setWidth 3, srseed := (w 64).setWidth 32, timecmp := w 65, item := (w 66).setWidth 40
    gen := Vector.ofFn fun i : Fin 8 => half 67 i.val
    shape := Vector.ofFn fun i : Fin 8 => Vector.ofFn fun j : Fin 4 => half (71 + 2 * i.val) j.val
    v := (v.mapIdx fun i g => (i, g)).filter (·.2 ≠ 0)
    mpc := toPc (w 0), pc := toPc (w 0) }

/-- A victim back in its slot, which it may use from a cycle on. -/
def restoreTo (who : Who) (t : Thread) (from_ : Nat) (s : State) : State :=
  s.modSlot who fun sl =>
    { sl with thread := some { t with resumeAt := from_, shadow := t.snapshot (streamPositions (s.tile who.tile) who.slot t.serial) }
              victim := none }

/-- The save area has been read: the thread resumes at its mark; the recorded fault is taken first, or SPILLED with the cycles
evicted (R190). -/
def restoreDone (who : Who) (v : Victim) (s : State) : State :=
  let w (n : Nat) : Word := ((v.got[n / 4]?.getD 0).extractLsb' (64 * (n % 4)) 64)
  let t := v.thread.restored w (v.got.drop 24)
  let s' := restoreTo who t (s.cycle + 1) s
  if t.fatal.isSome then s'.schedule s.cycle phaseLand (.threadFatal who)
  else if w 91 ≠ 0 then
    raise who { code := (w 87).setWidth 8, sub := (w 87).extractLsb' 8 4, info := w 88, epc := toPc (w 89), fpc := toPc (w 90) } s'
  else if t.status.spt then
    raiseAfter who { code := cSpilled, info := BitVec.ofNat 64 (s.cycle - v.since), epc := t.pc, fpc := t.pc } s'
  else s'

/-- VICTIM_RESTORE: the next granule of the save area as it now stands, one a cycle; one that fails its check makes the victim
fatal (R190). -/
def execVictimRestore (who : Who) (s : State) : Result :=
  match (s.slot who).victim with
  | none => .next s
  | some v =>
    match v.save[v.got.length]? with
    | none => .next (restoreDone who v s)
    | some l =>
      if spillWaits s l then .next (s.schedule (s.cycle + 1) phaseHeld (.victimRestore who))
      else
        match sealCheck (s.view l) none with
        | .error _ =>
          .next (becomeFatal who { code := cSealFault, info := 0, epc := v.thread.pc, fpc := v.thread.pc }
            (restoreTo who v.thread (s.cycle + 1) (s.countCorrection who.tile (sealFixes (s.view l)))))
        | .ok (d, corrected) =>
          let s := s.countCorrection who.tile corrected
          let v := { v with got := v.got ++ [d] }
          if v.got.length < v.save.length then
            .next ((s.modSlot who fun sl => { sl with victim := some v }).schedule (s.cycle + 1) phaseAccess (.victimRestore who))
          else .next (restoreDone who v s)

/-! The deque (R191 to R195) -/

/-- DEFERRED_ARM_PUSH: records of fired counters that wait for room (R197). -/
def execDeferredArmPush (tile : Nat) (s : State) : Result :=
  .next ((List.range 16).foldl (fun s i =>
    match (s.tile tile).armed[i]?.getD none with
    | some a =>
      if a.fired then
        let (n, s) := s.fresh
        fireArm tile i n s
      else s
    | none => s) s)

/-- A record has left the deque: a waiting record may enter. -/
def dequeFreed (tile : Nat) (s : State) : State :=
  if (s.tile tile).armed.toList.any (fun a => match a with
      | some a => a.fired
      | none => false) then s.schedule s.cycle phaseAccess (.deferredArmPush tile) else s

/-- FORK: the record is in the deque from issue + 2 (R193). -/
def execFork (w : Bool) (a : Reg) (ty : BitVec 10) (s : State) : Result :=
  let o := { opts32 w (.fork w a ty) with commits := true }
  issue o (needOk o (a.toNat ≤ 29)) (fun pc => do
    let t ← getT
    let tile ← getTile
    let s ← get
    if dequeDepth ≤ tile.deque.length + tile.forking then trapNow cDequeOverflow 32
    let record : Vec := t.getX (a + 2) ++ t.getX (a + 1) ++ t.getX a ++ (0#22 ++ ty ++ BitVec.ofNat 16 s.cur.tile ++ 0#8 ++ 0xC0#8)
    modTileM fun tile => { tile with forking := tile.forking + 1 }
    longResult pc 2 [] [.task record]) s

/-- POPC (R194). -/
def execPopc (w : Bool) (off : BitVec 13) (s : State) : Result :=
  issue { w := w, commits := true } noChecks (fun pc => do
    let tile ← getTile
    let slot := (← get).cur.slot
    let away (t : Thread) : Thread := { t.write (.fold 1 1) with pc := pc + BitVec.ofInt 15 (4 * off.toInt) }
    match tile.conts.find? (·.1 = slot) with
    | none => modT away
    | some c =>
      modTileM fun t => { t with conts := t.conts.filter (· ≠ c), deque := t.deque.filter (·.id ≠ c.2) }
      modS fun s => s.modTile s.cur.tile (·.served s.cycle)
      if tile.deque.any (·.id = c.2) then
        modT (·.write (.fold 1 0))
        modS fun s => dequeFreed s.cur.tile s
      else modT away
    longResult pc 4 [] []) s

/-- The far-end record of a deque, with the deque without it. -/
def Tile.take (t : Tile) : Vec × Tile :=
  match t.deque with
  | [] => (0, t)
  | r :: rest => (r.record, { t with deque := rest })

/-- The writes of a stolen record. -/
def stealWrites (d : Reg) (r : Vec) : List Write :=
  (List.range 4).map (fun i => .x (d + BitVec.ofNat 5 i) (r.extractLsb' (64 * i) 64)) ++ [.fold 8 (r.extractLsb' 0 64)]

/-- steal local. -/
def execStealLocal (w : Bool) (d : Reg) (s : State) : Result :=
  let o := { opts32 w (.stealLocal w d) with commits := true }
  issue o (needOk o (d.toNat ≤ 28)) (fun pc => do
    let some_ := !(← getTile).deque.isEmpty
    let (r, tile) := (← getTile).take
    let cycle := (← get).cycle
    modTileM fun _ => tile.served cycle
    if some_ then modS fun s => s.tally s.cur.tile evSteals none 1
    modS fun s => dequeFreed s.cur.tile s
    longResult pc 4 ((List.range 4).map fun i => destX (d + BitVec.ofNat 5 i)) (stealWrites d r)) s

/-- steal over a port. -/
def execSteal (w : Bool) (d : Reg) (port : BitVec 3) (s : State) : Result :=
  let o := { opts32 w (.steal w d port) with commits := true }
  issue o (needOk o (d.toNat ≤ 28)) (fun pc => do
    let desc ← needPort port.toNat
    sendPacket pc desc d (.steal d)) s

/-- STEAL_REQUEST_ARRIVAL: the deque's far end; a target that is no tile gives zeros (R195). -/
def execStealRequestArrival (pkt : Nat) (s : State) : Result :=
  match s.packet pkt with
  | none => .next s
  | some p =>
    match p.load, p.ejected with
    | .steal d, some tile =>
      if p.behind s then .next (s.schedule (s.cycle + 1) phaseAccess (.stealRequestArrival pkt))
      else if 40960 ≤ tile then .next (replyPacket p (stealWrites d 0) 0 s)
      else if s.cycle < (s.tile tile).dequeFrom then .next (s.schedule (s.tile tile).dequeFrom phaseAccess (.stealRequestArrival pkt))
      else
        let (r, t) := (s.tile tile).take
        let s := if (s.tile tile).deque.isEmpty then s else s.tally tile evSteals none 1
        let t := { t.served s.cycle with pmc := (s.tile tile).pmc }
        .next (replyPacket p (stealWrites d r) 0 (dequeFreed tile (s.setTile tile t)))
    | _, _ => .next s

/-! Armed counters (R196, R197) -/

/-- The entry armed on a word. One that has fired, and whose record waits for room, is armed no longer (R197; log 86). -/
def Tile.armedOn (t : Tile) (off : Nat) : Option Nat :=
  (List.range 16).find? fun i => match t.armed[i]?.getD none with
    | some a => a.off = off && !a.fired
    | none => false

/-- The record that ARM makes, with valid set. -/
def armRecord (t : Thread) (b : Reg) : Vec := (t.getX (b + 3) ++ t.getX (b + 2) ++ t.getX (b + 1) ++ t.getX b) ||| 0x80

/-- ARM: an entry armed or disarmed; a word already zero fires at once. -/
def execArm (f : AForm) (s : State) : Result :=
  let o := { opts32 f.w (.arm f) with commits := true }
  issue o (needOk o (f.b.toNat ≤ 28)) (fun pc => do
      let t ← getT
      let tile ← getTile
      let off := (t.getX f.a).toNat
      needOk o (off % 8 = 0 && tile.threadOwned off 8)
      let lands (n : Option Nat) : M Unit :=
        longResult pc 4 [destX f.d] [.x f.d (match n with
          | some i => BitVec.ofNat 64 i
          | none => ones 64)]
      if f.b = 0 then
        match tile.armedOn off with
        | some i => modTileM fun t => { t with armed := t.armed.setIfInBounds i none }
        | none => pure ()
        lands (tile.armedOn off)
      else
        let free := (List.range 16).find? fun i => (tile.armed[i]?.getD none).isNone
        match (tile.armedOn off).orElse fun _ => free with
        | none => lands none
        | some i =>
          ownSettled
          modTileM fun tile => { tile with armed := tile.armed.setIfInBounds i (some { off := off, record := armRecord t f.b }) }
          modS fun s => testArms s.cur.tile off (ones 32) s
          lands (some i)) s

/-! Barriers (R198, 10 R277) -/

/-- A BAR up to its arrival: the count, one mark whose address is the next instruction, and the fence at its scope. -/
def barFence (pc : BitVec 15) (scope : Nat) : M Unit := do
  if !(← getT).outst.isEmpty then stop .park
  modS fun s => takeMark s.cur (pc + 4) s
  parkedAt do
    let s ← get
    let t ← getT
    if pendingWithin s s.cur t.serial scope then holdAt pc id
    modS fun s => acquire scope s.cur s

/-- A thread's arrival recorded, once in an episode; true when the count is reached. -/
def Barrier.arrive (b : Barrier) (w : Who) (serial count : Nat) : Barrier × Bool :=
  let b := if b.arrived = [] then { b with count := count } else b
  let b := if b.arrived.contains (w, serial) then b else { b with arrived := b.arrived ++ [(w, serial)] }
  (b, b.count ≤ b.arrived.length)

/-- A thread that waits at a barrier is released: it issues again from a cycle on. -/
def releaseBar (cluster : Bool) (num : Nat) (from_ : Nat) (s : State) (p : Who × Nat) : State :=
  s.modThread p.1 fun t =>
    if t.serial = p.2 && t.wait = some (.barrier cluster num) then { t with wait := none, pc := t.pc + 4, resumeAt := max t.resumeAt from_ }
    else t

/-- bar.tile: all arrivals are released on the cycle after the last. -/
def execBarTile (w : Bool) (a : Reg) (num : BitVec 4) (s : State) : Result :=
  let o := opts32 w (.barTile w a num)
  issue o noChecks (fun pc => do
      let n := (← getX a).toNat
      needOk o (1 ≤ n && n ≤ 8)
      barFence pc 1
      let t ← getT
      let cur := (← get).cur
      modT fun t => { t with pc := pc, wait := some (.barrier false num.toNat) }
      modS fun s =>
        let (b, full) := ((s.tile cur.tile).barriers[num.toNat]?.getD {}).arrive cur t.serial n
        let put (b : Barrier) : State := s.modTile cur.tile fun tl => { tl with barriers := tl.barriers.setIfInBounds num.toNat b }
        if full then b.arrived.foldl (releaseBar false num.toNat (s.cycle + 1)) (put {}) else put b) s

/-- bar.cluster: the arrival reaches the barrier unit 4 cycles later. -/
def execBarCluster (w : Bool) (a : Reg) (num : BitVec 4) (s : State) : Result :=
  let o := opts32 w (.barCluster w a num)
  issue o noChecks (fun pc => do
      let n := (← getX a).toNat
      needOk o (1 ≤ n && n ≤ 128)
      barFence pc 2
      let t ← getT
      let cur := (← get).cur
      modT fun t => { t with pc := pc, wait := some (.barrier true num.toNat) }
      let c := clusterOf cur.tile
      modS fun s => s.modCluster c fun k => { k with arriving := k.arriving ++ [(num.toNat, cur, t.serial, n)] }
      modS fun s => s.schedule (s.cycle + 4) phaseAccess (.barrierArrival c num.toNat t.serial)) s

/-- BARRIER_ARRIVAL: an arrival at a cluster's barrier unit; with the last, the release reaches the tiles 5 cycles later, where
each thread acquires (R277). The release of a barrier is the same event with 16 added to its number. -/
def execBarrierArrival (cluster num serial : Nat) (s : State) : Result :=
  match (s.cluster cluster).arriving.find? (fun p => p.1 = num && p.2.2.1 = serial) with
  | none => .next s
  | some (_, who, _, count) =>
    let s := s.modCluster cluster fun k => { k with arriving := k.arriving.filter fun p => !(p.1 = num && p.2.2.1 = serial) }
    if 16 ≤ num then .next (releaseBar true (num - 16) (s.cycle + 4) (acquire 2 who s) (who, serial))
    else
      let (b, full) := ((s.cluster cluster).barriers[num]?.getD {}).arrive who serial count
      let put (b : Barrier) : State := s.modCluster cluster fun k => { k with barriers := k.barriers.setIfInBounds num b }
      if full then
        .next (b.arrived.foldl (fun s p =>
          (s.modCluster cluster fun k => { k with arriving := k.arriving ++ [(num + 16, p.1, p.2, 0)] }).schedule (s.cycle + 5) phaseAccess
            (.barrierArrival cluster (num + 16) p.2)) (put {}))
      else .next (put b)

/-! WAITC (R199) -/

/-- A read of the word that a thread waits on is sent. -/
def sendWordRead (w : Who) (key : GKey) (byte : Nat) (s : State) : State :=
  { startAccess key byte 8 0 .word { s with cur := w } with cur := s.cur }

/-- WAITC: it starts on the first cycle on which the thread reaches it, and the thread parks there. -/
def execWaitc (f : AtForm) (cond : BitVec 3) (s : State) : Result :=
  issue { w := f.w } noChecks (fun pc => do
    let t ← getT
    let off := t.getX f.a
    let (g, addr) ← needPiece f.seg .read off.toNat 8
    let s ← get
    let timeout := (t.getX f.d).toNat
    let until_ := if timeout = 0 then none else some (s.cycle + timeout)
    let key := g.key addr
    modT fun t => { t with pc := pc, wait := some (.word pc key (addr % 32) off (t.getX f.b) cond f.d until_ true false) }
    modS fun s =>
      let s := sendWordRead s.cur key (addr % 32) s
      match until_ with
      | some u => s.schedule u phaseAccess (.waitcTimeout s.cur)
      | none => s) s

/-- WAITC_REREAD: one read at a time. -/
def execWaitcReread (who : Who) (s : State) : Result :=
  match s.thread who with
  | none => .next s
  | some t =>
    match t.wait with
    | some (.word pc key byte off b cond d u reading again) =>
      if reading then .next (s.setThread who { t with wait := some (.word pc key byte off b cond d u true again) })
      else .next (sendWordRead who key byte (s.setThread who { t with wait := some (.word pc key byte off b cond d u true false) }))
    | _ => .next s

/-- WAITC_TIMEOUT: FABRIC_TIMEOUT, a rollback trap (R199). -/
def execWaitcTimeout (who : Who) (s : State) : Result :=
  match s.thread who with
  | none => .next s
  | some t =>
    match t.wait with
    | some (.word pc _ _ off _ _ _ (some u) _ _) =>
      if u ≤ s.cycle then .next (failWait who pc { code := cFabricTimeout, info := off } s) else .next s
    | _ => .next s

end Sys2Proof.Machine
end

