-- ==== Sys2Proof/Machine/Engine.lean ====
section
/-! DEFINITION. The copy engine: CPY, CPYM, CPYF, CMPR, DCMP and FILL, with their range locks, acceptance and granules (10
R265 to R276, 07 R173, R174), and WALK (10 R279). -/

namespace Sys2Proof.Machine

/-! Ranges (R266) -/

/-- A range that an operation names through a segment. -/
structure Reach where
  seg : Seg
  off : Nat
  size : Nat
  deriving DecidableEq, Repr

def Reach.addr (r : Reach) : Nat := r.seg.addr r.off

/-- Step 3 for one range. -/
def needReach (n : BitVec 3) (need : Need) (off size : Nat) : M Reach := do
  let g ← needSeg n need off size
  needAligned (g.addr off % 32 = 0) off
  return ⟨g, off, size⟩

/-- Two ranges share a byte, as offsets of the same SRAM or as virtual addresses (step 4). -/
def Reach.overlaps (a b : Reach) : Bool :=
  decide (a.seg.kind = 2) == decide (b.seg.kind = 2) && a.addr < b.addr + b.size && b.addr < a.addr + a.size

/-- Step 5: a range of the own tile, in banks that threads may reach. -/
def needWindow (r : Reach) : M Unit := do
  if r.seg.kind = 2 then
    match (← getTile).shutGranule r.addr r.size with
    | some o => trapNow cWindowViolation (BitVec.ofNat 64 (max o r.addr))
    | none => pure ()

/-- A piece put before the pieces so far, the latest first, or joined to the latest. -/
def joinPiece (p : Piece) : List Piece → List Piece
  | [] => [p]
  | q :: rest =>
    if q.loc.shift q.size = p.loc && q.logged = p.logged then { q with size := q.size + p.size } :: rest else p :: q :: rest

/-- Where one page of a range lies, or the fault that its translation raises (step 6). -/
def pageOf (s : State) (tile : Nat) (mode : BitVec 2) (addr : Nat) (need : Need) : Except PortFault Found × State :=
  if s.pageWaits (clusterOf tile) addr then (.error parksHere, s)
  else if rankOf addr ≠ s.pkg.rank then (.error { code := cRemoteDenied, info := BitVec.ofNat 64 addr }, s)
  else
    match forwardTo s (clusterOf tile) addr with
    | some rank => forwardPage s rank addr need
    | none =>
    match translate s tile addr need with
    | (.ok ⟨.watchdog _, _, _⟩, s) => (.error (pageFault (if mode = 3 then 1 else 0) addr), s)
    | r => r

/-- A range's bytes at a place that the engine may not reach: of a pinned page in a bank that the timed plane owns, and that no window
opens (R263); or with a router or a crossing on the way that is not there (11 R287). -/
def reachFault (s : State) (tile : Nat) (loc : Loc) (n : Nat) : Option PortFault :=
  match loc with
  | .sram t off =>
    match (s.tile t).shutGranule off n with
    | some o => some { code := cWindowViolation, info := BitVec.ofNat 64 (max o off) }
    | none => (pathFault s (clusterOf tile) (clusterOf t)).map routeInvalid
  | .hbm a =>
    ((granulesOf a n).findSome? fun g =>
      if g % 256 = 0 || g = a then pathFault s (clusterOf tile) (ownerCluster g) else none).map routeInvalid
  | _ => none

/-- The pages of a range translated in ascending order; the pieces come latest first. -/
def piecesFrom (tile : Nat) (mode : BitVec 2) (need : Need) : Nat → Nat → Nat → Nat → List Piece → State → Except PortFault (List Piece) × State
  | 0, _, _, _, ps, s => (.ok ps, s)
  | fuel + 1, addr, start, left, ps, s =>
    if left = 0 then (.ok ps, s)
    else
      let n := min left (4096 - addr % 4096)
      match pageOf s tile mode addr need with
      | (.error f, s) => (.error f, s)
      | (.ok f, s) =>
        match reachFault s tile f.loc n with
        | some e => (.error e, s)
        | none =>
        let s := if need = .write then capture tile addr f.loc s else s
        piecesFrom tile mode need fuel ((addr + n) % 2 ^ 56) (start + n) (left - n) (joinPiece ⟨start, n, f.loc, f.logged⟩ ps) s

/-- A range with its pieces, or the fault of its first page that fails. -/
def Reach.span (r : Reach) (tile : Nat) (need : Need) (s : State) : Except PortFault Span × State :=
  if r.seg.kind = 2 then (.ok ⟨false, r.addr, [⟨0, r.size, .sram tile r.addr, false⟩]⟩, s)
  else
    match piecesFrom tile (((s.thread s.cur).map (·.status.mode)).getD 0) need (r.size / 4096 + 2) r.addr 0 r.size [] s with
    | (.error f, s) => (.error f, s)
    | (.ok ps, s) => (.ok ⟨true, r.addr, ps.reverse⟩, s)

/-- Step 6 for one range: a rollback trap. -/
def needSpan (pc : BitVec 15) (r : Reach) (need : Need) : M Span := do
  let s ← get
  match r.span s.cur.tile need s with
  | (.error f, s) => do
    if f.parks then stop .park
    set s
    rollbackNow pc f.code f.sub f.info
  | (.ok sp, s) => do
    set s
    return sp

/-! Registrations (07 R174) -/

/-- The entries of a range: one in the table of each tile that holds a part of it, and one of virtual addresses in the issuing
tile's table where a part lies elsewhere. -/
def Span.registrations (sp : Span) (tile size : Nat) (lock owner : BitVec 2) (id : Nat) (dest : Option Nat) : List Registration :=
  let entry (virt : Bool) (first n : Nat) : Lock :=
    { virt := virt, lock := lock, owner := owner, ident := BitVec.ofNat 10 id, first := first, last := first + n - 1 }
  let near := sp.pieces.filterMap fun p => match p.loc with
    | .sram t off => some ⟨t, entry false off p.size, dest⟩
    | _ => none
  if sp.pieces.length = near.length then near else ⟨tile, entry true sp.addr size, dest⟩ :: near

/-- A registration made if its table has room. -/
def register (s : State) (r : Registration) : Option State :=
  if lockEntries ≤ (s.tile r.tile).locks.length then none
  else some (s.modTile r.tile (·.lockIn r.entry))

def unregister (s : State) (r : Registration) : State := s.modTile r.tile (·.unlock r.entry)

def State.engOp (s : State) (c id : Nat) : Option EngOp := (s.cluster c).engine.find? (·.id = id)
def State.putEng (s : State) (c : Nat) (op : EngOp) : State :=
  s.modCluster c fun k => { k with engine := k.engine.map fun o => if o.id = op.id then op else o }
def State.dropEng (s : State) (c id : Nat) : State :=
  s.modCluster c fun k => { k with engine := k.engine.filter (·.id ≠ id) }

/-- The registrations still to be made, each made where its table has room. -/
def registerAll (op : EngOp) (s : State) : EngOp × State :=
  op.asks.foldl (fun (p : EngOp × State) r =>
    match register p.2 r with
    | some s => ({ p.1 with asks := p.1.asks.erase r, made := p.1.made ++ [r] }, s)
    | none => p) (op, s)

/-- Entries released: those of the sources, or of a destination. -/
def releaseLocks (dest : Option Nat) (op : EngOp) (s : State) : EngOp × State :=
  ({ op with made := op.made.filter (·.dest ≠ dest) }, (op.made.filter (·.dest = dest)).foldl unregister s)

/-! Issue and acceptance (R266, R267) -/

/-- An operation that has passed its checks: its ranges are registered, and it waits for acceptance. -/
def submit (pc : BitVec 15) (op : EngOp) (regs : Nat → List Registration) : M Unit := do
  let cyc := (← get).cycle
  let t ← getT
  let tok ← addOutst fun tok => { tok := tok, pc := pc, fin := .ready [], lands := cyc }
  modS fun s =>
    let c := clusterOf s.cur.tile
    let (id, s) := s.fresh
    let op := { op with id := id, who := s.cur, thread := t.serial, tok := tok, launch := t.launch, asks := regs id }
    let (op, s) := registerAll op s
    (s.modCluster c fun k => { k with engine := k.engine ++ [op] }).schedule (s.cycle + 1) phaseAccess
      (if op.asks.isEmpty then .engineAccept c id else .rangeLockRetry c id)

/-- RANGE_LOCK_RETRY (07 R174). -/
def execRangeLockRetry (cluster op : Nat) (s : State) : Result :=
  match s.engOp cluster op with
  | none => .next s
  | some o =>
    let (o, s) := registerAll o s
    .next ((s.putEng cluster o).schedule (if o.asks.isEmpty then s.cycle else s.cycle + 1) phaseAccess
      (if o.asks.isEmpty then .engineAccept cluster op else .rangeLockRetry cluster op))

/-- Every registration of an operation released, and the operation gone. -/
def endOp (c : Nat) (op : EngOp) (s : State) : State := (op.made.foldl unregister s).dropEng c op.id

/-- ENGINE_ACCEPT: room among the 32 operations, the thread's stores performed, and for a far side a usable entry (R267, 16
R387, R388). -/
def execEngineAccept (cluster op : Nat) (s : State) : Result :=
  match s.engOp cluster op with
  | none => .next s
  | some o =>
    let again (s : State) : Result := .next (s.schedule (s.cycle + 1) phaseAccess (.engineAccept cluster op))
    let accept (s : State) : Result :=
      let s := if o.parked then setInput o.who 7 s else s
      let entropy := o.far.bind fun f => entryEntropy (s.rankEntry f.1) o.path
      let s := (s.putEng cluster { o with accepted := true, entropy := entropy }).schedule s.cycle phaseLand (.longResultLands o.who o.tok)
      match o.far, o.kind with
      | some (rank, _), .rget => .next (s.schedule (s.cycle + 1024 * entryTimeout (s.rankEntry rank)) phaseAccess (.fabricTimeout o.id))
      | _, _ => .next (s.scheduleFree phaseAccess (.engineGranuleWrite cluster op))
    if 32 ≤ ((s.cluster cluster).engine.filter (·.accepted)).length || pendingWithin s o.who o.thread 6 then again s
    else
      match o.far with
      | none => accept s
      | some (rank, need) =>
        match s.rankVerdict rank need with
        | .go => accept s
        | .park => again (s.putEng cluster { o with parked := true })
        | v =>
          let va : Option Nat := match need with
            | .read => o.src.map fun sp => sp.addr
            | _ => o.dests.head?.map fun d => d.span.addr
          let s := if o.parked then setInput o.who 7 s else s
          .next (failResult o.who o.thread o.tok (v.fault (va.getD 0)) (endOp cluster o s))

/-! Granules (R268, R269) -/

/-- An access of an engine to a place waits on this cycle: the timed plane takes its bank (07 R170), or its owner serves no
threaded traffic. -/
def State.busyAt (s : State) : Loc → Bool
  | .sram t off => s.portTaken t off
  | loc => s.hbmShut loc

/-- A granule that an operation writes at a destination; one that leaves for another package changes nothing here. -/
def engineWrite (op : EngOp) (sp : Span) (n : Nat) (g : Granule) (s : State) : State :=
  match sp.at n with
  | none => s
  | some (.remote _ _, _) => s
  | some (loc, logged) =>
    let l : Option Logged := if logged then some ⟨sp.addr + 32 * n, ones 32, s.pkg.rank, op.who, 3⟩ else none
    afterWrite loc (ones 32) (logWrite loc l (s.setGranule loc g))

/-- An indivisible addition to a doubleword of a granule at its owner, for a tile of this package or another's, with the record of
a logged page (12 R309); another package's owner is not here. -/
def addWord (asker : Option Nat) (loc : Loc) (n : Nat) (l : Option Logged) (s : State) : State :=
  if loc.far then s else
  let old := s.granule loc
  let byte := loc.addr % 32
  let d := match sealCheck old none with
    | .ok (d, _) => d
    | .error _ => old.data
  let v := (d.toNat / 2 ^ (8 * byte) % 2 ^ 64 + n) % 2 ^ 64
  let (g, corrected) := mergeGranule old (BitVec.ofNat 256 (v * 2 ^ (8 * byte))) (bytesAt byte 8) none
  afterWrite loc (bytesAt byte 8) (logWrite loc l (countFor asker corrected (s.setGranule loc g)))

/-- The granules owed to a completion word added to it, for the tile whose operation it is (R269). -/
def payWord (asker : Nat) (d : Dest) (s : State) : Dest × State :=
  match d.word with
  | some (tile, off) => ({ d with owed := 0 }, if d.owed = 0 then s else addWord (some asker) (.sram tile off) (32 * d.owed) none s)
  | none => ({ d with owed := 0 }, s)

/-- The CPYF record as the engine writes it back (R271, R272). -/
def writeRecord (op : EngOp) (s : State) : State :=
  match op.kind with
  | .cpyf off _ _ low =>
    let loc : Loc := .sram op.who.tile off
    let r : Vec := BitVec.ofNat 64 (op.outcome.getD 0) ++ op.print ++ low
    afterWrite loc (ones 32) (s.setGranule loc (sealed r 0))
  | _ => s

/-- A bank of what an operation counts in or reports to is taken: the completion word of a destination, RPUT's flag, CPYF's record (07
R170). -/
def countShut (op : EngOp) (d : Dest) (s : State) : Bool :=
  (match d.word with
    | some (t, off) => s.portTaken t off
    | none => false) ||
    match op.kind with
    | .cpyf off _ _ _ => s.portTaken op.who.tile off
    | .rput (some (loc, _)) => s.busyAt loc
    | _ => false

/-- A destination's granule has performed: counted, and perhaps added to its word; with its last one, everything is. -/
def performed (c : Nat) (op : EngOp) (j n : Nat) (pay : Bool) (s : State) : State :=
  let d := op.dests[j]?.getD { span := ⟨false, 0, []⟩ }
  let d := { d with wrote := d.wrote + n, owed := d.owed + n }
  let last := d.wrote = op.length
  let rput := match op.kind with
    | .rput _ => true
    | _ => false
  let s := if last then writeRecord op s else s
  let s := match op.kind with
    | .rput (some (loc, va)) =>
      let l := va.map fun va => (⟨va / 32 * 32, bytesAt (va % 32) 8, s.pkg.rank, op.who, 4⟩ : Logged)
      if last then addWord (some op.who.tile) loc 1 l s else s
    | _ => s
  let (d, s) := if last || (pay && !rput) then payWord op.who.tile d s else (d, s)
  let op := { op with dests := op.dests.set j d }
  let (op, s) := if last then releaseLocks (some j) op s else (op, s)
  if op.dests.all (·.wrote = op.length) then endOp c op s
  else (s.putEng c op).scheduleFree phaseAccess (.engineGranuleWrite c op.id)

/-- How many items some runs hold, and one of them taken out. -/
def runsLength (rs : List (Nat × Nat)) : Nat := rs.foldl (fun n r => n + r.2) 0
def takeRun : List (Nat × Nat) → Nat → Option (Nat × List (Nat × Nat))
  | [], _ => none
  | (f, c) :: rest, k =>
    if k < c then
      some (f + k, (if k = 0 then [] else [(f, k)]) ++ (if k + 1 < c then [(f + k + 1, c - k - 1)] else []) ++ rest)
    else (takeRun rest (k - c)).map fun p => (p.1, (f, c) :: p.2)

/-- The granule that an item of a copy or a fill carries; none while its bank is taken. -/
def itemGranule (op : EngOp) (n : Nat) (s : State) : Option Granule :=
  match op.kind with
  | .fill pat tag => some (sealed (pat ++ pat ++ pat ++ pat) tag)
  | _ =>
    match op.src.bind (·.at n) with
    | some (loc, _) => if s.busyAt loc then none else some (s.view loc)
    | none => some ⟨0, sealZero⟩

/-- One read or one write of a copy, whichever a free value picks, of whichever granule it picks (R268). The reads of an RPUT
to a far rank leave the package; with the last its timeout begins (16 R390, R394). -/
def copyStep (c : Nat) (op : EngOp) (s : State) : State :=
  let (n, s) := s.drawLatency
  let wait (s : State) : State := s.schedule (s.cycle + 1) phaseHeld (.engineGranuleWrite c op.id)
  let total := runsLength op.left
  if total ≠ 0 && (op.held.isEmpty || n % 2 = 0) then
    match takeRun op.left (n / 2 % total) with
    | none => s
    | some (i, left) =>
      match itemGranule op (i % op.length) s with
      | none => wait s
      | some g =>
        let away := match op.kind, op.far with
          | .rput _, some _ => true
          | _, _ => false
        let op := { op with left := left, held := if away then [] else op.held ++ [(i, g)] }
        let (op, s) := if left.isEmpty then releaseLocks none op s else (op, s)
        let s := s.putEng c op
        match away && left.isEmpty, op.far with
        | true, some (rank, _) => s.schedule (s.cycle + 1024 * entryTimeout (s.rankEntry rank)) phaseAccess (.fabricTimeout op.id)
        | _, _ => s.scheduleFree phaseAccess (.engineGranuleWrite c op.id)
  else
    match op.held[n / 2 % op.held.length]? with
    | none => s
    | some (i, g) =>
      let j := i / op.length
      let d := op.dests[j]?.getD { span := ⟨false, 0, []⟩ }
      let taken := (match d.span.at (i % op.length) with
        | some (loc, _) => s.busyAt loc
        | none => false) || countShut op d s
      if taken then wait s
      else
        let op := { op with held := op.held.erase (i, g) }
        performed c op j 1 (n % 4 < 2) (engineWrite op d.span (i % op.length) g s)

/-! CPYF (R271, R272) -/

/-- The fingerprint with one more granule's CRC. -/
def fingerprint (f : Word) (g : Granule) : Word := crc64Fold 2 f (g.sl.extractLsb' 0 16).toNat

/-- The outcome decided: the copy begins, or the record is written and the whole length added. -/
def decide_ (c : Nat) (op : EngOp) (outcome : Nat) (s : State) : State :=
  let op := { op with outcome := some outcome, read := 0 }
  if outcome = 2 then performed c op 0 op.length true s
  else (s.putEng c { op with left := [(0, op.length)] }).scheduleFree phaseAccess (.engineGranuleWrite c op.id)

/-- One granule of the fingerprint or of the full comparison; then the copy. -/
def cpyfStep (c : Nat) (op : EngOp) (fp : Word) (cand : Option Span) (s : State) : State :=
  let go (op : EngOp) (s : State) : State := (s.putEng c op).scheduleFree phaseAccess (.engineGranuleWrite c op.id)
  let wait (s : State) : State := s.schedule (s.cycle + 1) phaseHeld (.engineGranuleWrite c op.id)
  if op.outcome.isSome then copyStep c op s
  else if op.read < op.length then
    match itemGranule op op.read s with
    | none => wait s
    | some g => go { op with read := op.read + 1, print := fingerprint op.print g } s
  else
    match cand with
    | none => decide_ c op 0 s
    | some sp =>
      if op.print ≠ fp then decide_ c op 0 s
      else
        let n := op.read - op.length
        if n = op.length then (if (op.dests.head?.map (countShut op · s)).getD false then wait s else decide_ c op 2 s)
        else
          match sp.at n, itemGranule op n s with
          | some (loc, _), some g =>
            if s.busyAt loc then wait s
            else
              let k := s.view loc
              if k.data = g.data && tagOf k.sl = tagOf g.sl then go { op with read := op.read + 1 } s else decide_ c op 1 s
          | _, _ => wait s

/-! CMPR and DCMP (R273 to R275) -/

/-- The granules of the longest stream of a length (R274). -/
def streamLength (n : Nat) : Nat := n + (n + 112) / 112

/-- A block's header. -/
def blockHeader (codes : List (BitVec 2)) (zseal : Option (BitVec 32)) : Vec :=
  zseal.getD 0 ++ BitVec.ofNat 224 ((codes.mapIdx fun i c => c.toNat * 4 ^ i).sum)

/-- One granule coded, or a header written (R274). -/
def cmprStep (c : Nat) (op : EngOp) (s : State) : State :=
  let go (op : EngOp) (s : State) : State := (s.putEng c op).scheduleFree phaseAccess (.engineGranuleWrite c op.id)
  let wait (s : State) : State := s.schedule (s.cycle + 1) phaseHeld (.engineGranuleWrite c op.id)
  match op.dests with
  | [] => s
  | d :: _ =>
    let taken (n : Nat) : Bool := match d.span.at n with
      | some (loc, _) => s.busyAt loc
      | none => false
    if op.ended || op.codes.length = 112 then
      if taken op.header || countShut op d s then wait s
      else
        let s := engineWrite op d.span op.header (sealed (blockHeader op.codes op.zseal) 0x16) s
        let n := op.codes.length - (if op.ended then 1 else 0)
        let (d, s) := payWord op.who.tile { d with wrote := d.wrote + n, owed := n } s
        let op := { op with dests := [d], header := op.header + 1 + op.lits, codes := [], zseal := none, lits := 0 }
        if op.ended then endOp c op s else go op s
    else if op.read = op.length then go { op with codes := op.codes ++ [3], ended := true } s
    else
      match itemGranule op op.read s with
      | none => wait s
      | some g =>
        let coded (code : BitVec 2) (op : EngOp) (s : State) : State :=
          let op := { op with codes := op.codes ++ [code], read := op.read + 1, prev := some g }
          let (op, s) := if op.read = op.length then releaseLocks none op s else (op, s)
          go op s
        if g.data = 0 && (op.zseal.isNone || op.zseal = some g.sl) then coded 1 { op with zseal := some g.sl } s
        else if op.prev = some g then coded 2 op s
        else
          let n := op.header + 1 + op.lits
          if taken n then wait s else coded 0 { op with lits := op.lits + 1 } (engineWrite op d.span n g s)

/-- The granule that DCMP writes where it can produce none (R275). -/
def poisonGranule : Granule := sealed 0 tagPoison

/-- A DCMP with some outputs left has read its last source granule: the range's end, or an end, or no literal and no header before the
last output (07 R174). -/
def EngOp.sated (op : EngOp) (size left : Nat) : Bool :=
  let codes := (op.codes.take left).takeWhile (· ≠ 3)
  op.ended || size ≤ op.read || (codes.all (· ≠ 0) && (left ≤ op.codes.length || codes.length < op.codes.length))

/-- One output granule, or one header read (R275). An operation that has ended writes poison to its length. -/
def dcmpStep (c : Nat) (op : EngOp) (size : Nat) (s : State) : State :=
  let (n, s) := s.drawLatency
  let go (op : EngOp) (s : State) : State := (s.putEng c op).scheduleFree phaseAccess (.engineGranuleWrite c op.id)
  let wait (s : State) : State := s.schedule (s.cycle + 1) phaseHeld (.engineGranuleWrite c op.id)
  match op.dests with
  | [] => s
  | d :: _ =>
    let out (op : EngOp) (g : Granule) (s : State) : State :=
      if (match d.span.at d.wrote with
          | some (loc, _) => s.busyAt loc
          | none => false) || countShut op d s then wait s
      else
        let op := { op with prev := some g }
        let (op, s) := if op.sated size (op.length - d.wrote - 1) then releaseLocks none op s else (op, s)
        performed c op 0 1 (n % 2 = 0) (engineWrite op d.span d.wrote g s)
    if op.ended then out op poisonGranule s
    else
      match op.codes with
      | [] =>
        if size ≤ op.read then
          let (op, s) := releaseLocks none op s
          go { op with ended := true } s
        else
          match itemGranule op op.read s with
          | none => wait s
          | some g =>
            match sealCheck g (some 0x16) with
            | .ok (v, corrected) =>
              let op := { op with read := op.read + 1, zseal := some (v.extractLsb' 224 32)
                                  codes := (List.range 112).map fun i => v.extractLsb' (2 * i) 2 }
              let s := s.countCorrection op.who.tile corrected
              let (op, s) := if op.sated size (op.length - d.wrote) then releaseLocks none op s else (op, s)
              go op s
            | .error _ =>
              let (op, s) := releaseLocks none op (s.countCorrection op.who.tile (sealFixes g))
              go { op with ended := true } s
      | code :: rest =>
        let op' := { op with codes := rest }
        match code.toNat with
        | 0 =>
          if size ≤ op.read then out op' poisonGranule s
          else
            match itemGranule op op.read s with
            | none => wait s
            | some g => out { op' with read := op.read + 1 } g s
        | 1 => out op' ⟨0, op.zseal.getD 0⟩ s
        | 2 => out op' (op.prev.getD poisonGranule) s
        | _ =>
          let (op, s) := releaseLocks none op' s
          go { op with ended := true } s

/-- The granules of an operation's source range. -/
def Span.granules (sp : Span) : Nat := (sp.pieces.foldl (fun n p => n + p.size) 0) / 32

/-- ENGINE_GRANULE_WRITE: one granule of an accepted operation. -/
def execEngineGranuleWrite (cluster op : Nat) (s : State) : Result :=
  match s.engOp cluster op with
  | none => .next s
  | some o =>
    if !o.accepted then .next s
    else
      match o.kind with
      | .cpyf _ fp cand _ => .next (cpyfStep cluster o fp cand s)
      | .cmpr => .next (cmprStep cluster o s)
      | .dcmp => .next (dcmpStep cluster o ((o.src.map Span.granules).getD 0) s)
      | _ => .next (copyStep cluster o s)

/-! The instructions (R265, R266) -/

def ticketLength (t : Word) : Nat := (t.extractLsb' 0 24).toNat
def ticketWord (t : Word) : Nat := (t.extractLsb' 24 16).toNat
def ticketTag (t : Word) : BitVec 6 := t.extractLsb' 40 6

/-- A completion word that a tile may hold. -/
def Tile.wordOk (t : Tile) (cw : Nat) : Bool := cw = 0xFFFF || t.threadOwned (8 * cw) 8

/-- The completion word of an index in a tile. -/
def wordAt (tile cw : Nat) : Option (Nat × Nat) := if cw = 0xFFFF then none else some (tile, 8 * cw)

/-- Step 1. -/
def needTicket (o : Opts) (t : Word) (reserved : Word) (fill mask : Bool) : M Unit := do
  let tag := (ticketTag t).toNat
  needOk o (t &&& reserved = 0 && ticketLength t ≠ 0 && !(0x17 ≤ tag && tag ≤ 0x3E && fill) &&
    (mask || (← getTile).wordOk (ticketWord t)))

/-- The reserved bits of a ticket of an engine instruction other than FILL, and of FILL. -/
def ticketReserved : Word := 0xFFFFFF0000000000
def fillReserved : Word := 0xFFFFC00000000000

/-- Step 2 for one offset. -/
def needOff32 (off : Word) : M Unit := do
  if off.toNat % 32 ≠ 0 then trapNow cMisaligned off

/-- Steps 4 to 6 for a source and a destination, and the operation's submission. -/
def twoRanges (o : Opts) (pc : BitVec 15) (kind : EngKind) (length cw : Nat) (src dst : Reach) : M Unit := do
  needOk o (!src.overlaps dst)
  needWindow src
  needWindow dst
  let ss ← needSpan pc src .read
  let ds ← needSpan pc dst .write
  let tile := (← get).cur.tile
  let items := match kind with
    | .cpy => [(0, length)]
    | _ => []
  submit pc { id := 0, who := ⟨0, 0⟩, thread := 0, tok := 0, launch := none, kind := kind, length := length, src := some ss
              dests := [{ span := ds, word := wordAt tile cw }], left := items } fun id =>
    ss.registrations tile src.size 1 0 id none ++ ds.registrations tile dst.size 2 0 id (some 0)

/-- CPY. -/
def execCpy (f : CForm) (s : State) : Result :=
  let o := { opts32 f.w (.cpy f) with commits := true }
  issue o noChecks (fun pc => do
    let t ← getT
    let tick := t.getX f.d
    needTicket o tick ticketReserved false false
    needOff32 (t.getX f.a)
    needOff32 (t.getX f.b)
    let n := 32 * ticketLength tick
    let src ← needReach f.segS .read (t.getX f.a).toNat n
    let dst ← needReach f.segT .write (t.getX f.b).toNat n
    twoRanges o pc .cpy (ticketLength tick) (ticketWord tick) src dst) s

/-- CMPR. -/
def execCmpr (f : CForm) (s : State) : Result :=
  let o := { opts32 f.w (.cmpr f) with commits := true }
  issue o noChecks (fun pc => do
    let t ← getT
    let tick := t.getX f.d
    needTicket o tick ticketReserved false false
    needOff32 (t.getX f.a)
    needOff32 (t.getX f.b)
    let n := ticketLength tick
    let src ← needReach f.segS .read (t.getX f.a).toNat (32 * n)
    let dst ← needReach f.segT .write (t.getX f.b).toNat (32 * streamLength n)
    twoRanges o pc .cmpr n (ticketWord tick) src dst) s

/-- DCMP: its source range ends at segS's limit at the latest. -/
def execDcmp (f : CForm) (s : State) : Result :=
  let o := { opts32 f.w (.dcmp f) with commits := true }
  issue o noChecks (fun pc => do
    let t ← getT
    let tick := t.getX f.d
    needTicket o tick ticketReserved false false
    needOff32 (t.getX f.a)
    needOff32 (t.getX f.b)
    let n := ticketLength tick
    let off := (t.getX f.a).toNat
    let room := (t.getSeg f.segS).limit.toNat + 1 - off
    let src ← needReach f.segS .read off (max 1 (min room (32 * streamLength n)))
    let dst ← needReach f.segT .write (t.getX f.b).toNat (32 * n)
    twoRanges o pc .dcmp n (ticketWord tick) src dst) s

/-- CPYF: the record is read at issue (R271). -/
def execCpyf (f : CForm) (s : State) : Result :=
  let o := { opts32 f.w (.cpyf f) with commits := true }
  issue o noChecks (fun pc => do
    let t ← getT
    let tick := t.getX f.d
    needTicket o tick ticketReserved false false
    needOff32 (t.getX f.a)
    let rs ← readDescriptor o pc (t.getX f.b) 32 1
    let r := rs.headD 0
    let destOff : Word := r.extractLsb' 0 64
    let candOff : Word := r.extractLsb' 64 64
    let given := candOff ≠ ones 64
    needOff32 destOff
    if given then needOff32 candOff
    let len := ticketLength tick
    let n := 32 * len
    let src ← needReach f.segS .read (t.getX f.a).toNat n
    let dst ← needReach f.segT .write destOff.toNat n
    let cand ← (if given then do
        let c ← needReach f.segT .read candOff.toNat n
        return some c
      else return none)
    needOk o (!src.overlaps dst)
    match cand with
    | some c => needOk o (!c.overlaps dst)
    | none => pure ()
    needWindow src
    match cand with
    | some c => needWindow c
    | none => pure ()
    needWindow dst
    let ss ← needSpan pc src .read
    let cs ← (match cand with
      | some c => do
        let sp ← needSpan pc c .read
        return some sp
      | none => return none)
    let ds ← needSpan pc dst .write
    let tile := (← get).cur.tile
    let op : EngOp := { id := 0, who := ⟨0, 0⟩, thread := 0, tok := 0, launch := none
                        kind := .cpyf (t.getX f.b).toNat (r.extractLsb' 128 64) cs (r.extractLsb' 0 128), length := len, src := some ss
                        dests := [{ span := ds, word := wordAt tile (ticketWord tick) }] }
    submit pc op fun id =>
      ss.registrations tile n 1 0 id none ++ (match cs with
        | some c => c.registrations tile n 1 0 id none
        | none => []) ++ ds.registrations tile n 2 0 id (some 0)) s

/-- FILL (R276). -/
def execFill (f : AtForm) (s : State) : Result :=
  let o := { opts32 f.w (.fill f) with commits := true }
  issue o noChecks (fun pc => do
    let t ← getT
    let tick := t.getX f.d
    needTicket o tick fillReserved true false
    needOff32 (t.getX f.b)
    let len := ticketLength tick
    let dst ← needReach f.seg .write (t.getX f.b).toNat (32 * len)
    needWindow dst
    let ds ← needSpan pc dst .write
    let tile := (← get).cur.tile
    submit pc { id := 0, who := ⟨0, 0⟩, thread := 0, tok := 0, launch := none, kind := .fill (t.getX f.a) (ticketTag tick)
                length := len, dests := [{ span := ds, word := wordAt tile (ticketWord tick) }], left := [(0, len)] } fun id =>
      ds.registrations tile (32 * len) 2 0 id (some 0)) s

/-! CPYM (R270) -/

/-- Entry j of a destination list. -/
def listEntry (gs : List Vec) (j : Nat) : BitVec 128 := (gs[j / 2]?.getD 0).extractLsb' (128 * (j % 2)) 128

/-- An entry that makes CPYM illegal: its kind, its reserved bits, and what segT must be for it. -/
def listBad (e : BitVec 128) (seg : Seg) : Bool :=
  let kind := (e.extractLsb' 126 2).toNat
  kind = 0 || kind = 3 || e.extractLsb' 120 6 ≠ 0 || e.extractLsb' 64 24 ≠ 0 || (kind = 2 && e.extractLsb' 104 16 ≠ 0) ||
    (kind = 1 && seg.kind ≠ 2) || (kind = 2 && seg.kind ≠ 1)

/-- A selected destination of a CPYM, or none where it is denied. -/
def listDest (e : BitVec 128) (seg : Seg) (issuer n : Nat) (s : State) : Option Dest × State :=
  let off := (e.extractLsb' 0 64).toNat
  let cw := (e.extractLsb' 88 16).toNat
  let ok := seg.rightsOk s.pkg.rank .write (BitVec.ofNat 64 off) && seg.limitOk off n && off % 32 = 0 && seg.addr off % 32 = 0
  if !ok then (none, s)
  else if e.extractLsb' 126 2 = 1 then
    let tile := (e.extractLsb' 104 16).toNat
    let addr := seg.addr off
    let t := s.tile tile
    if s.hole tile || (t.shutGranule addr n).isSome || !t.wordOk cw then (none, s)
    else (some { span := ⟨false, addr, [⟨0, n, .sram tile addr, false⟩]⟩, word := wordAt tile cw }, s)
  else
    match (Reach.mk seg off n).span issuer .write s with
    | (.ok sp, s) => (some { span := sp, word := if 8 * cw + 8 ≤ sramSize then wordAt issuer cw else none }, s)
    | (.error _, s) => (none, s)

/-- A page of a destination parks the request. -/
def listWaits (e : BitVec 128) (seg : Seg) (issuer n : Nat) (s : State) : Bool :=
  e.extractLsb' 126 2 = 2 &&
    match ((Reach.mk seg (e.extractLsb' 0 64).toNat n).span issuer .write s).1 with
    | .error f => f.parks
    | .ok _ => false

/-- The selected entries' destinations and the mask of the denied ones. -/
def listDests (es : List (Nat × BitVec 128)) (seg : Seg) (issuer n : Nat) (s : State) : List Dest × Nat × State :=
  es.foldl (fun (p : List Dest × Nat × State) e =>
    match listDest e.2 seg issuer n p.2.2 with
    | (some d, s) => (p.1 ++ [d], p.2.1, s)
    | (none, s) => (p.1, p.2.1 + 2 ^ e.1, s)) ([], 0, s)

/-- CPYM: no destination receives if one is denied. -/
def execCpym (f : CForm) (s : State) : Result :=
  let o := { opts32 f.w (.cpym f) with commits := true }
  issue o noChecks (fun pc => do
    let t ← getT
    let tick := t.getX f.d
    needTicket o tick ticketReserved false true
    needOff32 (t.getX f.a)
    let len := ticketLength tick
    let n := 32 * len
    let gs ← readDescriptor o pc (t.getX f.b) 32 8
    let seg := t.getSeg f.segT
    let es := ((List.range 16).filter (ticketWord tick).testBit).map fun j => (j, listEntry gs j)
    needOk o (es.all fun e => !listBad e.2 seg)
    let src ← needReach f.segS .read (t.getX f.a).toNat n
    needWindow src
    let ss ← needSpan pc src .read
    let s ← get
    let tile := s.cur.tile
    if es.any fun e => listWaits e.2 seg tile n s then stop .park
    let (dests, denied, s) := listDests es seg tile n s
    set s
    if denied ≠ 0 then rollbackNow pc cMulticastDenied 0 (BitVec.ofNat 64 denied)
    if es.isEmpty then longResult pc 1 [] []
    else
      submit pc { id := 0, who := ⟨0, 0⟩, thread := 0, tok := 0, launch := none, kind := .cpym, length := len, src := some ss
                  dests := dests, left := [(0, len * dests.length)] } fun id =>
        ss.registrations tile n 1 1 id none ++
          (dests.mapIdx fun j d => d.span.registrations tile n 2 1 id (some j)).flatten) s

/-! WALK (R279) -/

/-- The writes of a walk's end. -/
def walkWrites (d : Reg) (x y : Nat) : List Write := [.x d (BitVec.ofNat 64 x), .x (d + 1) (BitVec.ofNat 64 y)]

/-- What a granule that the walker has read leads to: its end, or the next granule to read: a node's, or a block table
entry's. -/
inductive WalkNext where
  | finish (x y : Nat)
  | read (addr steps : Nat) (offset : Option Nat)
  deriving DecidableEq, Repr

/-- A node's step. -/
def walkNode (v : Vec) (p steps : Nat) : WalkNext :=
  let field (lo n : Nat) : Nat := (v.extractLsb' lo n).toNat
  let start := field 160 40
  if field 112 8 ≠ 1 then .finish 0 3
  else if start + field 120 40 ≤ p && steps = 0 then .finish 0 1
  else if start ≤ p then
    let o := p - start
    .read (field 0 56 + 8 * (o / 2 ^ field 108 4)) steps (some (o % 2 ^ field 108 4))
  else if field 200 56 = 0 then .finish 0 2
  else if steps + 1 = 64 then .finish 0 5
  else .read (field 200 56) (steps + 1) none

/-- A block table entry's. -/
def walkEntry (v : Vec) (byte offset : Nat) : WalkNext :=
  let e := v.toNat / 2 ^ (8 * byte) % 2 ^ 56
  if e = 0 then .finish 0 4 else .finish e offset

/-- A granule has come to the walker: it is checked on behalf of the thread. -/
def walkRead_ (a : Access) (g : Granule) (tok p : Nat) (d : Reg) (steps : Nat) (offset : Option Nat) (s : State) : State :=
  match sealCheck g none with
  | .error f => failAccess a (a.sealFault f) (s.countCorrection a.who.tile (sealFixes g))
  | .ok (v, corrected) =>
    let s := s.countCorrection a.who.tile corrected
    match (match offset with
      | none => walkNode v p steps
      | some o => walkEntry v a.byte o) with
    | .finish x y => landIn a.who tok none (setReply a.who tok (walkWrites d x y) (s.dropAccess a.id))
    | .read addr steps offset =>
      let addr := addr % 2 ^ 56
      let (id, s) := (s.dropAccess a.id).fresh
      let a' := { a with id := id, key := .virt (addr / 32 * 32), byte := addr % 32 / 8 * 8, kind := .walk tok p d steps offset, loc := none, stage := 1 }
      { s with accs := s.accs ++ [a'] }.scheduleFree phaseAccess (.portAccess id)

/-- WALK: long, not committing. -/
def execWalk (f : AtForm) (s : State) : Result :=
  let o := { opts32 f.w (.walk f) with long := true }
  issue o (needOk o (f.d.toNat ≤ 30)) (fun pc => do
    let t ← getT
    let g := t.getSeg f.seg
    let off := t.getX f.a
    if g.kind ≠ 1 || !g.rightsOk (← get).pkg.rank .read off then segTrap cSegmentRights f.seg off
    if !g.limitOk off.toNat 32 then segTrap cSegmentLimit f.seg off
    if off.toNat % 32 ≠ 0 || g.addr off.toNat % 32 ≠ 0 then trapNow cMisaligned off
    let cyc := (← get).cycle
    let tok ← addOutst fun tok => { tok := tok, pc := pc, fin := .reply, lands := cyc, dests := [destX f.d, destX (f.d + 1)] }
    modS (startAccess (g.key (g.addr off.toNat)) 0 32 0 (.walk tok ((t.getX f.b).toNat % 2 ^ 40) f.d 0 none))) s

end Sys2Proof.Machine
end

