-- ==== Sys2Proof/Machine/Launch.lean ====
section
/-! DEFINITION. LAUNCH, the validation of stream halves, bundles and rings, the spanning tree with DONE and the join word (11
R291 to R299, 06 R147 to R150, 08 R205, R209, 09 R232, R233). -/

namespace Sys2Proof.Machine

/-! Package rows and columns (11 R283) -/

def pkgRow (t : Nat) : Nat := tileDie t / 4 * 64 + tileRow t
def pkgCol (t : Nat) : Nat := tileDie t % 4 * 80 + tileCol t
/-- The tile at a package row and column. -/
def pkgTile (row col : Nat) : Nat := tileAt (row / 64 * 4 + col / 80) (row % 64) (col % 80)

/-! Stream halves (08 R205) -/

/-- The words of a half as a parse from word 0 meets them: address, and whether a second word follows. -/
def parseHalf (word : Nat → BitVec 16) : Nat → Nat → List (Nat × Bool)
  | 0, _ => []
  | n + 1, a => if 4096 ≤ a then [] else (a, streamTwoWords (word a)) :: parseHalf word n (if streamTwoWords (word a) then a + 2 else a + 1)

/-- The target of a two-word form at an address (08 R203). -/
def streamTarget (a : Nat) (off : BitVec 16) : Nat := (((a : Int) + off.toInt) % 4096).toNat

/-- A word that R205 rejects. -/
def streamBad (word : Nat → BitVec 16) (seconds : List Nat) (p : Nat × Bool) : Bool :=
  let second := word ((p.1 + 1) % 4096)
  match decodeStream (word p.1) second with
  | none => true
  | some i =>
    (p.2 && p.1 = 4095) ||
      (match i with
        | .streamLoop _ off => seconds.contains (streamTarget p.1 off)
        | .jump off => seconds.contains (streamTarget p.1 off)
        | .brp _ _ off => seconds.contains (streamTarget p.1 off)
        | _ => false)

/-- The first word of a half that fails, if any. -/
def halfFault (word : Nat → BitVec 16) : Option Nat :=
  let ws := parseHalf word 4096 0
  let seconds := (ws.filter (·.2)).map (·.1 + 1)
  (ws.find? (streamBad word seconds)).map (·.1)

/-- cr.info of ILLEGAL_BUNDLE for a half. -/
def halfInfo (addr : Nat) : Word := BitVec.ofNat 64 (7 + addr * 65536)

/-! Bundles (08 R209, R222) -/

/-- A tile's neighbour by link number, 24 north, 25 east, 26 south, 27 west. -/
def tileNeighbour (t port : Nat) : Option Nat :=
  let r := pkgRow t
  let c := pkgCol t
  match port with
  | 24 => if r = 0 then none else some (pkgTile (r - 1) c)
  | 25 => if c = 319 then none else some (pkgTile r (c + 1))
  | 26 => if r = 127 then none else some (pkgTile (r + 1) c)
  | 27 => if c = 0 then none else some (pkgTile r (c - 1))
  | _ => none

/-- The heading of a neighbour link (11 R286). -/
def linkHeading (port : Nat) : Nat :=
  match port with
  | 24 => 1 | 25 => 3 | 26 => 2 | _ => 0

/-- A port that a tile has (08 R222). -/
def State.portOk (s : State) (tile port : Nat) : Bool :=
  if port < 24 then
    let p := s.pkg.ports[port]?.getD {}
    p.state ≠ 0 && p.tile = tile
  else
    match tileNeighbour tile port with
    | none => false
    | some n => !s.hole n && (tileDie n = tileDie tile || !s.pkg.down.contains (clusterOf tile, linkHeading port))

/-- The generators of a lane's file that an operation names. -/
def slotGens : SlotOp → List (BitVec 3)
  | .ldr _ g _ _ => [g] | .ldy _ g _ => [g] | .ldu _ g _ _ => [g] | .sty _ g _ _ => [g] | .agset _ g _ => [g]
  | .hld _ h l _ _ => [h, l] | .hst _ h l _ _ => [h, l]
  | .zld _ g => [g] | .lsend _ g _ => [g] | .lrecv _ g _ => [g]
  | _ => []

/-- The ports that an operation names. -/
def slotLinks : SlotOp → List Nat
  | .lsend p _ _ => [p.toNat] | .lrecv p _ _ => [p.toNat] | .lpass i o _ => [i.toNat, o.toNat]
  | _ => []

/-- The operation of a slot of an entry, where it is present and no NOP. -/
def slotOpOf (e : Vec) (n : SlotName) : Option SlotOp :=
  if slotPresent e n && slotField e n ≠ 0 then decodeSlot n (slotField e n) else none

/-- A slot that R209 rejects on a tile with these ports. -/
def slotBad (ports : Nat → Bool) (e : Vec) (n : SlotName) : Bool :=
  if !slotPresent e n then slotField e n ≠ 0
  else if slotField e n = 0 then false
  else
    match decodeSlot n (slotField e n) with
    | none => true
    | some op =>
      (slotLinks op).any (fun p => !ports p) ||
        (match n with
          | .sc => match slotOpOf e .lb with
            | some l => (slotGens op).any (slotGens l).contains
            | none => false
          | .lk => match slotOpOf e .la with
            | some l => (slotGens op).any (slotGens l).contains
            | none => false
          | _ => false)

/-- The number of the first slot that fails, if any. -/
def entryFault (s : State) (tile : Nat) (e : Vec) : Option Nat := (slotNames.find? (slotBad (s.portOk tile) e)).map (·.number)

/-- cr.info of ILLEGAL_BUNDLE for an entry. -/
def entryInfo (index slot : Nat) : Word := BitVec.ofNat 64 (index * 128 + slot)

/-! Rings (09 R232, R233) -/

def ringOf (v : Vec) (j : Nat) : Ring :=
  let w : Word := v.extractLsb' (64 * j) 64
  if w.getLsbD 63 then
    { enable := true, tag := w.extractLsb' 50 6, size := w.extractLsb' 32 13, base := w.extractLsb' 0 14 }
  else {}

def Ring.first (r : Ring) : Nat := r.base.toNat
def Ring.last (r : Ring) : Nat := r.base.toNat + r.size.toNat - 1

/-- An enabled ring that R233 accepts, beside the others. -/
def ringOk (v : Vec) (banks : BitVec 24) (j : Nat) : Bool :=
  let w : Word := v.extractLsb' (64 * j) 64
  let r := ringOf v j
  !r.enable ||
    (w.extractLsb' 56 7 = 0 && w.extractLsb' 45 5 = 0 && w.extractLsb' 14 18 = 0 && r.tag.toNat < 0x17 &&
      1 ≤ r.size.toNat && r.size.toNat ≤ 4096 && r.last < 12286 &&
      (List.range r.size.toNat).all (fun i => banks.getLsbD ((r.first + i) / 512)) &&
      (List.range 4).all fun k =>
        k = j || !(ringOf v k).enable || (ringOf v k).size = 0 || (ringOf v k).last < r.first || r.last < (ringOf v k).first)

/-- The offset of the ring configuration, and of the status granule (09 R246). -/
def ringConfig : Nat := 0x5FFE0
def statusGranule : Nat := 0x5FFC0

/-- cr.info of ILLEGAL_BUNDLE for a ring of a tile. -/
def ringInfo (tile ring : Nat) : Word := BitVec.ofNat 64 (7 + 2 ^ 31 + ring * 2 ^ 28 + tile * 2 ^ 40)

/-! Reads of the launching thread at the port -/

/-- A place that the launching thread's request names, on its way over the mesh (11 R286), or out of the package (10 R255 step 1; log
38); it waits where its owner serves no threaded traffic now (13 R334). The watchdogs' page takes no request of this kind (14 R354). -/
def launchPage (mode : BitVec 2) (tile va : Nat) (need : Need) (s : State) : Except PortFault Found × State :=
  match (if rankOf va = s.pkg.rank then pageOf s tile mode va need else forwardPage s (rankOf va) va need) with
  | (.error f, s) =>
    match (if rankOf va = s.pkg.rank then builtinPage va else none) with
    | some (.watchdog _, _) => (.error (if mode = 3 && need = .read then { f with code := cMisaligned, sub := 0 } else f), s)
    | _ => (.error f, s)
  | (.ok f, s) =>
    match f.loc.cluster.bind fun c => pathFault s (clusterOf tile) c with
    | some i => (.error (routeInvalid i), s)
    | none => if s.hbmShut f.loc then (.error parksHere, s) else (.ok f, s)

/-- A granule read at an address for the launching thread: translated, and refused where a pinned page is. -/
def launchRead (mode : BitVec 2) (tile va : Nat) (s : State) : Except PortFault Granule × State :=
  match launchPage mode tile va .read s with
  | (.error f, s) => (.error f, s)
  | (.ok f, s) =>
    match f.loc with
    | .sram t off =>
      if !(s.tile t).openGranule off then (.error { code := cWindowViolation, info := BitVec.ofNat 64 off }, s)
      else if (s.tile t).locked false false off (off + 31) then (.error { code := cRangeLocked, info := BitVec.ofNat 64 va }, s)
      else (.ok (s.view f.loc), s)
    | loc => (.ok (s.view loc), s)

/-- A granule's data, checked for the launching thread's tile (01 R34). -/
def checkedFor (tile va : Nat) (g : Granule) (s : State) : Except PortFault Vec × State :=
  match sealCheck g none with
  | .ok (d, corrected) => (.ok d, s.countCorrection tile corrected)
  | .error f => (.error { code := cSealFault, sub := f.sub, info := BitVec.ofNat 64 (va / 32 * 32) }, s.countCorrection tile (sealFixes g))

/-- The same, checked. -/
def launchData (mode : BitVec 2) (tile va : Nat) (s : State) : Except PortFault Vec × State :=
  match launchRead mode tile va s with
  | (.error f, s) => (.error f, s)
  | (.ok g, s) => checkedFor tile va g s

/-- n granules from an address up. -/
def launchRun (mode : BitVec 2) (tile : Nat) : Nat → Nat → State → Except PortFault (List Vec) × State
  | _, 0, s => (.ok [], s)
  | va, n + 1, s =>
    match launchData mode tile va s with
    | (.error f, s) => (.error f, s)
    | (.ok d, s) =>
      match launchRun mode tile (va + 32) n s with
      | (.error f, s) => (.error f, s)
      | (.ok ds, s) => (.ok (d :: ds), s)

/-! The descriptor (11 R292) -/

def Launch.height (l : Launch) : Nat := l.field 81 8
def Launch.width (l : Launch) : Nat := l.field 89 9
def Launch.row0 (l : Launch) : Nat := l.field 65 3 / 4 * 64 + l.field 68 6
def Launch.col0 (l : Launch) : Nat := l.field 65 3 % 4 * 80 + l.field 74 7
def Launch.tolerant (l : Launch) : Bool := l.desc.getLsbD 104
def Launch.rotation (l : Launch) : Nat := if l.desc.getLsbD 101 then 8 else 4
def Launch.window (l : Launch) : Nat :=
  match l.field 102 2 with
  | 0 => 48 | 1 => 96 | 2 => 192 | _ => 384
def Launch.tree (l : Launch) : Nat := l.field 106 2
def Launch.ratio (l : Launch) : Nat := l.field 108 5
def Launch.steward (l : Launch) : Who := ⟨l.field 116 16, l.field 113 3⟩
def Launch.fcount (l : Launch) : Nat := l.field 172 4
def Launch.freg (l : Launch) (j : Nat) : Nat := l.field (176 + 9 * j) 9
def Launch.fregs (l : Launch) : List Nat := (List.range l.fcount).map l.freg
def Launch.subg (l : Launch) : Nat := l.field 49 3
def Launch.poolg (l : Launch) : Nat := l.field 25 24
def Launch.entry (l : Launch) : BitVec 15 := l.desc.extractLsb' 0 15
def Launch.joinVa (l : Launch) : Nat := l.field 456 56
def Launch.pool (l : Launch) : Nat := l.field 400 56

/-- The rectangle lies in the package grid. -/
def Launch.inGrid (l : Launch) : Bool :=
  1 ≤ l.height && l.height ≤ 128 && 1 ≤ l.width && l.width ≤ 320 && l.field 74 7 < 80 && l.row0 + l.height ≤ 128 &&
    l.col0 + l.width ≤ 320

/-- The tile at rectangle row r and column c. -/
def Launch.tileAt (l : Launch) (r c : Nat) : Nat := pkgTile (l.row0 + r) (l.col0 + c)
/-- Rectangle row and column of a tile. -/
def Launch.rowOf (l : Launch) (t : Nat) : Nat := pkgRow t - l.row0
def Launch.colOf (l : Launch) (t : Nat) : Nat := pkgCol t - l.col0

/-- The tiles of the rectangle in snake order (06 R148). -/
def Launch.snake (l : Launch) : List Nat :=
  (List.range (l.height * l.width)).map fun i =>
    let r := i / l.width
    l.tileAt r (if r % 2 = 0 then i % l.width else l.width - 1 - i % l.width)

/-- Step 1 of R294. -/
def launchOk (s : State) (l : Launch) : Bool :=
  let present := l.snake.filter fun t => !s.hole t
  let q := if l.tolerant then present else l.snake
  let sw := l.steward
  l.field 15 10 = 0 && l.field 0 2 = 0 && l.inGrid && l.items ≠ 0 && l.fcount ≤ 8 && l.perTile ≤ l.rotation &&
    l.perTile * l.window ≤ registerFile && l.fregs.all (fun v => v < l.window) && l.fregs.eraseDups.length = l.fcount &&
    l.ratio ≤ 16 && l.tree ≠ 3 && l.poolg ≠ 0 && (l.subg = 0 || (l.tree = 2 && !l.tolerant)) &&
    (!l.region ||
      (q.contains sw.tile && !s.hole sw.tile && sw.slot < l.perTile && sw.slot * q.length + q.findIdx (· = sw.tile) < l.items)) &&
    (l.fcount = 0 || l.field 248 16 < l.poolg) && l.field 52 13 ≤ l.poolg && l.joinVa % 8 = 0

/-- A busy tile (step 2). -/
def Tile.busy (t : Tile) : Bool := t.launch.isSome || t.slots.toList.any fun sl => sl.thread.isSome || sl.victim.isSome

/-- The status of step 2, with nothing changed; 0 lets the launch go on. -/
def claimStatus (s : State) (l : Launch) : Nat :=
  let present := l.snake.filter fun t => !s.hole t
  if (!l.tolerant && present.length ≠ l.snake.length) || present.isEmpty then 2
  else if present.any fun t => (s.tile t).busy then 1
  else if l.region && s.regions.any (fun r => r.2.ratio ≠ l.ratio) then 3
  else 0

/-! Subgroups (11 R295) -/

def Launch.squareSide (l : Launch) : Nat := 2 ^ l.subg
def Launch.squaresWide (l : Launch) : Nat := (l.width + l.squareSide - 1) / l.squareSide
def Launch.squareCount (l : Launch) : Nat := if l.subg = 0 then 0 else (l.height + l.squareSide - 1) / l.squareSide * l.squaresWide
/-- The square of a rectangle place. -/
def Launch.squareOf (l : Launch) (r c : Nat) : Nat := r / l.squareSide * l.squaresWide + c / l.squareSide

/-! Step 3: reads -/

/-- The join word and the subgroup words, translated for atomics. -/
def joinPlaces (mode : BitVec 2) (tile va : Nat) : Nat → State → Except PortFault (List Loc) × State
  | 0, s => (.ok [], s)
  | n + 1, s =>
    match launchPage mode tile (va % 2 ^ 56) .atomic s with
    | (.error f, s) => (.error f, s)
    | (.ok f, s) =>
      match joinPlaces mode tile (va + 8) n s with
      | (.error f, s) => (.error f, s)
      | (.ok ls, s) => (.ok (f.loc :: ls), s)

/-- The seed granules of a launch: item −m and register j that some item needs (06 R150), with their addresses. -/
def seedsNeeded (l : Launch) : List (Nat × Nat) :=
  (List.range l.fcount).flatMap fun j =>
    ([1, 2, 3].filter fun m => [0, 1, 2].any fun i => i < l.items && m + i ≤ 3).map fun m => (j, m)

def readSeeds (mode : BitVec 2) (tile base : Nat) : List (Nat × Nat) → State → Except PortFault (List ((Nat × Nat) × Granule × Nat)) × State
  | [], s => (.ok [], s)
  | (j, m) :: rest, s =>
    let va := base + (3 * j + m - 1) * 32
    match launchRead mode tile va s with
    | (.error f, s) => (.error f, s)
    | (.ok g, s) =>
      match readSeeds mode tile base rest s with
      | (.error f, s) => (.error f, s)
      | (.ok gs, s) => (.ok (((j, m), g, va) :: gs), s)

/-- The ring configurations of tiles, or the first that fails; each tile counts the correction of its own (log 80). -/
def readRings (banks : BitVec 24) : List Nat → State → Except PortFault (List (Nat × Vec)) × State
  | [], s => (.ok [], s)
  | t :: rest, s =>
    match sealCheck (s.granule (.sram t ringConfig)) none with
    | .error _ => (.error { code := cIllegalBundle, info := ringInfo t 0 }, s.countCorrection t (sealFixes (s.granule (.sram t ringConfig))))
    | .ok (v, corrected) =>
      let s := s.countCorrection t corrected
      match (List.range 4).find? fun j => !ringOk v banks j with
      | some j => (.error { code := cIllegalBundle, info := ringInfo t j }, s)
      | none =>
        match readRings banks rest s with
        | (.error f, s) => (.error f, s)
        | (.ok vs, s) => (.ok ((t, v) :: vs), s)

/-- What a region's image holds: H0 and the bundle table. -/
structure Image where
  half : Tab (BitVec 16) := []
  bundles : Tab Vec := []
  deriving Repr

/-- A word of a half given by its granules. -/
def halfWord (gs : List Vec) (a : Nat) : BitVec 16 := (gs[a / 16]?.getD 0).extractLsb' (16 * (a % 16)) 16

/-- The region image read and validated for every tile. -/
def readImage (s : State) (mode : BitVec 2) (tile va : Nat) (tiles : List Nat) : Except PortFault Image × State :=
  match launchRun mode tile va 768 s with
  | (.error f, s) => (.error f, s)
  | (.ok gs, s) =>
    let half := gs.take 256
    let entries := gs.drop 256
    match halfFault (halfWord half) with
    | some a => (.error { code := cIllegalBundle, info := halfInfo a }, s)
    | none =>
      match (entries.mapIdx fun i e => (i, e)).findSome? fun p =>
          tiles.findSome? fun t => (entryFault s t p.2).map fun n => entryInfo p.1 n with
      | some info => (.error { code := cIllegalBundle, info := info }, s)
      | none =>
        (.ok { half := ((List.range 4096).map fun a => (a, halfWord half a)).filter (·.2 ≠ 0)
               bundles := (entries.mapIdx fun i e => (i, e)).filter (·.2 ≠ 0) }, s)

/-! The halt distance (08 R229) -/

/-- The latency from one cluster to another: 9 a hop, and the crossings of the path, east or west first. -/
def pairLatency (s : State) (a b : Nat) : Nat := go (hops a b) a
where
  go : Nat → Nat → Nat
    | 0, _ => 0
    | n + 1, c =>
      let h : BitVec 2 := if gridCol c < gridCol b then 3 else if gridCol b < gridCol c then 0
        else if gridRow c < gridRow b then 2 else 1
      match neighbour c h with
      | none => 0
      | some d => 9 + (if d / 320 = c / 320 then 0 else Tab.get 0 s.pkg.crossing (c * 4 + h.toNat)) + go n d

/-- D: 2 plus the largest latency of an ordered pair. -/
def haltDistance (s : State) (tiles : List Nat) : Nat :=
  let cs := (tiles.map clusterOf).eraseDups
  2 + (cs.flatMap fun a => cs.map fun b => pairLatency s a b).foldl max 0

/-- S, in a group never below the halt distance (13 R326, 16 R379). -/
def stallDistance (s : State) (d : Nat) : Nat := if s.pkg.gsize ≤ 1 then d else max d s.pkg.sgroup

/-! Region start over a group (16 R380) -/

/-- The group time on which group region k begins, once every member's ready token has come. -/
def readyTime (p : Pkg) (k : Nat) : Option Nat :=
  let ts := p.tokens.filter (·.2.1 = k)
  if (List.range p.gsize).all fun i => ts.any (·.1 = i) then
    some (((ts.map (·.2.2)).foldl max 0 + p.sgroup + 4095) / 4096 * 4096)
  else none

/-- The ready tokens of a group region taken. -/
def dropTokens (k : Nat) (s : State) : State := { s with pkg := { s.pkg with tokens := s.pkg.tokens.filter (·.2.1 ≠ k) } }

/-- Every region whose group region is ready in all members is given its start. -/
def startGroup (s : State) : State :=
  s.regions.foldl (fun s r =>
    match (if r.2.started then none else readyTime s.pkg r.2.index) with
    | none => s
    | some time => (dropTokens r.2.index s).schedule (max s.cycle (time - s.pkg.gtime)) phaseLand (.regionStart r.1)) s

/-! Steps 4 to 6 -/

/-- A tile's timed plane as a region begins on it (08 R201, R207, R210, R227, 09 R234, R246, 13 R321, R330). -/
def Timed.begin (t : Timed) (img : Image) (rings : Vec) (id : Nat) : Timed :=
  { t with
    h0 := img.half, h1 := [], ready := false, edits := t.edits + 1, markId := 0, snapId := 0, swap := false, bundles := img.bundles, files := {}
    snap := some {}, snapAt := 0, post := Vector.replicate 16 0, arrived := 0, rings := Vector.ofFn fun j : Fin 4 => ringOf rings j
    arrayFree := 0, flags := 0, arrayops := 0, discards := 0
    transfers := t.transfers.map fun x => { x with checked := false }
    seqr := .word, turn := 0, marked := false, controls := 0, addr := 0, region := some id }

/-- The thread of a position. -/
def launchThread (l : Launch) (id serial p cycle : Nat) (w : Who) : Thread :=
  let t := { Thread.born serial l.entry 0 l.window with
    seg := (Vector.replicate 8 ({} : Seg)).setIfInBounds 7
      { kind := 1, rights := 1, limit := BitVec.ofNat 48 (32 * l.poolg - 1), base := BitVec.ofNat 56 l.pool }
    item := BitVec.ofNat 40 p, ttab := BitVec.ofNat 13 (l.field 52 13), run := some ⟨id, p⟩, fregs := l.fregs, launch := some id
    resumeAt := cycle + 1, hash := BitVec.ofNat 64 (w.tile * 8 + w.slot) }
  { t with shadow := t.snapshot [] }

/-- A tile set up (step 5). -/
def setTileUp (l : Launch) (id : Nat) (img : Option (Image × List (Nat × Vec))) (s : State) (tile : Nat) : State :=
  let (n, s) := (s.serial, { s with serial := s.serial + 8 })
  let i := l.tiles.findIdx (· = tile)
  s.modTile tile fun t =>
    { t with
      width := l.rotation, banks := BitVec.ofNat 24 (l.field 264 24), launch := some id
      slots := t.slots.mapIdx fun k sl =>
        let p := k * l.tiles.length + i
        if k < l.perTile && p < l.items then
          { sl with thread := some (launchThread l id (n + k) p s.cycle ⟨tile, k⟩), victim := none, evict := none, fwd := [] }
        else { sl with fwd := [] }
      timed := match img with
        | some (im, rings) => t.timed.begin im (Tab.get 0 rings tile) id
        | none => t.timed }

/-- A seed delivered to the items that need it (06 R150). -/
def deliverSeed (l : Launch) (s : State) (p : (Nat × Nat) × Granule × Nat) : State :=
  [0, 1, 2].foldl (fun s i =>
    if i < l.items && p.1.2 + i ≤ 3 then s.modSlot (l.place (i % l.positions)) (·.fwdPut ⟨i, p.1.1, p.1.2 + i⟩ (.value p.2.1 (some p.2.2))) else s) s

/-- The ports of the rectangle's clusters: group ids, and empty translation caches. -/
def setPorts (l : Launch) (gtab : List Vec) (s : State) : State :=
  (l.snake.map clusterOf).eraseDups.foldl (fun s c =>
    s.modCluster c fun k =>
      { k with
        cache := []
        group := if gtab.isEmpty then k.group else (byteOf (gtab[c / 32]?.getD 0) (c % 32)).setWidth 6 }) s

/-- The launch committed: tiles claimed and set up, threads created, the region prepared; LAUNCH lands a free latency later,
on cycle L, and region cycle 0 falls on L + D. -/
def commitLaunch (a : Access) (tok : Nat) (d : Reg) (l : Launch) (gtab : List Vec) (seeds : List ((Nat × Nat) × Granule × Nat))
    (img : Option (Image × List (Nat × Vec))) (s : State) : State :=
  let (id, s) := s.fresh
  let s := setPorts l gtab s
  let s := l.tiles.foldl (setTileUp l id img) s
  let s := { s with launches := Tab.put s.launches id l }
  let s := seeds.foldl (deliverSeed l) s
  let (n, s) := s.drawLatency
  let s := (setReply a.who tok [.x d 0] (s.dropAccess a.id)).schedule (s.cycle + n) phaseLand (.longResultLands a.who tok)
  -- a tile on which no position receives an item has nothing to wait for (R297)
  let s := l.tiles.foldl (fun s t => s.schedule (s.cycle + n) phaseAccess (.done id t)) s
  if !l.region then s
  else
    let dist := haltDistance s l.tiles
    let r : Region :=
      { launch := id, tiles := l.tiles, ratio := l.ratio, d := dist, s := stallDistance s dist, steward := l.steward
        stewardSerial := ((s.thread l.steward).map (·.serial)).getD 0, index := s.pkg.regions }
    let s : State := { s with regions := Tab.put s.regions id r, pkg := { s.pkg with regions := s.pkg.regions + 1 } }
    if s.pkg.gsize ≤ 1 then s.schedule (s.cycle + n + dist) phaseLand (.regionStart id)
    else if s.pkg.aborted.contains r.index then s.schedule (s.cycle + n) phaseLand (.tokenArrival (.abort r.index))
    else startGroup { s with pkg := { s.pkg with tokens := s.pkg.tokens ++ [(s.pkg.gindex, r.index, s.pkg.gtime + s.cycle + n)] } }

/-- A launch that ends with a status and nothing changed. -/
def launchStatus (a : Access) (tok : Nat) (d : Reg) (status : Nat) (s : State) : State :=
  landIn a.who tok none (setReply a.who tok [.x d (BitVec.ofNat 64 status)] (s.dropAccess a.id))

/-- A launch comes again on the next cycle. -/
def launchAgain (a : Access) (s : State) : State := s.schedule (s.cycle + 1) phaseAccess (.portAccess a.id)

/-- A read of a launch fails, or parks. -/
def failLaunch (a : Access) (f : PortFault) (s : State) : State := if f.parks then launchAgain a s else failAccess a f s

/-- The reads of step 3, and the launch committed if none fails. -/
def launchReads (a : Access) (tok : Nat) (d : Reg) (l : Launch) (s : State) : State :=
  let tile := a.who.tile
  match joinPlaces a.mode tile l.joinVa (1 + l.squareCount) s with
  | (.error f, s) => failLaunch a f s
  | (.ok words, s) =>
    let gt := l.field 344 56
    match (if gt = 0 then (.ok [], s) else launchRun a.mode tile gt 80 s) with
    | (.error f, s) => failLaunch a f s
    | (.ok gtab, s) =>
      match (if l.fcount = 0 then (.ok [], s) else launchRun a.mode tile (l.pool + 32 * l.field 248 16) 1 s) with
      | (.error f, s) => failLaunch a f s
      | (.ok recs, s) =>
        match readSeeds a.mode tile ((recs.headD 0).extractLsb' 0 56).toNat (seedsNeeded l) s with
        | (.error f, s) => failLaunch a f s
        | (.ok seeds, s) =>
          let l := { l with join := words.headD (.hbm 0), squares := words.drop 1 }
          if !l.region then commitLaunch a tok d l gtab seeds none s
          else
            match readImage s a.mode tile (l.field 288 56) l.tiles with
            | (.error f, s) => failLaunch a f s
            | (.ok img, s) =>
              match readRings (BitVec.ofNat 24 (l.field 264 24)) l.tiles s with
              | (.error f, s) => failLaunch a f s
              | (.ok rings, s) => commitLaunch a tok d l gtab seeds (some (img, rings)) s

/-- The two granules of the descriptor, through the segment's address, or as another package has sent them (16 R388). -/
def readLaunch (a : Access) (s : State) : Except PortFault (BitVec 512) × State :=
  let both (get : Nat → State → Except PortFault Vec × State) : Except PortFault (BitVec 512) × State :=
    match get 0 s with
    | (.error f, s) => (.error f, s)
    | (.ok lo, s) =>
      match get 32 s with
      | (.error f, s) => (.error f, s)
      | (.ok hi, s) => (.ok (hi ++ lo), s)
  match a.key with
  | .own off => both fun n s => checkedFor a.who.tile (off + n) (s.granule (.sram a.who.tile (off + n))) s
  | .virt va =>
    match a.data with
    | [g0, g1] => both fun n s => checkedFor a.who.tile (va + n) (if n = 0 then g0 else g1) s
    | _ => both fun n s => launchData a.mode a.who.tile (va + n) s

/-- A launch joins those that the arbiter serves, in the order of their arrival. -/
def joinArbiter (id : Nat) (s : State) : State :=
  let waiting := s.pkg.arbiter.filter fun i => (s.access i).isSome
  { s with pkg := { s.pkg with arbiter := if waiting.contains id then waiting else waiting ++ [id] } }

/-- A launch at the arbiter (R294): those before it are served first, and its thread's stores have performed at package scope. -/
def serveLaunch (a : Access) (tok : Nat) (d : Reg) (value : Word) (s : State) : State :=
  let s := joinArbiter a.id s
  if s.pkg.arbiter.head? ≠ some a.id || pendingWithin s a.who a.thread 4 then launchAgain a s
  else
    match readLaunch a s with
    | (.error f, s) => failLaunch a f s
    | (.ok desc, s) =>
      let l : Launch := { desc := desc }
      if !launchOk s l then failAccess a { code := cIllegalOperand, info := value } s
      else
        match claimStatus s l with
        | 0 => launchReads a tok d { l with tiles := l.snake.filter fun t => !s.hole t } s
        | n => launchStatus a tok d n s

/-- LAUNCH (R291). -/
def execLaunch (w : Bool) (d a : Reg) (seg : BitVec 3) (s : State) : Result :=
  let o := { opts32 w (.launch w d a seg) with commits := true }
  issue o (needMode o 1) (fun pc => do
    let t ← getT
    let off := (t.getX a).toNat
    let g ← needSeg seg .read off 64
    let addr := g.addr off
    needAligned (off % 32 = 0 && addr % 32 = 0) off
    if g.kind = 2 then needOwn false addr 64
    let cyc := (← get).cycle
    let tok ← addOutst fun tok => { tok := tok, pc := pc, fin := .reply, lands := cyc, dests := [destX d] }
    modS fun s =>
      let (id, s) := s.fresh
      let a : Access :=
        { id := id, who := s.cur, thread := t.serial, key := g.key addr, size := 64, kind := .launch tok d o.value, stage := 0
          launch := t.launch, mode := t.status.mode }
      { s with accs := s.accs ++ [a] }.schedule (s.cycle + 1) phaseAccess (.portAccess id)) s

/-! The spanning tree (R296) -/

/-- The lowest set bit of a number below 512. -/
def lowBit (n : Nat) : Nat := ((List.range 9).find? n.testBit).getD 9

/-- The parent of a rectangle place other than (0, 0). -/
def treeParent (tree r c : Nat) : Nat × Nat :=
  match tree with
  | 0 => if c > 0 then (r, c - 1) else (r - 1, 0)
  | 1 => if r > 0 then (r - 1, c) else (0, c - 1)
  | _ =>
    let k := 2 ^ lowBit (r ||| c)
    (r - (if r / k % 2 = 1 then k else 0), c - (if c / k % 2 = 1 then k else 0))

/-- The level of a place under tree 2. -/
def treeLevel (r c : Nat) : Nat := lowBit (r ||| c)

/-- The root: the tile at (0, 0), or where that is a hole the first of the sequence. -/
def Launch.root (l : Launch) : Nat := if l.tiles.contains (l.tileAt 0 0) then l.tileAt 0 0 else l.tiles.headD 0

/-- The present parent of a tile other than the root. -/
def Launch.parent (l : Launch) (tile : Nat) : Nat := go 512 (l.rowOf tile) (l.colOf tile)
where
  go : Nat → Nat → Nat → Nat
    | 0, _, _ => l.root
    | n + 1, r, c =>
      if r = 0 && c = 0 then l.root
      else
        let p := treeParent l.tree r c
        let t := l.tileAt p.1 p.2
        if l.tiles.contains t then t else if p.1 = 0 && p.2 = 0 then l.root else go n p.1 p.2

def Launch.children (l : Launch) (tile : Nat) : List Nat := l.tiles.filter fun t => t ≠ l.root && t ≠ tile && l.parent t = tile

/-! DONE (R297) -/

/-- The items field's largest value. -/
def maxItems : Nat := 2 ^ 29 - 1

/-- A thread that the launch created on a tile still runs, there or spilled. -/
def launchRunning (s : State) (id tile : Nat) : Bool :=
  (s.tile tile).slots.toList.any fun sl =>
    (match sl.thread with
      | some t => (t.run.map (·.launch)) = some id
      | none => false) ||
    (match sl.victim with
      | some v => (v.thread.run.map (·.launch)) = some id
      | none => false)

/-- A status with others added (R297). -/
def addStatus (a : Nat × Nat) (got : List (Nat × Nat × Nat × Nat)) : Nat × Nat :=
  got.foldl (fun a g => (max a.1 g.2.1, min maxItems (a.2 + g.2.2.1))) a

/-- Whether a tile is the origin of a square, and its square's tiles. -/
def Launch.isOrigin (l : Launch) (tile : Nat) : Bool :=
  l.subg ≠ 0 && l.rowOf tile % l.squareSide = 0 && l.colOf tile % l.squareSide = 0
def Launch.squareTiles (l : Launch) (tile : Nat) : List Nat :=
  l.tiles.filter fun t => l.squareOf (l.rowOf t) (l.colOf t) = l.squareOf (l.rowOf tile) (l.colOf tile)

/-- The square's update asked for, once the origin and its children of lower levels are done. -/
def askSquare (id tile : Nat) (l : Launch) (s : State) : State :=
  let p := l.part tile
  let lower := (l.children tile).filter fun t => treeLevel (l.rowOf t) (l.colOf t) < l.subg
  let got := p.got.filter fun g => lower.contains g.1 && g.2.2.2 ≤ s.cycle
  if p.squared || !l.isOrigin tile || got.length ≠ lower.length then s
  else
    let st := addStatus (p.cls, min maxItems p.items) got
    let u : JoinUpdate := { loc := l.squares[l.squareOf (l.rowOf tile) (l.colOf tile)]?.getD l.join, cls := st.1, items := st.2
                            tiles := l.squareTiles tile, root := false }
    (s.modLaunch id fun l => { l.modPart tile (fun p => { p with squared := true }) with updates := l.updates ++ [u] }).schedule
      s.cycle phaseAccess (.joinUpdate id)

/-- A tile's DONE: it leaves the launch, and its status goes to its parent, or into the join word. -/
def sendDone (id tile : Nat) (l : Launch) (s : State) : State :=
  let p := l.part tile
  let st := addStatus (p.cls, min maxItems p.items) p.got
  let s := s.modTile tile fun t => if t.launch = some id then { t with launch := none } else t
  let s := s.modLaunch id (·.modPart tile fun p => { p with sent := true })
  if tile = l.root then
    (s.modLaunch id fun l => { l with updates := l.updates ++ [{ loc := l.join, cls := st.1, items := st.2, tiles := l.tiles, root := true }] }).schedule
      s.cycle phaseAccess (.joinUpdate id)
  else
    let (n, s) := s.drawLatency
    let parent := l.parent tile
    (s.modLaunch id (·.modPart parent fun p => { p with got := p.got ++ [(tile, st.1, st.2, s.cycle + n)] })).schedule (s.cycle + n) phaseAccess
      (.done id parent)

/-- DONE. -/
def execDone (launch tile : Nat) (s : State) : Result :=
  let l := s.launch launch
  let p := l.part tile
  if !s.launches.any (·.1 = launch) || p.sent || launchRunning s launch tile || (l.region && !p.regionDone) then .next s
  else
    let s := askSquare launch tile l s
    let l := s.launch launch
    let p := l.part tile
    let waiting := l.isOrigin tile && (!p.squared || l.updates.any fun u => !u.root && u.loc = l.squares[l.squareOf (l.rowOf tile) (l.colOf tile)]?.getD l.join)
    if waiting || (p.got.filter (·.2.2.2 ≤ s.cycle)).length ≠ (l.children tile).length then .next s
    else .next (sendDone launch tile l s)

/-! The join word (R298) -/

/-- Writes of the threads of some tiles of a launch that have not performed at package scope. -/
def launchPending (s : State) (id : Nat) (tiles : List Nat) : Bool :=
  s.accs.any (fun a => a.launch = some id && tiles.contains a.who.tile && a.stores) ||
    s.clusters.any (fun c => c.2.engine.any fun o => o.launch = some id && tiles.contains o.who.tile) ||
    tiles.any fun t => (s.tile t).streams.toList.any fun st => match st with
      | some st => st.freeing && !st.drain.isEmpty
      | none => false

/-- The word with a status combined into it. -/
def joinWord (old cls items : Nat) : Nat :=
  let c := max (old / 2 ^ 29 % 8) cls
  let n := min maxItems (old % 2 ^ 29 + items)
  (old / 2 ^ 32 + 1) % 2 ^ 32 * 2 ^ 32 + c * 2 ^ 29 + n

/-- One indivisible update of a doubleword of a granule at its owner, for a tile, or for firmware. -/
def updateWord (asker : Option Nat) (loc : Loc) (f : Nat → Nat) (s : State) : State :=
  if loc.far then s else
  let old := s.granule loc
  let byte := loc.addr % 32
  let d := match sealCheck old none with
    | .ok (d, _) => d
    | .error _ => old.data
  let v := f (d.toNat / 2 ^ (8 * byte) % 2 ^ 64)
  let (g, corrected) := mergeGranule old (BitVec.ofNat 256 (v * 2 ^ (8 * byte))) (bytesAt byte 8) none
  afterWrite loc (bytesAt byte 8) (countFor asker corrected (s.setGranule loc g))

/-- A join word has changed: the dispatcher retries its entry (15 R367). -/
def wakeDispatch (s : State) : State :=
  if s.pkg.retry then { s with pkg := { s.pkg with retry := false } }.scheduleFree phaseAccess .dispatch else s

/-- JOIN_UPDATE: the first update of the launch; with the root's, the launch is over. -/
def execJoinUpdate (launch : Nat) (s : State) : Result :=
  let l := s.launch launch
  match l.updates with
  | [] => .next s
  | u :: rest =>
    if launchPending s launch u.tiles || s.busyAt u.loc then .next (s.schedule (s.cycle + 1) phaseAccess (.joinUpdate launch))
    else
      let asker := if u.root then l.root else (u.tiles.find? l.isOrigin).getD l.root
      let s := wakeDispatch (updateWord (some asker) u.loc (fun old => joinWord old u.cls u.items) s)
      if u.root then .next { s with launches := Tab.erase s.launches launch }
      else
        let s := s.modLaunch launch fun l => { l with updates := rest }
        let s := if rest.isEmpty then s else s.schedule s.cycle phaseAccess (.joinUpdate launch)
        .next (u.tiles.foldl (fun s t => if l.isOrigin t then s.schedule s.cycle phaseAccess (.done launch t) else s) s)

/-! Abandoning a launch (R299) -/

/-- A thread of an abandoned launch stops, and ends once it has drained. -/
def abandonThread (id cls : Nat) (s : State) (w : Who) : State :=
  let stop (t : Thread) : Thread :=
    { t.raiseClass cls with fatal := some (t.fatal.getD { code := 0, info := 0, epc := t.pc, fpc := t.pc }), wait := none, halted := none }
  let s := s.modSlot w fun sl =>
    { sl with victim := sl.victim.map fun v => if v.thread.launch = some id then { v with thread := stop v.thread } else v }
  match s.thread w with
  | none => s
  | some t =>
    if t.launch ≠ some id then s
    else
      let s := s.setThread w (stop t)
      if t.outst.isEmpty then s.schedule s.cycle phaseLand (.threadFatal w) else s

/-- LAUNCH_ABANDON: a region's part is over with it, once its dump is complete (14 R351). -/
def execLaunchAbandon (launch cls : Nat) (s : State) : Result :=
  let l := s.launch launch
  let s := l.tiles.foldl (fun s t => (List.range 8).foldl (fun s k => abandonThread launch cls s ⟨t, k⟩) s) s
  let dumping := s.dies.any fun d => d.2.dumps.any fun r => r.kind = 1 && r.region = launch
  let s := s.modLaunch launch fun l =>
    { l.tiles.foldl (fun l t => l.modPart t fun p => { p with cls := max p.cls cls, regionDone := !dumping }) l with abandoned := true }
  .next (l.tiles.foldl (fun s t => s.schedule (s.cycle + 1) phaseAccess (.done launch t)) s)

end Sys2Proof.Machine
end

