-- ==== Sys2Proof/Machine/Regions.lean ====
section
/-! DEFINITION. Running regions: their steward, deviation records, faults, halts, rollbacks and freezes (08 R227 to R231, 13
R317 to R329, 14 R338). -/

namespace Sys2Proof.Machine

/-! Regions and their tiles -/

def State.region (s : State) (id : Nat) : Option Region := (s.regions.find? (·.1 = id)).map (·.2)
def State.modRegion (s : State) (id : Nat) (f : Region → Region) : State :=
  match s.region id with
  | some r => { s with regions := Tab.put s.regions id (f r) }
  | none => s

/-- The region that a tile runs in, with its number. -/
def State.tileRegion (s : State) (tile : Nat) : Option (Nat × Region) :=
  match (s.tile tile).timed.region with
  | some id => (s.region id).map fun r => (id, r)
  | none => none

def State.modTimed (s : State) (tile : Nat) (f : Timed → Timed) : State := s.modTile tile fun t => { t with timed := f t.timed }

/-- The tiles of a region issue on this cycle (08 R204, 13 R326). -/
def Region.issues (r : Region) : Bool := r.started && !r.frozen && !r.halted && r.stopped.isNone

/-- Its region cycle stands still (13 R318). -/
def Region.still (r : Region) : Bool := !r.issues

/-! The steward (06 R147, 08 R230) -/

/-- The steward's thread changed, where it stands or where it is spilled. -/
def modSteward (r : Region) (f : Thread → Thread) (s : State) : State :=
  s.modSlot r.steward fun sl =>
    { sl with
      thread := sl.thread.map fun t => if t.serial = r.stewardSerial then f t else t
      victim := sl.victim.map fun v => if v.thread.serial = r.stewardSerial then { v with thread := f v.thread } else v }

/-- The steward has not ended. -/
def stewardLives (s : State) (r : Region) : Bool :=
  let sl := s.slot r.steward
  (match sl.thread with
    | some t => t.serial = r.stewardSerial
    | none => false) ||
  (match sl.victim with
    | some v => v.thread.serial = r.stewardSerial
    | none => false)

/-- Interrupt input 3 of the steward (03 R75). -/
def tellSteward (r : Region) (s : State) : State := modSteward r (fun t => { t with ipend := t.ipend ||| 8 }) s

/-! Deviation records (14 R338) -/

/-- A deviation record of a tile; the steward's input is set. -/
def deviate (r : Region) (tile cause addr : Nat) (value : Nat) (aux : Nat) (s : State) : State :=
  tellSteward r (enterTrace tile
    (traceRecord (BitVec.ofNat 64 r.cycle) (BitVec.ofNat 64 value) (BitVec.ofNat 32 aux) tile addr (BitVec.ofNat 8 cause) 1 0) s)

/-- The same for the region of a tile. -/
def deviateAt (tile cause addr value aux : Nat) (s : State) : State :=
  match s.tileRegion tile with
  | some (_, r) => deviate r tile cause addr value aux s
  | none => s

/-! Region faults (08 R229) -/

/-- A fault of a tile whose region has become fatal, while that region's dump is pending: the dump's secondary fault, or one of the
later ones (14 R353). -/
def lateFault (tile : Nat) (code : BitVec 8) (sub : BitVec 4) (info : Word) (s : State) : State :=
  { s with dies := s.dies.map fun d => (d.1,
      { d.2 with dumps := d.2.dumps.map fun r => if r.kind = 1 && r.tiles.contains tile then r.also code sub info else r }) }

/-- A region fault is raised by a tile: its cause of record, the code and subtype, cr.info, and the address of the bundle's
word. Outside a region there is none. -/
def raiseRegion (tile cause : Nat) (code : BitVec 8) (sub : BitVec 4) (info : Word) (addr : Nat) (s : State) : State :=
  match (s.tile tile).timed.region with
  | some id => { s with todo := s.todo ++ [.event (.regionFault id tile cause (code.toNat * 16 + sub.toNat) info addr)] }
  | none => lateFault tile code sub info s

/-- TIMING of a subtype: cr.info is the address of the bundle's word. -/
def raiseTiming (tile : Nat) (sub : BitVec 4) (addr : Nat) (s : State) : State :=
  raiseRegion tile sub.toNat cTiming sub (BitVec.ofNat 64 addr) addr s

/-- SEAL_FAULT in a timed consumer: cr.info is the granule's SRAM offset. -/
def raiseSeal (tile : Nat) (f : SealFault) (off addr : Nat) (s : State) : State :=
  raiseRegion tile 4 cSealFault f.sub (BitVec.ofNat 64 off) addr s

/-- The fault comes before another of the same region cycle and clock cycle (R229 step 1). -/
def RegFault.before (f g : RegFault) : Bool := f.at_ = g.at_ && f.wall = g.wall && f.tile < g.tile

/-- A freeze becomes the halt (13 R328). -/
def haltNow (region : Nat) (s : State) : State :=
  (s.modRegion region fun r => { r with haltAt := some r.cycle }).schedule s.cycle phaseLand (.regionHalt region)

/-- REGION_FAULT: the earliest fault is reported, and fixes the halt; others are kept for their records. -/
def execRegionFault (region tile : Nat) (cause sub : Nat) (info : Word) (addr : Nat) (s : State) : Result :=
  match s.region region with
  | none => .next s
  | some r =>
    let f : RegFault :=
      { tile := tile, at_ := r.cycle, wall := s.cycle, cause := cause, code := BitVec.ofNat 8 (sub / 16), sub := BitVec.ofNat 4 (sub % 16)
        info := info, addr := addr, aux := if cause = 6 then info.toNat % 16 else 0 }
    match r.fault with
    | none =>
      if r.haltAt.isSome then
        let s := s.modRegion region fun r => { r with others := r.others ++ [f] }
        .next (if cause = 6 && r.frozen && !r.halted then haltNow region s else s)
      else if cause = 6 && r.frozen then .next (haltNow region (s.modRegion region fun r => { r with fault := some f }))
      else .next (s.modRegion region fun r => { r with fault := some f, haltAt := some (r.cycle + r.s) })
    | some g =>
      let s := s.modRegion region fun r =>
        if f.before g && !r.halted then { r with fault := some f, others := r.others ++ [g] } else { r with others := r.others ++ [f] }
      .next (if cause = 6 && r.frozen && !r.halted then haltNow region s else s)

/-- The cycles from a region halt to the rollback (R229 steps 3 and 4). -/
def landCycles : Nat := 12

/-- REGION_HALT: no tile issues from here (R229 step 2); a freeze in force becomes the halt (13 R328). -/
def execRegionHalt (region : Nat) (s : State) : Result :=
  match s.region region with
  | none => .next s
  | some r =>
    if r.halted then .next s
    else
      .next ((s.modRegion region fun r => { r with halted := true, frozen := false }).schedule (s.cycle + landCycles) phaseEnd
        (.regionRollback region))

/-! Rollback (R229 step 4) -/

/-- The tile at the other end of a neighbour link, and its port there. -/
def linkPeer (tile port : Nat) : Option (Nat × Nat) :=
  (tileNeighbour tile port).map fun t => (t, if port < 26 then port + 2 else port - 2)

/-- The cycles from an LSEND's or LPASS's issue to the arrival at the next tile (R215): 3, or the crossing's latency. -/
def linkLatency (s : State) (tile port : Nat) : Nat :=
  match linkPeer tile port with
  | some (t, _) =>
    if tileDie t = tileDie tile then 3 else Tab.get 0 s.pkg.crossing (clusterOf tile * 4 + linkHeading port)
  | none => 3

/-- A granule in flight to a tile of the region that its sender sent after its last MARK. -/
def strayGranule (s : State) (r : Region) (d : Due) : Bool :=
  match d.ev with
  | .linkGranuleArrival tile port _ _ _ =>
    match linkPeer tile port with
    | some (sender, back) =>
      r.tiles.contains tile && r.tiles.contains sender && (s.tile sender).timed.snapAt ≤ d.due - linkLatency s sender back
    | none => false
  | _ => false

/-- A window that awaits posts awaits those that have not landed since, and is closed when there are none. -/
def settleWindow (arrived : BitVec 16) (w : Window) : Window :=
  let w := { w with awaited := w.awaited &&& ~~~arrived }
  if w.st = .awaiting && w.awaited = 0 then { w with st := .closed } else w

/-- A tile restores its snapshot. -/
def Timed.restore (t : Timed) : Timed :=
  match t.snap with
  | none => t
  | some f =>
    { t with
      files := { f with win := f.win.map fun w => settleWindow t.arrived { w with closing := none } }
      swap := false, marked := false, controls := 0, seqr := .word, transfers := t.transfers.map fun x => { x with checked := false } }

/-- A freeze whose closing window still awaits its posts, or that no window of this package began. -/
def Freeze.stands (s : State) (f : Freeze) : Bool :=
  match f.close with
  | some (tile, w) =>
    match (s.tile tile).timed.files.win[w]? with
    | some x => x.st = .awaiting
    | none => false
  | none => true

/-- REGION_ROLLBACK. -/
def execRegionRollback (region : Nat) (s : State) : Result :=
  match s.region region with
  | none => .next s
  | some r =>
    if !r.halted || r.rolled then .next s
    else
      let s : State := { s with pend := s.pend.filter fun d => !strayGranule s r d }
      let s := r.tiles.foldl (fun s t => s.modTimed t Timed.restore) s
      let s := r.tiles.foldl (fun s t =>
        s.modLaunch r.launch fun l => if (l.part t).sent then l else l.modPart t fun p => { p with regionDone := false }) s
      let s := s.modRegion region fun r => { r with rolled := true, freezes := r.freezes.filter (·.stands s) }
      .next (if r.fault.isSome then s.schedule s.cycle phaseEnd (.stewardRegionTrap region) else s)

/-! Resumption and the end of a region -/

/-- The aux field of a region fault's record: its own low bits, and above them the MARK's identifier (08 R227; log 31). -/
def recordAux (id : BitVec 14) (width aux : Nat) : Nat := aux + (Config.markBits id).toNat * 2 ^ width

/-- The records of a halt: the fault reported, and the others (R229 steps 1 and 5). -/
def haltRecords (r : Region) (s : State) : State :=
  let one (reported : Bool) (s : State) (f : RegFault) : State :=
    deviate { r with cycle := f.at_ } f.tile f.cause f.addr (s.cycle - f.wall)
      (recordAux (s.tile f.tile).timed.snapId (if f.cause = 6 then 4 else 8) (if f.cause = 6 then f.aux else if reported then 1 else 0)) s
  let s := match r.fault with
    | some f => one true s f
    | none => s
  r.others.foldl (one false) s

/-- A halted region issues again: its records are written, and its tiles report at least fault class 1 (11 R297). -/
def resumeRegion (region : Nat) (s : State) : State :=
  match s.region region with
  | none => s
  | some r =>
    let s := haltRecords r s
    let s := r.tiles.foldl (fun s t => s.modLaunch r.launch (·.modPart t fun p => { p with cls := max p.cls 1 })) s
    s.modRegion region fun r => { r with fault := none, others := [], haltAt := none, halted := false, rolled := false, resumeAt := none }

/-- A tile runs in no region any more: its windows close, its halves keep their roles (13 R319, 08 R201). -/
def Timed.leave (t : Timed) : Timed :=
  { t with
    files := { t.files with win := t.files.win.map fun w => { w with st := .closed, closing := none, awaited := 0 } }
    seqr := .reported, region := none, swap := false, marked := false, transfers := t.transfers.map fun x => { x with checked := false } }

/-- A region is over. -/
def dropRegion (region : Nat) (s : State) : State :=
  match s.region region with
  | none => s
  | some r =>
    let s := r.tiles.foldl (fun s t => s.modTimed t Timed.leave) (haltRecords r s)
    dropTokens r.index { s with regions := Tab.erase s.regions region }

/-- A tile's part of a region's dump (14 R352; log 65): the stream pointer and the active half, RegionCycle(), the timed flags
and the windows' states, then the counters of the rings. -/
def tileBody (r : Region) (t : Timed) : List Vec :=
  let wins : BitVec 64 := BitVec.ofNat 64 (t.files.win.toList.foldr (fun w n => 4 * n + (match w.st with
    | .closed => 0 | .opened => 1 | .awaiting => 2)) 0)
  let first : Vec := wins ++ t.flags.setWidth 64 ++ BitVec.ofNat 64 r.cycle ++ (bit t.files.active ++ BitVec.ofNat 63 t.files.ptr)
  let ring (c : RingCount) : Vec := 0#64 ++ c.ctail ++ c.cnext ++ c.chead ++ c.tail ++ c.next ++ c.head
  first :: t.files.ring.toList.map ring ++ [0, 0, 0]

/-- The body of a region's dump: 256 bytes for each tile, in tile id order. -/
def regionBody (s : State) (r : Region) : List Vec := (r.tiles.foldl (fun l t => Tab.insert l t ()) ([] : Tab Unit)).flatMap fun t => tileBody r (s.tile t.1).timed

/-- The dump of a region as it stands. -/
def regionDump (r : Region) (cls : Nat) (s : State) : DumpReq :=
  let f : RegFault := r.fault.getD { tile := r.tiles.headD 0, at_ := r.cycle, wall := s.cycle, cause := 0, code := 0, sub := 0, info := 0, addr := 0 }
  { kind := 1, cls := cls, who := ⟨r.tiles.foldl min 40960, 0⟩, tiles := r.tiles, region := r.launch, stamp := f.wall, code := f.code, sub := f.sub
    info := f.info, second := r.others.head?.map fun g => (g.code, g.sub, g.info), later := r.others.length - 1, body := regionBody s r }

/-- It is asked for. -/
def dumpRegion (r : Region) (cls : Nat) (s : State) : State := askDump (tileDie (r.tiles.headD 0)) (regionDump r cls s) s

/-- A region becomes fatal (class 4): its dump is asked for, and its launch is abandoned (R230, 11 R299, 14 R351). -/
def fatalRegion (region : Nat) (s : State) : State :=
  match s.region region with
  | none => s
  | some r =>
    (dropRegion region (dumpRegion r 4 s)).schedule s.cycle phaseAccess (.launchAbandon r.launch 4)

/-- STEWARD_REGION_TRAP: the fault becomes an asynchronous trap of the steward; a steward that has ended makes the region fatal
(R229 steps 5 and 6, R230). -/
def execStewardRegionTrap (region : Nat) (s : State) : Result :=
  match s.region region with
  | none => .next s
  | some r =>
    match r.fault with
    | none => .next s
    | some f =>
      if !stewardLives s r then .next (fatalRegion region s)
      else
        .next (tellSteward r (modSteward r (fun t =>
          { t with asyncs := t.asyncs ++ [{ code := f.code, sub := f.sub, info := f.info, epc := 0, fpc := 0 }] }) s))

/-- REGION_END: every tile has reported (13 R319). -/
def execRegionEnd (region : Nat) (s : State) : Result :=
  match s.region region with
  | none => .next s
  | some r => .next (if r.tiles.all fun t => (s.tile t).timed.seqr = .reported then dropRegion region s else s)

/-- REGION_START: region cycle 0 on every tile (11 R294 step 6). -/
def execRegionStart (region : Nat) (s : State) : Result :=
  match s.region region with
  | none => .next s
  | some r =>
    let s := r.tiles.foldl (fun s t => s.modTimed t fun x => { x with turn := s.cycle, snapAt := s.cycle }) s
    .next (s.modRegion region fun r => { r with started := true, cycle := 0 })

/-! Freezes (13 R326, R327) -/

/-- FREEZE: the freeze point is reached, of a stall or of a debug halt. -/
def execFreeze (region : Nat) (s : State) : Result :=
  match s.region region with
  | none => .next s
  | some r =>
    .next (s.modRegion region fun _ =>
      if r.halted then r
      else
        { r with
          frozen := r.frozen || r.freezes.any (·.point ≤ r.cycle)
          stopped := match r.debugAt with
            | some p => if p ≤ r.cycle then some s.cycle else r.stopped
            | none => r.stopped
          debugAt := r.debugAt.filter (r.cycle < ·) })

/-- A freeze that has lasted its cycles. -/
def Freeze.over (f : Freeze) (now : Nat) : Bool :=
  (match f.length with
    | some g => g ≤ f.elapsed
    | none => false) ||
  (match f.until_ with
    | some t => t ≤ now
    | none => false)

/-- The record of a stall, stamped with the close's region cycle (14 R337, R338; log 67). -/
def stallRecord (r : Region) (s : State) (f : Freeze) : State :=
  match f.close with
  | some (tile, w) => deviate { r with cycle := f.point - r.s } tile 8 f.addr (f.length.getD 0) (f.missing.toNat * 65536 + w) s
  | none => s

/-- FREEZE_END: every freeze of this point is over, and issue resumes. -/
def execFreezeEnd (region : Nat) (s : State) : Result :=
  match s.region region with
  | none => .next s
  | some r =>
    let here := r.freezes.filter (·.point ≤ r.cycle)
    if !r.frozen || !here.all (·.over (s.pkg.gtime + s.cycle)) then .next s
    else
      let s := here.foldl (stallRecord r) s
      .next (s.modRegion region fun r => { r with frozen := false, freezes := r.freezes.filter (r.cycle < ·.point) })

/-- POST_TIMEOUT: the window still awaits a post (13 R328). Before its freeze point the fault takes the place of the freeze, and the
region halts as after any fault (R229; log 82). -/
def execPostTimeout (tile win : Nat) (s : State) : Result :=
  let t := (s.tile tile).timed
  match t.files.win[win]? with
  | none => .next s
  | some w =>
    if w.st ≠ .awaiting || w.awaited = 0 then .next s
    else
      match s.tileRegion tile with
      | none => .next s
      | some (id, r) =>
        let addr := match r.freezes.find? (·.close = some (tile, win)) with
          | some f => f.addr
          | none => 0
        let p := ((List.range 16).find? w.awaited.getLsbD).getD 0
        let s := if r.frozen then s else s.modRegion id fun r => { r with freezes := r.freezes.filter (·.close ≠ some (tile, win)) }
        .next (raiseRegion tile 6 cPostTimeout 0 (BitVec.ofNat 64 p) addr s)

end Sys2Proof.Machine
end

