-- ==== Sys2Proof/Machine/Timed.lean ====
section
/-! DEFINITION. The timed sequencer: stream words, bundles with sticky fields, generators, timed results and their landing
places (08 R201 to R207, R210 to R215, R226, R227). -/

namespace Sys2Proof.Machine

/-! The stream (R201, R202) -/

/-- A word of the active half. -/
def Timed.word (t : Timed) (a : Nat) : BitVec 16 := Tab.get 0 (if t.files.active then t.h1 else t.h0) (a % 4096)

/-- The stream-store address of a word of the active half. -/
def Timed.storeAddr (t : Timed) (a : Nat) : Nat := (if t.files.active then 8192 else 0) + 2 * (a % 4096)

/-- The files of the present tile changed. -/
def Timed.withFiles (t : Timed) (f : Files → Files) : Timed := { t with files := f t.files }

/-- The pointer at a word. -/
def Timed.goTo (t : Timed) (a : Nat) : Timed := t.withFiles fun f => { f with ptr := a % 4096 }

/-- A cycle of the sequencer has passed: the count of control words starts afresh (R204). -/
def Timed.passed (t : Timed) (cycle : Nat) : Timed := { t with turn := cycle + 1, controls := 0 }

/-- A control word executed: the pointer at the next word, and one more counted (R204). -/
def Timed.control (t : Timed) (a : Nat) : Timed := { t.goTo a with controls := t.controls + 1 }

/-- The control words between two cycles (R204). -/
def maxControls : Nat := 8

/-- The empty cycles of a MARK (R227). -/
def markCycles : Nat := 12

/-- The present tile's timed plane changed by a stream word. -/
def onTimed (f : Timed → Timed) (s : State) : Result := .next (s.modTimed s.cur.tile f)

/-- A bundle to be issued on repeat consecutive cycles. -/
def Timed.begins (t : Timed) (index repeats words : Nat) : Timed :=
  { t.goTo (t.files.ptr + words) with seqr := .issuing index repeats (t.storeAddr t.files.ptr), addr := t.storeAddr t.files.ptr }

/-- ISSUE (R202, R204). -/
def execIssue (index : BitVec 9) (rep : BitVec 5) (s : State) : Result := onTimed (·.begins index.toNat (rep.toNat + 1) 1) s

/-- ISSUEL. -/
def execIssuel (index : BitVec 9) (rep : BitVec 21) (s : State) : Result := onTimed (·.begins index.toNat (rep.toNat + 1) 2) s

/-- MARK: its empty cycles, and the snapshot to be taken on the next issue cycle (R227). Its id goes into the deviation records of
the tile's region faults (log 31). -/
def execMark (id : BitVec 14) (s : State) : Result :=
  onTimed (fun t => { t.control (t.files.ptr + 1) with seqr := .empty markCycles, marked := true, markId := id }) s

/-- END (R203). -/
def execStreamEnd (s : State) : Result := onTimed (fun t => { t.control (t.files.ptr + 1) with seqr := .ended }) s

/-- ALIGN. -/
def execAlign (a : BitVec 5) (s : State) : Result := onTimed (fun t => { t.goTo (t.files.ptr + 1) with seqr := .aligning a.toNat }) s

/-- IDLE: the operand is n − 1. -/
def execIdle (n : BitVec 9) (s : State) : Result :=
  onTimed (fun t => { t.goTo (t.files.ptr + 1) with seqr := .empty (n.toNat + 1) }) s

def Files.counter (f : Files) (c : BitVec 3) : BitVec 32 := f.c[c.toNat]?.getD 0
def Files.setCounter (f : Files) (c : Nat) (v : BitVec 32) : Files := { f with c := f.c.setIfInBounds c v }

/-- LOOP (R203). -/
def execStreamLoop (c : BitVec 3) (off : BitVec 16) (s : State) : Result :=
  onTimed (fun t =>
    let v := t.files.counter c
    if 1 < v.toNat then (t.control (streamTarget t.files.ptr off)).withFiles (·.setCounter c.toNat (v - 1))
    else (t.control (t.files.ptr + 2)).withFiles (·.setCounter c.toNat 0)) s

/-- JUMP (R203). -/
def execJump (off : BitVec 16) (s : State) : Result := onTimed (fun t => t.control (streamTarget t.files.ptr off)) s

/-- A post register (13 R330). -/
def Timed.postReg (t : Timed) (p : BitVec 4) : Word := t.post[p.toNat]?.getD 0

/-- A condition on a post: 0 .z, 1 .nz, 2 .neg, 3 .pos (R203). -/
def postMeets (cond : Nat) (v : Word) : Bool :=
  match cond with
  | 0 => v = 0
  | 1 => v ≠ 0
  | 2 => v.slt 0
  | _ => (0#64).slt v

/-- BRP (R203). -/
def execBrp (cond : BitVec 2) (p : BitVec 4) (off : BitVec 16) (s : State) : Result :=
  onTimed (fun t =>
    t.control (if postMeets cond.toNat (t.postReg p) then streamTarget t.files.ptr off else t.files.ptr + 2)) s

/-! Generators (R211) -/

/-- A count, of which 0 means 65,536. -/
def genCount (c : BitVec 16) : Nat := if c = 0 then 65536 else c.toNat

def Gen.total (g : Gen) : Nat := genCount g.count0 * genCount g.count1 * genCount g.count2

/-- A stride or base whose low five bits are ignored. -/
def dropLow (n : Int) : Int := n / 32 * 32

/-- The current address. -/
def Gen.address (g : Gen) : Nat :=
  let c0 := genCount g.count0
  let c1 := genCount g.count1
  let i0 : Int := (g.n % c0 : Nat)
  let i1 : Int := (g.n / c0 % c1 : Nat)
  let i2 : Int := (g.n / (c0 * c1) : Nat)
  ((dropLow g.base.toNat + i0 * dropLow g.stride0.toInt + i1 * dropLow g.stride1.toInt + i2 * dropLow g.stride2.toInt) % 2 ^ 56).toNat

def Gen.step (g : Gen) : Gen := { g with n := (g.n + 1) % g.total }

/-- The generator that a descriptor loads. -/
def genOf (v : Vec) : Gen :=
  { base := v.extractLsb' 0 56, stride0 := v.extractLsb' 96 32, stride1 := v.extractLsb' 128 32, stride2 := v.extractLsb' 160 32
    count0 := v.extractLsb' 192 16, count1 := v.extractLsb' 208 16, count2 := v.extractLsb' 224 16 }

/-- Generator g of the a file, or of the b file. -/
def Files.gen (f : Files) (lb : Bool) (g : BitVec 3) : Gen := (if lb then f.b else f.a)[g.toNat]?.getD {}
def Files.setGen (f : Files) (lb : Bool) (g : Nat) (v : Gen) : Files :=
  if lb then { f with b := f.b.setIfInBounds g v } else { f with a := f.a.setIfInBounds g v }
/-- The generator steps. -/
def Files.stepGen (f : Files) (lb : Bool) (g : BitVec 3) : Files := f.setGen lb g.toNat (f.gen lb g).step

/-- The SRAM offsets of n consecutive granules from an address. -/
def localOffs (addr n : Nat) : List Nat := (List.range n).map fun i => (addr + 32 * i) % 2 ^ 56 % sramSize

/-! Results (R215) -/

/-- A timed result, due a number of cycles from now in a phase. -/
def later (tile slot delay phase : Nat) (flags : BitVec 8) (addr : Nat) (eff : Effect) (s : State) : State :=
  let (id, s) := s.fresh
  let r : TimedRes := { id := id, due := s.cycle + delay, phase := phase, slot := slot, flags := flags, addr := addr, eff := eff }
  (s.modTimed tile fun t => { t with results := t.results ++ [r] }).schedule r.due phase (.timedResultLands tile id)

/-- The same for the present tile's issuing bundle. -/
def slotLater (slot delay phase : Nat) (flags : BitVec 8) (eff : Effect) (s : State) : State :=
  later s.cur.tile slot delay phase flags (s.tile s.cur.tile).timed.addr eff s

/-- The present tile's files. -/
def State.files (s : State) : Files := (s.tile s.cur.tile).timed.files

/-- A generator's current address, with the generator stepped. -/
def takeAddress (lb : Bool) (g : BitVec 3) (s : State) : Nat × State :=
  ((s.files.gen lb g).address, s.modTimed s.cur.tile (·.withFiles (·.stepGen lb g)))

/-! Issue (R207) -/

/-- An operation that occupies the array (09 R236). -/
def isArray : SlotOp → Bool
  | .mma .. => true | .mmasp .. => true | .mmat .. => true
  | _ => false

/-- The operation of a field; none for NOP. -/
def fieldOp (n : SlotName) (f : BitVec 44) : Option SlotOp := if f = 0 then none else decodeSlot n f

def Files.stickyField (f : Files) (n : SlotName) : BitVec 44 := f.sticky[n.number]?.getD 0

/-- What a slot issues on a cycle on which an entry issues: its present field, or its sticky one, which for an array
operation waits until the array is free (R207, 09 R236). -/
def slotIssues (t : Timed) (cycle : Nat) (e : Vec) (n : SlotName) : Option SlotOp :=
  if slotPresent e n then fieldOp n (slotField e n)
  else
    match fieldOp n (t.files.stickyField n) with
    | some op => if isArray op && cycle < t.arrayFree then none else some op
    | none => none

/-- The sticky fields after an entry has issued. -/
def stickyAfter (t : Timed) (e : Vec) : Vector (BitVec 44) 7 :=
  slotNames.foldl (fun v n => if slotPresent e n then v.setIfInBounds n.number (slotField e n) else v) t.files.sticky

/-- The snapshot of a MARK, where one is due: the pointer at the word that issues (R227). -/
def Timed.snapshot (t : Timed) (cycle addr : Nat) : Timed :=
  if t.marked then { t with marked := false, snap := some { t.files with ptr := addr / 2 % 4096 }, snapAt := cycle, snapId := t.markId } else t

/-- One issue cycle of a bundle: the snapshot if one is due, then every slot's operation in slot order. -/
def issueCycle (tile index left addr : Nat) (s : State) : State :=
  let s := s.modTimed tile fun t => { t.snapshot s.cycle addr with addr := addr }
  let t := (s.tile tile).timed
  let e := Tab.get 0 t.bundles index
  let ops := slotNames.filterMap (slotIssues t s.cycle e)
  let s := s.modTimed tile fun t =>
    { (t.withFiles fun f => { f with sticky := stickyAfter t e }).passed s.cycle with
      seqr := if left ≤ 1 then .word else .issuing index (left - 1) addr }
  let s := s.tally tile evBundles none 1
  { s with todo := s.todo ++ ops.map (Todo.slot tile) }

/-- An empty cycle (R204). -/
def emptyCycle (tile : Nat) (next : SeqState) (s : State) : State :=
  (s.modTimed tile fun t => { t.passed s.cycle with seqr := next }).tally tile evEmpty none 1

/-- Whether a word is a control word (R204). -/
def isControl : Instr → Bool
  | .mark _ => true | .streamLoop .. => true | .jump _ => true | .brp .. => true | .streamEnd => true
  | _ => false

/-- SWAP_BOUNDARY: the latched request is served at the end of its stream word (R226). -/
def execSwapBoundary (tile : Nat) (s : State) : Result :=
  let t := (s.tile tile).timed
  if !t.swap then .next s
  else if t.ready then
    .next (s.modTimed tile fun t =>
      { (t.withFiles fun f => { f with active := !f.active, ptr := 0 }) with
        swap := false, ready := false, edits := t.edits + 1, seqr := .empty markCycles, marked := true, markId := 0 })
  else .next (deviateAt tile 9 t.addr 0 0 (s.modTimed tile fun t => { t with swap := false }))

/-- A tile's part is done: its results have landed, and its transfers have performed (R203). -/
def Timed.partDone (t : Timed) : Bool := t.results.isEmpty && t.transfers.all fun x => some x.region ≠ t.region

/-- TILE_PART_DONE: the status granule (09 R246), and the tile's part of the launch (11 R297). -/
def execTilePartDone (tile : Nat) (s : State) : Result :=
  let t := (s.tile tile).timed
  match t.region with
  | none => .next s
  | some id =>
    let status : Vec := 0#64 ++ BitVec.ofNat 64 t.discards ++ BitVec.ofNat 64 t.arrayops ++ 0#56 ++ t.flags
    let s := afterWrite (.sram tile statusGranule) 0 (s.setGranule (.sram tile statusGranule) (sealed status 0))
    let s := s.modTimed tile fun t => { t with seqr := .reported }
    let launch := ((s.region id).map (·.launch)).getD id
    let s := s.modLaunch launch (·.modPart tile fun p => { p with regionDone := true })
    .next ((s.schedule (s.cycle + 1) phaseAccess (.done launch tile)).schedule s.cycle phaseEnd (.regionEnd id))

end Sys2Proof.Machine
end

