-- ==== Sys2Proof/Machine/Array.lean ====
section
/-! DEFINITION. The tensor slice: operand rings, the array operations, the VT operations (09 R232 to R251). -/

namespace Sys2Proof.Machine

/-- Timed flags of arithmetic flags (R246). -/
def timedFlags (f : Flags) : BitVec 8 := f.toBits.setWidth 8

/-! Banks (07 R170, 08 R215) -/

/-- The timed plane uses the bank of an offset on this cycle. -/
def useBank (tile off : Nat) (s : State) : State :=
  s.modTile tile fun t =>
    let busy := if t.bankCycle = s.cycle then t.bankBusy else 0
    { t with bankCycle := s.cycle, bankBusy := busy ||| BitVec.ofNat 24 (2 ^ (off / 16384)) }

/-- A timed bank read. -/
def timedRead (tile off : Nat) (s : State) : Granule × State := (s.granule (.sram tile off), useBank tile off s)

/-- A timed bank write: waits on the granule are woken, armed words are not tested (07 R197, R199). -/
def timedWrite (tile off : Nat) (g : Granule) (s : State) : State :=
  afterWrite (.sram tile off) 0 ((useBank tile off s).setGranule (.sram tile off) g)

/-- Granules read, unchecked. -/
def timedReads (tile : Nat) : List Nat → State → List Granule × State
  | [], s => ([], s)
  | off :: rest, s =>
    let (g, s) := timedRead tile off s
    let (gs, s) := timedReads tile rest s
    (g :: gs, s)

/-- A granule read and checked by the slot: a failure is a region fault (08 R216). -/
def timedData (tile off : Nat) (expect : Option (BitVec 6)) (addr : Nat) (s : State) : Option Vec × State :=
  let (g, s) := timedRead tile off s
  match sealCheck g expect with
  | .ok (d, corrected) => (some d, s.countCorrection tile corrected)
  | .error f => (none, raiseSeal tile f off addr (s.countCorrection tile (sealFixes g)))

/-- The same for several granules: all of them, or none where one fails. -/
def timedDatas (tile : Nat) (expect : Option (BitVec 6)) (addr : Nat) : List Nat → State → Option (List Vec) × State
  | [], s => (some [], s)
  | off :: rest, s =>
    match timedData tile off expect addr s with
    | (none, s) => (none, s)
    | (some d, s) =>
      match timedDatas tile expect addr rest s with
      | (none, s) => (none, s)
      | (some ds, s) => (some (d :: ds), s)

/-! Rings (R234, R235) -/

def Timed.ring (t : Timed) (j : Nat) : Ring := t.rings[j]?.getD {}
def Files.ringCount (f : Files) (j : Nat) : RingCount := f.ring[j]?.getD {}
def Files.setRing (f : Files) (j : Nat) (c : RingCount) : Files := { f with ring := f.ring.setIfInBounds j c }

/-- A ring that separates headers from values. -/
def Ring.sparse (r : Ring) : Bool := 0x11 ≤ r.tag.toNat && r.tag.toNat ≤ 0x14
/-- The position codes of a header granule. -/
def Ring.headerCodes (r : Ring) : Nat := if r.tag = 0x13 then 24 else 48
/-- The SRAM offset of entry n. -/
def Ring.entry (r : Ring) (n : BitVec 32) : Nat := (r.base.toNat + n.toNat % (max r.size.toNat 1)) * 32

/-- The codes of the code buffer. -/
def codeBuffer : Nat := 256

/-- A header's codes appended at ctail; none where they do not fit. -/
def pushCodes (r : Ring) (c : RingCount) (d : Vec) : Option (Ring × RingCount) :=
  let n := r.headerCodes
  if codeBuffer < (c.ctail - c.chead).toNat + n then none
  else
    some ({ r with codes := (List.range n).foldl (fun v i => v.setIfInBounds ((c.ctail.toNat + i) % codeBuffer) (d.extractLsb' (4 * i) 4)) r.codes },
      { c with ctail := c.ctail + BitVec.ofNat 32 n })

/-- One granule pushed, whether it is a header line; an overflow is a region fault, and nothing is written. -/
def pushEntry (tile ring addr : Nat) (s : State) (p : Bool × Granule) : State :=
  let t := (s.tile tile).timed
  let r := t.ring ring
  let c := t.files.ringCount ring
  if !r.enable then raiseTiming tile 3 addr s
  else if r.sparse && p.1 then
    match pushCodes r c p.2.data with
    | none => raiseTiming tile 3 addr s
    | some (r, c) => s.modTimed tile fun t => { t.withFiles (·.setRing ring c) with rings := t.rings.setIfInBounds ring r }
  else if r.size.toNat ≤ (c.tail - c.head).toNat then raiseTiming tile 3 addr s
  else (timedWrite tile (r.entry c.tail) p.2 s).modTimed tile (·.withFiles (·.setRing ring { c with tail := c.tail + 1 }))

/-! The array (R236 to R245) -/

/-- What an array operation takes: granules of A, codes, granules of B (R239, R243, R244). -/
def arrayNeeds : SlotOp → Nat × Nat × Nat
  | .mmasp _ _ _ fmt _ _ => (4, if fmt = 0 then 32 else 64, 8)
  | .mmat .. => (16, 0, 4)
  | _ => (4, 0, 4)

/-- The rings of A and B. -/
def arrayRings : SlotOp → Nat × Nat
  | .mma _ ra rb _ _ _ _ _ _ => (ra.toNat, rb.toNat)
  | .mmasp _ ra rb _ _ _ => (ra.toNat, rb.toNat)
  | .mmat _ ra rb _ _ => (ra.toNat, rb.toNat)
  | _ => (0, 0)

/-- The unread granules of a ring; a disabled ring has none. -/
def ringHolds (r : Ring) (c : RingCount) : Nat := if r.enable then (c.tail - c.next).toNat else 0

/-- The SRAM offsets of n entries from next onward. -/
def ringOffs (r : Ring) (c : RingCount) (n : Nat) : List Nat := (List.range n).map fun i => r.entry (c.next + BitVec.ofNat 32 i)

def Files.z_ (f : Files) (n : BitVec 3) : Vec := f.z[n.toNat]?.getD 0

/-- A z register's bytes from a selector on (R240). -/
def scalesOf (f : Files) (n : BitVec 3) (sel : BitVec 2) : Vec := f.z_ n >>> (64 * sel.toNat)

/-- An array operation issues: discarded on a busy cycle; otherwise it occupies the array and is counted, and is stopped by an
underflow, or is on its way to its landing 12 cycles on (R234, R236, R240, R246). -/
def issueArray (op : SlotOp) (za zb : Files → Vec) (s : State) : State :=
  let tile := s.cur.tile
  let t := (s.tile tile).timed
  let (ra, rb) := arrayRings op
  let (na, nc, nb) := arrayNeeds op
  let ca := t.files.ringCount ra
  let cb := t.files.ringCount rb
  if s.cycle < t.arrayFree then
    deviateAt tile 0x0A t.addr 0 0 (s.modTimed tile fun t => { t with flags := t.flags ||| 0x80, discards := t.discards + 1 })
  else
  let s := (s.modTimed tile fun t => { t with arrayFree := s.cycle + 8, arrayops := t.arrayops + 1 }).tally tile evArray none 1
  if ringHolds (t.ring ra) ca < na || ringHolds (t.ring rb) cb < nb || (ca.ctail - ca.cnext).toNat < nc then raiseTiming tile 2 t.addr s
  else
    let codes := (List.range nc).map fun i => (t.ring ra).codes[(ca.cnext.toNat + i) % codeBuffer]?.getD 0
    let eff : Effect :=
      .arrayRead op (ringOffs (t.ring ra) ca na) (ringOffs (t.ring rb) cb nb) codes (za t.files) (zb t.files) (s.cycle + 12)
    let s := s.modTimed tile fun t =>
      t.withFiles fun f =>
        (f.setRing ra { ca with next := ca.next + BitVec.ofNat 32 na, cnext := ca.cnext + BitVec.ofNat 32 nc }).setRing rb
          { cb with next := cb.next + BitVec.ofNat 32 nb }
    slotLater 0 1 phaseRead 0 eff s

/-- MMA (R240). -/
def execMma (acc ringa ringb : BitVec 2) (fmt : BitVec 4) (za zb : BitVec 3) (sel : BitVec 2) (fresh sat : Bool) (s : State) : Result :=
  .next (issueArray (.mma acc ringa ringb fmt za zb sel fresh sat) (scalesOf · za sel) (scalesOf · zb sel) s)

/-- MMASP (R243). -/
def execMmasp (acc ringa ringb : BitVec 2) (fmt : BitVec 4) (fresh sat : Bool) (s : State) : Result :=
  .next (issueArray (.mmasp acc ringa ringb fmt fresh sat) (fun _ => 0) (fun _ => 0) s)

/-- MMAT (R244). -/
def execMmat (acc ringa ringb : BitVec 2) (fresh sat : Bool) (s : State) : Result :=
  .next (issueArray (.mmat acc ringa ringb fresh sat) (fun _ => 0) (fun _ => 0) s)

/-- A y register. -/
def Files.yReg (f : Files) (n : BitVec 5) : Vec := f.y[n.toNat]?.getD 0
/-- A row of an accumulator (R237). -/
def Files.accRow (f : Files) (acc row : Nat) : Vec := f.acc[8 * acc + row]?.getD 0

/-- MZERO (R245). -/
def execMzero (acc : BitVec 2) (s : State) : Result := .next (slotLater 0 2 phaseLand 0 (.accZero acc.toNat) s)

/-- MFY (R245). -/
def execMfy (acc : BitVec 2) (row : BitVec 3) (y : BitVec 5) (s : State) : Result :=
  .next (slotLater 0 2 phaseLand 0 (.accRow acc.toNat row.toNat (s.files.yReg y)) s)

/-! Products and sums -/

/-- The formats of A and B of a floating form (R239). -/
def mmaFormats (fmt : BitVec 4) : Fmt × Fmt :=
  match fmt.toNat with
  | 0 => (.bf16, .bf16) | 1 => (.f16, .f16) | 2 => (.e4m3, .e4m3) | 3 => (.e4m3, .e5m2) | 4 => (.e5m2, .e4m3)
  | 5 => (.e5m2, .e5m2) | 6 => (.e4m3, .e4m3) | 7 => (.e5m2, .e5m2)
  | _ => (.e2m1, .e2m1)

/-- K of a form. -/
def mmaK (fmt : BitVec 4) : Nat :=
  match fmt.toNat with
  | 0 => 8 | 1 => 8 | 8 => 32 | 9 => 32 | 11 => 32
  | _ => 16

/-- A form with scales, and one with integers. -/
def mmaScaled (fmt : BitVec 4) : Bool := fmt = 6 || fmt = 7 || fmt = 9
def mmaInteger (fmt : BitVec 4) : Bool := fmt = 10 || fmt = 11

/-- The granules of an operand as one string of bits. -/
def operandBits (gs : List Granule) : Nat := gs.foldr (fun g n => g.data.toNat + 2 ^ 256 * n) 0

/-- An element under its scale: code 255 makes it NaN, whatever its own code (R241; 01 R15, R16). -/
def scaledElement (fmt : Fmt) (scale : Option Nat) (a : Nat) : Num :=
  match scale with
  | none => Num.ofBits fmt a
  | some sc =>
    if sc = 255 then .nan false
    else
      match Num.ofBits fmt a with
      | .fin s m e t => .fin s m (e + (sc : Int) - 127) t
      | n => n

/-- An exact product under the scales of its row and column; none of a scale is 1 (R240, R241). -/
def scaledProduct (fa fb : Fmt) (scales : Option (Nat × Nat)) (a b : Nat) : Num × Flags :=
  mulNum (scaledElement fa (scales.map (·.1)) a) (scaledElement fb (scales.map (·.2)) b)

/-- The tree of products with the flags of all (R240; 01 R31). -/
def floatSum (ps : List (Num × Flags)) : Nat × Flags :=
  let (g, f) := productTree 6 (ps.map (·.1))
  (g, ps.foldl (fun f p => f.or p.2) f)

/-- The products of one element of MMA. -/
def mmaProducts (fmt : BitVec 4) (a b : Nat) (za zb : Vec) (i j : Nat) : List (Num × Flags) :=
  let (fa, fb) := mmaFormats fmt
  let k := mmaK fmt
  let scales := if mmaScaled fmt then some ((byteOf za i).toNat, (byteOf zb j).toNat) else none
  (List.range k).map fun q => scaledProduct fa fb scales (elem a fa.width (i * k + q)) (elem b fb.width (j * k + q))

/-- The integer group sum of one element of MMA (R242). -/
def mmaInts (fmt : BitVec 4) (a b i j : Nat) : Int :=
  let w := if fmt = 11 then 4 else 8
  let k := mmaK fmt
  (List.range k).foldl (fun n q => n + intOf true w (elem a w (i * k + q)) * intOf true w (elem b w (j * k + q))) 0

/-- The kept products of one element of MMASP: the index of A's element and of B's, none of an invalid code (R243). -/
def sparseTerms (k : Nat) (codes : List (BitVec 4)) (i j : Nat) : List (Option (Nat × Nat)) :=
  (List.range (k / 2)).flatMap fun g =>
    let n := i * (k / 2) + g
    match posCode (codes[n]?.getD 0).toNat with
    | some (lo, hi) => [some (2 * n, 2 * k * j + 4 * g + lo), some (2 * n + 1, 2 * k * j + 4 * g + hi)]
    | none => [none, none]

/-- One element of MMASP: the sum and its flags. -/
def mmaspSum (fmt : BitVec 4) (codes : List (BitVec 4)) (a b i j : Nat) : Int × Flags :=
  let ts := sparseTerms (mmaK fmt) codes i j
  let bad : Flags := if ts.any Option.isNone then flagInvalid else {}
  if mmaInteger fmt then
    (ts.foldl (fun n t => match t with
      | some (x, y) => n + intOf true 8 (elem a 8 x) * intOf true 8 (elem b 8 y)
      | none => n) 0, bad)
  else
    let (fa, fb) := mmaFormats fmt
    let r := floatSum (ts.map fun t => match t with
      | some (x, y) => scaledProduct fa fb none (elem a fa.width x) (elem b fb.width y)
      | none => (.fin false 0 0 false, {}))
    (r.1, r.2.or bad)

/-- One element of MMAT (R244). -/
def mmatSum (a b i j : Nat) : Int × Flags :=
  (List.range 64).foldl (fun (r : Int × Flags) k =>
    let x := intOf true 8 (elem a 8 (64 * i + k))
    match elem b 2 (64 * j + k) with
    | 1 => (r.1 + x, r.2)
    | 3 => (r.1 - x, r.2)
    | 2 => (r.1, r.2.or flagTrit)
    | _ => r) (0, {})

/-- The group sum of element (i, j) of an array operation: an integer, or an FP32 code. -/
def groupSum (op : SlotOp) (a b : Nat) (codes : List (BitVec 4)) (za zb : Vec) (i j : Nat) : Int × Flags :=
  match op with
  | .mma _ _ _ fmt _ _ _ _ _ =>
    if mmaInteger fmt then (mmaInts fmt a b i j, {})
    else
      let r := floatSum (mmaProducts fmt a b za zb i j)
      (r.1, r.2)
  | .mmasp _ _ _ fmt _ _ => mmaspSum fmt codes a b i j
  | _ => mmatSum a b i j

/-- The group sums of all 64 elements, with their flags. -/
def groupSums (op : SlotOp) (a b : Nat) (codes : List (BitVec 4)) (za zb : Vec) : List Int × Flags :=
  let l := (List.range 64).map fun n => groupSum op a b codes za zb (n / 8) (n % 8)
  (l.map (·.1), l.foldl (fun f r => f.or r.2) {})

/-- Accumulator, freshness, saturation and kind of an array operation. -/
def arrayAcc : SlotOp → Nat × Bool × Bool × Bool
  | .mma acc _ _ fmt _ _ _ fresh sat => (acc.toNat, fresh, sat, mmaInteger fmt)
  | .mmasp acc _ _ fmt fresh sat => (acc.toNat, fresh, sat, mmaInteger fmt)
  | .mmat acc _ _ fresh sat => (acc.toNat, fresh, sat, true)
  | _ => (0, false, false, false)

/-- One accumulator element after a group sum (R240, R242). -/
def accumulate (fresh sat integer : Bool) (old : Nat) (g : Int) : Nat × Flags :=
  if integer then
    if fresh then (intBits 32 g, {})
    else if sat then clampInt true 32 (intOf true 32 old + g)
    else (intBits 32 (intOf true 32 old + g), {})
  else if fresh then (g.toNat, {})
  else addF32 .rne old g.toNat

/-- A row accumulated. -/
def accumulateRow (fresh sat integer : Bool) (old : Vec) (gs : List Int) : Vec × Flags :=
  let l := (List.range 8).map fun j => accumulate fresh sat integer (elem old.toNat 32 j) (gs[j]?.getD 0)
  (BitVec.ofNat 256 (pack 32 (l.map (·.1))), l.foldl (fun f r => f.or r.2) {})

/-- The landing of an array operation: its accumulator, its flags, its pops (R237, R240). -/
def landArray (tile : Nat) (op : SlotOp) (sums : List Int) (s : State) : State :=
  let (acc, fresh, sat, integer) := arrayAcc op
  let (ra, rb) := arrayRings op
  let (na, nc, nb) := arrayNeeds op
  s.modTimed tile fun t =>
    let rows := (List.range 8).map fun i => accumulateRow fresh sat integer (t.files.accRow acc i) (sums.drop (8 * i))
    let fl := rows.foldl (fun f r => f.or r.2) {}
    let f := (List.range 8).foldl (fun f i =>
      { f with acc := f.acc.setIfInBounds (8 * acc + i) ((rows[i]?.map (·.1)).getD 0) }) t.files
    let ca := f.ringCount ra
    let cb := f.ringCount rb
    { t with
      files := (f.setRing ra { ca with head := ca.head + BitVec.ofNat 32 na, chead := ca.chead + BitVec.ofNat 32 nc }).setRing rb
        { cb with head := cb.head + BitVec.ofNat 32 nb }
      flags := t.flags ||| timedFlags fl }

/-! VT (R247 to R251) -/

/-- The lanes of a y register. -/
def lanes (v : Vec) : List Nat := (List.range 8).map (elem v.toNat 32)

/-- Lanes with their flags, as a y register. -/
def ofLanes (l : List (Nat × Flags)) : Vec × BitVec 8 :=
  (BitVec.ofNat 256 (pack 32 (l.map (·.1))), timedFlags (l.foldl (fun f r => f.or r.2) {}))

/-- RNE or RTZ. -/
def vtMode (rnd : Bool) : Mode := if rnd then .rtz else .rne

/-- A y register's new value, latency cycles from issue. -/
def putY (d : BitVec 5) (delay : Nat) (r : Vec × BitVec 8) (s : State) : Result :=
  .next (slotLater 1 delay phaseLand r.2 (.y d.toNat r.1 fullMask) s)

/-- An arithmetic operation, lane by lane: lanes of a, b and d (R248). -/
def vtLanes (f : VtForm) (delay : Nat) (op : Nat → Nat → Nat → Nat × Flags) (s : State) : Result :=
  let a := lanes (s.files.yReg f.a)
  let b := lanes (s.files.yReg f.b)
  let d := lanes (s.files.yReg f.d)
  putY f.d delay (ofLanes ((List.range 8).map fun e => op (a[e]?.getD 0) (b[e]?.getD 0) (d[e]?.getD 0))) s

/-- A value rounded to FP32 with the flags of its operation. -/
def toF32 (mode : Mode) (r : Num × Flags) : Nat × Flags :=
  let (c, f) := roundTo .f32 mode r.1
  (c, r.2.or f)

/-- An INT32 result. -/
def int32 (i : Int) : Nat × Flags := (intBits 32 i, {})

/-- A lane as a signed integer, and as a value. -/
def sInt (c : Nat) : Int := intOf true 32 c
def f32 (c : Nat) : Num := Num.ofBits .f32 c

def execVtAdd (f : VtForm) (s : State) : Result :=
  vtLanes f 4 (fun a b _ => if f.int then int32 (sInt a + sInt b) else toF32 (vtMode f.rnd) (addNum false (f32 a) (f32 b))) s

def execVtSub (f : VtForm) (s : State) : Result :=
  vtLanes f 4 (fun a b _ => if f.int then int32 (sInt a - sInt b) else toF32 (vtMode f.rnd) (addNum false (f32 a) (f32 b).neg)) s

def execVtMul (f : VtForm) (s : State) : Result :=
  vtLanes f 4 (fun a b _ => if f.int then int32 (sInt a * sInt b) else toF32 (vtMode f.rnd) (mulNum (f32 a) (f32 b))) s

def execVtFma (f : VtForm) (s : State) : Result :=
  vtLanes f 4 (fun a b d =>
    if f.int then int32 (sInt d + sInt a * sInt b) else toF32 (vtMode f.rnd) (fmaNum false (f32 a) (f32 b) (f32 d))) s

/-- A maximum or minimum (R248). -/
def vtPick (int max_ : Bool) (a b : Nat) : Nat × Flags :=
  if int then (if (sInt a < sInt b) = max_ then b else a, {}) else minMax .f32 max_ false a b

def execVtMax (f : VtForm) (s : State) : Result := vtLanes f 4 (fun a b _ => vtPick f.int true a b) s

def execVtMin (f : VtForm) (s : State) : Result := vtLanes f 4 (fun a b _ => vtPick f.int false a b) s

/-- One value in every lane. -/
def allLanes (r : Nat × Flags) : Vec × BitVec 8 := ofLanes (List.replicate 8 r)

def execVtRmax (f : VtForm) (s : State) : Result := putY f.d 4 (allLanes (tree (vtPick f.int true) 3 (lanes (s.files.yReg f.a)))) s

def execVtRsum (f : VtForm) (s : State) : Result :=
  putY f.d 4 (allLanes (tree (fun a b => if f.int then int32 (sInt a + sInt b) else addF32 (vtMode f.rnd) a b) 3 (lanes (s.files.yReg f.a)))) s

/-! EXP2 (R249) -/

/-- T(j) = 2^(j / 64) rounded. -/
def expT (j : Nat) : Num := f32 (roundTo .f32 .rne (exp2Num (.fin false j (-6) false)).1).1
/-- L, ln 2 rounded. -/
def expL : Num := f32 0x3F317218
/-- H, (ln 2)² / 2 rounded. -/
def expH : Num := f32 (roundFin .f32 .rne false (ln2Fix * ln2Fix) (-((2 * fixBits + 1 : Nat) : Int)) true).1

/-- The fraction bits that hold every finite FP32 value. -/
def expBits : Nat := 149

/-- 2^x of a finite x from above −160 to below 128, a multiple v of 2^-149. -/
def exp2Finite (v : Int) : Nat × Flags :=
  let one : Int := 2 ^ expBits
  let n := v / one
  let f := (v % one).toNat
  let j := f * 64 / 2 ^ expBits
  let r : Num := .fin false (f - j * 2 ^ (expBits - 6)) (-(expBits : Int)) false
  let q := (roundTo .f32 .rne (addNum false (mulNum r expL).1 (mulNum (mulNum r r).1 expH).1).1).1
  let p := (mulNum (expT j) (addNum false (.fin false 1 0 false) (f32 q)).1).1
  let (c, fl) := roundTo .f32 .rne (match p with
    | .fin s m e t => .fin s m (e + n) t
    | x => x)
  (c, fl.or (if f = 0 then {} else { inexact := true }))

/-- One lane of EXP2. -/
def exp2Lane (c : Nat) : Nat × Flags :=
  match f32 c with
  | .nan sig => (0x7FC00000, if sig then flagInvalid else {})
  | .inf s => (if s then 0 else 0x7F800000, {})
  | .fin s m e _ =>
    let v : Int := (if s then -1 else 1) * (m * 2 ^ (e + expBits).toNat : Nat)
    if 128 * 2 ^ expBits ≤ v then (0x7F800000, { overflow := true, inexact := true })
    else if v ≤ -(160 * 2 ^ expBits) then (0, { underflow := true, inexact := true })
    else exp2Finite v

def execVtExp2 (f : VtForm) (s : State) : Result := vtLanes f 8 (fun a _ _ => exp2Lane a) s

/-- CVT (R250): the value and the bits of yD that it fills. -/
def cvtResult (dst src : BitVec 4) (part : Nat) (mode : Mode) (v : Vec) : Vec × Vec × Flags :=
  let sw := etBits src
  let dw := etBits dst
  let conv (c : Nat) : Nat × Flags := convert dst src.toNat mode c
  if dw < sw then
    let c := sw / dw
    let l := (List.range (256 / sw)).map fun i => conv (elem v.toNat sw i)
    (BitVec.ofNat 256 (pack dw (l.map (·.1)) * 2 ^ (part * (256 / c))), BitVec.ofNat 256 ((2 ^ (256 / c) - 1) * 2 ^ (part * (256 / c))),
      l.foldl (fun f r => f.or r.2) {})
  else
    let n := 256 / dw
    let l := (List.range n).map fun i => conv (elem v.toNat sw (part * n + i))
    (BitVec.ofNat 256 (pack dw (l.map (·.1))), fullMask, l.foldl (fun f r => f.or r.2) {})

def execVtCvt (d a : BitVec 5) (dst src : BitVec 4) (part : BitVec 2) (rnd : Bool) (s : State) : Result :=
  let r := cvtResult dst src part.toNat (vtMode rnd) (s.files.yReg a)
  .next (slotLater 1 4 phaseLand (timedFlags r.2.2) (.y d.toNat r.1 r.2.1) s)

/-- BCAST (R251). -/
def execVtBcast (d a : BitVec 5) (e : BitVec 3) (s : State) : Result :=
  putY d 4 (allLanes (elem (s.files.yReg a).toNat 32 e.toNat, {})) s

/-- YFA (R251). -/
def execYfa (d : BitVec 5) (acc : BitVec 2) (row : BitVec 3) (s : State) : Result :=
  putY d 2 (s.files.accRow acc.toNat row.toNat, 0) s

end Sys2Proof.Machine
end

