-- ==== Sys2Proof/Machine/Lanes.lean ====
section
/-! DEFINITION. The LA, LB, SC, LK and CT operations, windows at their opening and closing, link granules, and the landing of
timed results (08 R216 to R226, 13 R320 to R326). -/

namespace Sys2Proof.Machine

/-- The slot number of a lane (08 R206). -/
def laneSlot (lb : Bool) : Nat := if lb then 3 else 2

/-! LA and LB (R216 to R220) -/

/-- LDR: the bank read a cycle on. -/
def execLdr (lb : Bool) (g : BitVec 3) (ring n : BitVec 2) (s : State) : Result :=
  let (a, s) := takeAddress lb g s
  .next (slotLater (laneSlot lb) 1 phaseRead 0 (.readRing ring.toNat (localOffs a (n.toNat + 1))) s)

/-- LDY. -/
def execLdy (lb : Bool) (g : BitVec 3) (y : BitVec 5) (s : State) : Result :=
  let (a, s) := takeAddress lb g s
  .next (slotLater (laneSlot lb) 1 phaseRead 0 (.readY y.toNat (a % sramSize)) s)

/-- The granules that hold the bits of a pattern from a granule on (R219). -/
def patGranules (p : Word) : Nat := (patBit p (patCount p - 1) + patW p + 255) / 256

/-- LDU: the pattern is read at issue. -/
def execLdu (lb : Bool) (g : BitVec 3) (y : BitVec 5) (pat : BitVec 3) (s : State) : Result :=
  let (a, s) := takeAddress lb g s
  let p := (s.tile s.cur.tile).upat[pat.toNat]?.getD 0
  .next (slotLater (laneSlot lb) 1 phaseRead 0 (.readUnpack y.toNat p (localOffs a (patGranules p))) s)

/-- STY: the register is read at issue and written to the bank a cycle on. -/
def execSty (lb : Bool) (g : BitVec 3) (y : BitVec 5) (tag : BitVec 6) (s : State) : Result :=
  let (a, s) := takeAddress lb g s
  .next (slotLater (laneSlot lb) 1 phaseWrite 0 (.store (a % sramSize) (sealed (s.files.yReg y) tag)) s)

/-- AGSET. -/
def execAgset (lb : Bool) (g : BitVec 3) (granule : BitVec 14) (s : State) : Result :=
  .next (slotLater (laneSlot lb) 1 phaseRead 0 (.readGen lb g.toNat (32 * granule.toNat)) s)

/-- The generators of a transfer: HBM address and local address, with both generators stepped; one generator named twice is
used once (log 32). -/
def takeTwo (lb : Bool) (h l : BitVec 3) (s : State) : Nat × Nat × State :=
  let (va, s1) := takeAddress lb h s
  if h = l then (va, va, s1)
  else
    let (a, s2) := takeAddress lb l s1
    (va, a, s2)

/-- A transfer begun, with its deadline on a region cycle (R220). -/
def beginTransfer (load lb : Bool) (h l n : BitVec 3) (lead : BitVec 13) (s : State) : Transfer × State :=
  let (va, a, s) := takeTwo lb h l s
  let (id, s) := s.fresh
  let tile := s.cur.tile
  let (region, cycle) := match s.tileRegion tile with
    | some (id, r) => (id, r.cycle)
    | none => (0, 0)
  let x : Transfer :=
    { id := id, load := load, va := va, off := a, n := n.toNat + 1, deadline := cycle + lead.toNat
      addr := (s.tile tile).timed.addr, region := region }
  (x, s.modTimed tile fun t => { t with transfers := t.transfers ++ [x] })

/-- The bursts of a transfer: one for each aligned 256-byte block that its virtual range spans (13 R335). -/
def Transfer.bursts (x : Transfer) : List (Nat × Nat) :=
  let last := (x.va + 32 * x.n - 1) / 256
  (List.range (last - x.va / 256 + 1)).map fun i =>
    let b := x.va / 256 + i
    let first := max x.va (256 * b)
    let stop := min (x.va + 32 * x.n) (256 * (b + 1))
    ((first - x.va) / 32, (stop - first) / 32)

/-- A burst leaves for its port (13 R335). -/
def sendBurst (tile : Nat) (x : Transfer) (s : State) (b : Nat × Nat) : State :=
  let (id, s) := s.fresh
  let a : Access :=
    { id := id, who := ⟨tile, 8⟩, thread := 0, key := .virt ((x.va + 32 * b.1) % 2 ^ 56), size := 32 * b.2, kind := .burst x.id b.1 b.2, stage := 1 }
  { s with accs := s.accs ++ [a] }.schedule (max s.cycle (s.cycle + (if x.load then 1 else 0))) phaseAccess (.portAccess id)

/-- HLD: its bursts leave a cycle on. -/
def execHld (lb : Bool) (h l : BitVec 3) (n : BitVec 3) (lead : BitVec 13) (s : State) : Result :=
  let (x, s) := beginTransfer true lb h l n lead s
  .next (x.bursts.foldl (sendBurst s.cur.tile x) s)

/-- HST: its granules are read from the banks a cycle on. -/
def execHst (lb : Bool) (h l : BitVec 3) (n : BitVec 3) (lead : BitVec 13) (s : State) : Result :=
  let (x, s) := beginTransfer false lb h l n lead s
  .next (slotLater (laneSlot lb) 1 phaseRead 0 (.readHost x.id) s)

/-- HLD_DEADLINE: a checked transfer that is not complete is late (R220). -/
def execHldDeadline (tile id : Nat) (s : State) : Result :=
  match (s.tile tile).timed.transfers.find? (·.id = id) with
  | some x => .next (if x.checked then raiseTiming tile 0 x.addr s else s)
  | none => .next s

/-- Granules of a transfer performed; with the last it is over. -/
def performBurst (tile id : Nat) (granules : List Nat) (s : State) : State :=
  s.modTimed tile fun t =>
    { t with transfers := (t.transfers.map fun x => if x.id = id then { x with done := granules ++ x.done } else x).filter fun x =>
        x.done.length < x.n }

/-- A translation fault of a transfer: a region fault while it is checked; it moves nothing more (R220). -/
def failTransfer (tile id : Nat) (f : PortFault) (s : State) : State :=
  match (s.tile tile).timed.transfers.find? (·.id = id) with
  | none => s
  | some x =>
    let s := s.modTimed tile fun t => { t with transfers := t.transfers.filter (·.id ≠ id) }
    if x.checked then raiseRegion tile 5 f.code f.sub f.info x.addr s else s

/-! SC (R221) -/

/-- ZLD names a b generator. -/
def execZld (z g : BitVec 3) (s : State) : Result :=
  let (a, s) := takeAddress true g s
  .next (slotLater 4 1 phaseRead 0 (.readScale z.toNat (a % sramSize)) s)

/-- ZSPLAT. -/
def execZsplat (z : BitVec 3) (code : BitVec 8) (s : State) : Result :=
  .next (slotLater 4 2 phaseLand 0 (.z z.toNat (BitVec.ofNat 256 (code.toNat * ((2 ^ 256 - 1) / 255)))) s)

/-- ZFY. -/
def execZfy (z : BitVec 3) (y : BitVec 5) (s : State) : Result :=
  .next (slotLater 4 2 phaseLand 0 (.z z.toNat (s.files.yReg y)) s)

/-! LK (R222, R223) -/

/-- The granules of a receive buffer. -/
def bufferSize : Nat := 32

def Files.rxBuf (f : Files) (port : Nat) : List Granule := f.rx[port]?.getD []

/-- The cycles of a timed link, from issue, as the map gives them. -/
def portLatency (s : State) (port : Nat) : Nat := (s.pkg.ports[port]?.getD {}).latency

/-- Granules sent over a port, to arrive a number of cycles from the issue that lies a number of cycles back. Those over a timed
link leave the package. -/
def sendOver (tile port back addr : Nat) (gs : List Granule) (s : State) : State :=
  match linkPeer tile port with
  | some (t, p) =>
    let n := linkLatency s tile port - back
    if tileDie t ≠ tileDie tile && s.pkg.severed.contains (clusterOf tile, linkHeading port) then later tile 5 n phaseLand 0 addr .sent s
    else later tile 5 n phaseLand 0 addr .sent
      (gs.foldl (fun s g => s.schedule (s.cycle + n) phaseLand (.linkGranuleArrival t p g.data g.sl false)) s)
  | none => later tile 5 (portLatency s port - back) phaseLand 0 addr .sent s

/-- The first n granules of a port's buffer taken; a shorter buffer is a late link. -/
def takeLink (port n : Nat) (s : State) : Except State (List Granule × State) :=
  let tile := s.cur.tile
  let buf := s.files.rxBuf port
  if buf.length < n then .error (raiseTiming tile 1 (s.tile tile).timed.addr s)
  else .ok (buf.take n, s.modTimed tile (·.withFiles fun f => { f with rx := f.rx.setIfInBounds port (buf.drop n) }))

/-- LSEND: the granules are read a cycle on, and sent. -/
def execLsend (port : BitVec 5) (g : BitVec 3) (n : BitVec 2) (s : State) : Result :=
  let (a, s) := takeAddress false g s
  .next (slotLater 5 1 phaseRead 0 (.readSend port.toNat (localOffs a (n.toNat + 1))) s)

/-- LRECV. -/
def execLrecv (port : BitVec 5) (g : BitVec 3) (n : BitVec 2) (s : State) : Result :=
  let (a, s) := takeAddress false g s
  match takeLink port.toNat (n.toNat + 1) s with
  | .error s => .next s
  | .ok (gs, s) => .next (slotLater 5 1 phaseWrite 0 (.received ((localOffs a (n.toNat + 1)).zip gs)) s)

/-- LPASS. -/
def execLpass (portI portO : BitVec 5) (n : BitVec 2) (s : State) : Result :=
  match takeLink portI.toNat (n.toNat + 1) s with
  | .error s => .next s
  | .ok (gs, s) => .next (sendOver s.cur.tile portO.toNat 0 (s.tile s.cur.tile).timed.addr gs s)

/-- The seal of a granule from a damaged flit: bits 16 and 17 inverted (16 R376). -/
def damagedSeal (sl : BitVec 32) : BitVec 32 := sl ^^^ 0x30000

/-- A timed link port that has lost lock: the flits in flight on it are lost (16 R375). -/
def linkLost (s : State) (port : Nat) : Bool := port < 24 && (s.pkg.ports[port]?.getD {}).state ≠ 3

/-- LINK_GRANULE_ARRIVAL: a granule enters the receive buffer of a port; a full buffer is a late link at the receiver. -/
def execLinkGranuleArrival (tile port : Nat) (data : Vec) (sl : BitVec 32) (damaged : Bool) (s : State) : Result :=
  let t := (s.tile tile).timed
  let buf := t.files.rxBuf port
  if linkLost s port then .next s
  else if bufferSize ≤ buf.length then .next (raiseTiming tile 1 t.addr s)
  else
    let g : Granule := ⟨data, if damaged then damagedSeal sl else sl⟩
    .next (s.modTimed tile (·.withFiles fun f => { f with rx := f.rx.setIfInBounds port (buf ++ [g]) }))

/-! CT (R224 to R226) -/

/-- CSET. -/
def execCset (c : BitVec 3) (value : BitVec 28) (s : State) : Result :=
  .next (slotLater 6 2 phaseLand 0 (.c c.toNat (value.setWidth 32)) s)

/-- CFP. -/
def execCfp (c : BitVec 3) (p : BitVec 4) (s : State) : Result :=
  .next (slotLater 6 2 phaseLand 0 (.c c.toNat (((s.tile s.cur.tile).timed.postReg p).setWidth 32)) s)

/-- CFY. -/
def execCfy (c : BitVec 3) (y : BitVec 5) (e : BitVec 3) (s : State) : Result :=
  .next (slotLater 6 2 phaseLand 0 (.c c.toNat (BitVec.ofNat 32 (elem (s.files.yReg y).toNat 32 e.toNat))) s)

/-- WOPEN. -/
def execWopen (win : BitVec 4) (granule : BitVec 14) (s : State) : Result :=
  .next (slotLater 6 1 phaseRead 0 (.openWin win.toNat granule.toNat) s)

/-- The region cycle of the present tile. -/
def cycleNow (s : State) : Nat :=
  match s.tileRegion s.cur.tile with
  | some (_, r) => r.cycle
  | none => 0

/-- WCLOSE under DEFAULT. -/
def execWcloseDefault (win : BitVec 4) (s : State) : Result :=
  .next (slotLater 6 1 phaseRead 0 (.closeWin win.toNat none (cycleNow s)) s)

/-- WCLOSE under STALL. -/
def execWcloseStall (win : BitVec 4) (timeout : BitVec 20) (s : State) : Result :=
  .next (slotLater 6 1 phaseRead 0 (.closeWin win.toNat (some timeout.toNat) (cycleNow s)) s)

/-- SWAPH: a true condition latches a swap request; 0 always, 1 .z, 2 .nz. -/
def execSwaph (cond : BitVec 2) (p : BitVec 4) (s : State) : Result :=
  .next (s.modTimed s.cur.tile fun t => if cond = 0 || postMeets (cond.toNat - 1) (t.postReg p) then { t with swap := true } else t)

/-! Windows (13 R320 to R326) -/

def Files.window (f : Files) (w : Nat) : Window := f.win[w]?.getD {}
def Files.setWindow (f : Files) (w : Nat) (v : Window) : Files := { f with win := f.win.setIfInBounds w v }
/-- The posts that a window lists. -/
def Window.posts (w : Window) : BitVec 16 := w.desc.extractLsb' 240 16
/-- The listed posts that have not arrived. -/
def Timed.missing (t : Timed) (w : Nat) : BitVec 16 := (t.files.window w).posts &&& ~~~t.arrived

/-- A closed window opens: its descriptor is latched, and its posts' arrived flags are cleared (R322). -/
def openWindow (tile w granule addr : Nat) (s : State) : State :=
  if ((s.tile tile).timed.files.window w).st ≠ .closed then s
  else
    match timedData tile (32 * granule) none addr s with
    | (none, s) => s
    | (some d, s) =>
      s.modTimed tile fun t =>
        { t.withFiles (·.setWindow w { st := .opened, granule := granule, desc := d }) with
          arrived := t.arrived &&& ~~~(d.extractLsb' 240 16) }

/-- The SRAM offset of the granule that holds the default of a post (R320). -/
def defaultOff (w : Window) (p : Nat) : Nat := (w.granule + 1 + p / 4) % 12288 * 32

/-- The SRAM offsets of the granules that hold the defaults of a window's missing posts, each once. -/
def Timed.defaultOffs (t : Timed) (w : Nat) : List Nat :=
  (((List.range 16).filter (t.missing w).getLsbD).map (defaultOff (t.files.window w))).eraseDups

/-- The missing posts whose defaults a granule holds take them; it is seal-checked once, if any does (R325). -/
def takeDefaults (tile w addr : Nat) (missing : BitVec 16) (s : State) (r : Nat × Granule) : State :=
  let ps := (List.range 16).filter fun p => missing.getLsbD p && defaultOff ((s.tile tile).timed.files.window w) p = r.1
  if ps.isEmpty then s
  else
    match sealCheck r.2 none with
    | .error f => raiseSeal tile f r.1 addr (s.countCorrection tile (sealFixes r.2))
    | .ok (d, corrected) =>
      (s.countCorrection tile corrected).modTimed tile fun t =>
        { t with post := ps.foldl (fun v p => v.setIfInBounds p (d.extractLsb' (64 * (p % 4)) 64)) t.post }

/-- An open window closes; its posts are accepted through the end of this cycle, at which the close is decided. Under DEFAULT the
granules of the defaults are read now (R324, R325). -/
def closeWindow (tile w : Nat) (stall : Option Nat) (at_ addr : Nat) (s : State) : State :=
  if ((s.tile tile).timed.files.window w).st ≠ .opened then s
  else
    let offs := if stall.isNone then (s.tile tile).timed.defaultOffs w else []
    let (gs, s) := timedReads tile offs s
    let s := s.modTimed tile (·.withFiles fun f => f.setWindow w { f.window w with st := .closed, closing := some s.cycle })
    later tile 6 0 phaseEnd 0 addr (.closed w stall at_ (offs.zip gs)) s

/-- The close decided: the defaults taken with their record, or the window awaits its posts and the freeze is fixed (R325, R326). -/
def decideClose (tile w : Nat) (stall : Option Nat) (at_ addr : Nat) (defaults : List (Nat × Granule)) (s : State) : State :=
  let missing := (s.tile tile).timed.missing w
  if missing = 0 then s
  else
    match stall, s.tileRegion tile with
    | none, _ => deviateAt tile 7 addr 0 (missing.toNat * 65536 + w) (defaults.foldl (takeDefaults tile w addr missing) s)
    | some timeout, some (id, r) =>
      let f : Freeze := { close := some (tile, w), addr := addr, missing := missing, point := at_ + r.s, count := 1, timeout := timeout }
      let s := s.modTimed tile (·.withFiles fun f => f.setWindow w { f.window w with st := .awaiting, awaited := missing })
      let s := s.modRegion id fun r => { r with freezes := r.freezes ++ [f] }
      if timeout ≤ 1 then s.schedule s.cycle phaseEnd (.postTimeout tile w) else s
    | some _, none => s

/-! Landing (R215, R218) -/

/-- The header lines of granules at offsets (09 R235). -/
def pushList (offs : List Nat) (gs : List Granule) : List (Bool × Granule) := (offs.zip gs).map fun p => (p.1 % 128 = 0, p.2)

/-- A part of a y register, a z register, a counter or a generator set. -/
def Files.setY (f : Files) (n : Nat) (v mask : Vec) : Files := { f with y := f.y.setIfInBounds n (blend (f.y[n]?.getD 0) v mask) }
def Files.setZ (f : Files) (n : Nat) (v : Vec) : Files := { f with z := f.z.setIfInBounds n v }
def Files.setAccRow (f : Files) (n row : Nat) (v : Vec) : Files := { f with acc := f.acc.setIfInBounds (8 * n + row) v }

/-- The effect of a timed result. -/
def landTimed (tile : Nat) (r : TimedRes) (s : State) : State :=
  let put (f : Files → Files) (s : State) : State := s.modTimed tile (·.withFiles f)
  let next (delay : Nat) (flags : BitVec 8) (eff : Effect) (s : State) : State := later tile r.slot delay phaseLand flags r.addr eff s
  match r.eff with
  | .y n v mask => put (·.setY n v mask) s
  | .z n v => put (·.setZ n v) s
  | .c n v => put (·.setCounter n v) s
  | .gen lb n g => put (·.setGen lb n g) s
  | .accZero n => put (fun f => (List.range 8).foldl (fun f i => f.setAccRow n i 0) f) s
  | .accRow n row v => put (·.setAccRow n row v) s
  | .arrayRead op offsA offsB codes za zb lands =>
    let (ga, s) := timedReads tile offsA s
    let (gb, s) := timedReads tile offsB s
    let r := groupSums op (operandBits ga) (operandBits gb) codes za zb
    next (lands - s.cycle) (timedFlags r.2) (.array op r.1) s
  | .array op sums => landArray tile op sums s
  | .readRing ring offs =>
    let q := (s.tile tile).timed.ring ring
    match timedDatas tile (if q.enable then some q.tag else none) r.addr offs s with
    | (none, s) => s
    | (some ds, s) =>
      let gs := (offs.zip ds).map fun p => (⟨p.2, (s.granule (.sram tile p.1)).sl⟩ : Granule)
      next 5 0 (.pushRing ring (pushList offs gs)) s
  | .readY n off =>
    match timedData tile off none r.addr s with
    | (none, s) => s
    | (some d, s) => next 5 0 (.y n d fullMask) s
  | .readGen lb n off =>
    match timedData tile off none r.addr s with
    | (none, s) => s
    | (some d, s) => next 5 0 (.gen lb n (genOf d)) s
  | .readUnpack y pat offs =>
    match timedDatas tile (some (patTag pat)) r.addr offs s with
    | (none, s) => s
    | (some ds, s) =>
      let u := patUnpack pat (ds.foldr (fun d n => d.toNat + 2 ^ 256 * n) 0) fullMask
      next (4 + offs.length) (u.2.setWidth 8) (.y y u.1 fullMask) s
  | .readScale z off =>
    match timedData tile off (some 0x15) r.addr s with
    | (none, s) => s
    | (some d, s) => next 3 0 (.z z d) s
  | .readSend port offs =>
    let (gs, s) := timedReads tile offs s
    sendOver tile port 1 r.addr gs s
  | .readHost id =>
    match (s.tile tile).timed.transfers.find? (·.id = id) with
    | none => s
    | some x =>
      let (gs, s) := timedReads tile (localOffs x.off x.n) s
      let s := s.modTimed tile fun t => { t with transfers := t.transfers.map fun y => if y.id = id then { y with data := gs } else y }
      x.bursts.foldl (sendBurst tile x) s
  | .openWin w granule => openWindow tile w granule r.addr s
  | .pushRing ring gs => gs.foldl (pushEntry tile ring r.addr) s
  | .store off g => timedWrite tile off g s
  | .closeWin w stall at_ => closeWindow tile w stall at_ r.addr s
  | .closed w stall at_ ds => decideClose tile w stall at_ r.addr ds s
  | .sent => s
  | .received ws => ws.foldl (fun s p => timedWrite tile p.1 p.2 s) s

/-- The order of two results of one tile that are due: by cycle, phase, slot and issue (R212). -/
def TimedRes.before (a b : TimedRes) : Bool :=
  a.due < b.due || (a.due = b.due &&
    (a.phase < b.phase || (a.phase = b.phase && (a.slot < b.slot || (a.slot = b.slot && a.id < b.id)))))

/-- The first of the results that are due. -/
def firstDue (cycle : Nat) (rs : List TimedRes) : Option TimedRes :=
  rs.foldl (fun best r =>
    if cycle < r.due then best
    else
      match best with
      | none => some r
      | some b => if r.before b then some r else best) none

/-- TIMED_RESULT_LANDS: each result has its own completion; of those that a tile has due, the first in slot order lands. -/
def execTimedResultLands (tile _ : Nat) (s : State) : Result :=
  match firstDue s.cycle (s.tile tile).timed.results with
  | none => .next s
  | some r =>
    .next (landTimed tile r (s.modTimed tile fun t =>
      { t with results := t.results.filter (·.id ≠ r.id), flags := t.flags ||| r.flags }))

end Sys2Proof.Machine
end

