-- ==== Sys2Proof/Machine/Vector.lean ====
section
/-! DEFINITION. The vector instructions that compute: floating, integer, SFU, conversions, movement, reduction, scan and
masks (05 R114 to R136). -/

namespace Sys2Proof.Machine

/-! Element loops (R114, 01 R26) -/

/-- The rounding an instruction resolves to: a fixed mode, or stochastic (01 R25). -/
inductive Round where
  | fixed (m : Mode)
  | stochastic
  deriving DecidableEq, Repr

/-- A code of R25 below 5. -/
def modeOf (code : Nat) : Mode :=
  match code with
  | 1 => .rtz | 2 => .rup | 3 => .rdn | 4 => .rna | _ => .rne

/-- The round field with cr.fmode; DYN holding SR rounds under RNE where the destination is no narrow type (R25). -/
def resolveRound (t : Thread) (code : BitVec 3) (narrow : Bool) : Round :=
  let c := if code = 6 then t.fmode else code
  if c = 5 then (if narrow then .stochastic else .fixed .rne) else .fixed (modeOf c.toNat)

/-- One step of a generator (R26). -/
def genStep (s : BitVec 32) : BitVec 32 :=
  let s := s ^^^ (s <<< 13)
  let s := s ^^^ (s >>> 17)
  s ^^^ (s <<< 5)

/-- What an element loop has gathered: the elements, the bits written, the flags, the generators. -/
structure Lanes where
  value : Nat := 0
  mask : Nat := 0
  flags : BitVec 7 := 0
  gen : Vector (BitVec 32) 8
  deriving DecidableEq, Repr

/-- The mode for an element whose lowest bit stands in a lane; a stochastic one draws and advances the lane's generator. -/
def Lanes.draw (l : Lanes) (r : Round) (lane : Nat) : Mode × Vector (BitVec 32) 8 :=
  match r with
  | .fixed m => (m, l.gen)
  | .stochastic =>
    let g := genStep (l.gen[lane]?.getD 0)
    (.sr (g.extractLsb' 8 24), l.gen.setIfInBounds lane g)

/-- The active elements among n of width w, in ascending order. -/
def elements (n w : Nat) (active : Nat → Bool) (r : Round) (gen : Vector (BitVec 32) 8) (f : Nat → Mode → Nat × Flags) : Lanes :=
  (List.range n).foldl (fun l i =>
    if active i then
      let (m, gen) := l.draw r (i * w % 256 / 32)
      let (v, fl) := f i m
      { value := l.value + (v % 2 ^ w) * 2 ^ (i * w), mask := l.mask + (2 ^ w - 1) * 2 ^ (i * w)
        flags := l.flags ||| fl.toBits, gen := gen }
    else l) { gen := gen }

/-- An element is active when the mask bit of the lowest byte it occupies is set (02 R44). -/
def maskActive (k : BitVec 32) (w i : Nat) : Bool := k.getLsbD (i * w / 8)

/-- The tag that a load expects and a store writes for an element type (R138). -/
def tagOfEt (et : BitVec 4) : BitVec 6 :=
  match et.toNat with
  | 0 => 0x01 | 1 => 0x03 | 2 => 0x04 | 3 => 0x05 | 4 => 0x02 | 8 => 0x06 | 9 => 0x07 | 10 => 0x08
  | 11 => 0x09 | 12 => 0x0A | 13 => 0x0B | 14 => 0x0F | _ => 0

/-- The narrow types of R25. -/
def narrowType (et : BitVec 4) : Bool := 9 ≤ et.toNat && et.toNat ≤ 13

/-! Element-wise instructions -/

/-- The options of a 64-bit vector instruction by its operands. -/
def vopts (i : Instr) (f : VForm) (b : OpCode) (long : Bool) (vregs : List Nat) : Opts :=
  { opts64 f.w i with
    long := long || slowSource f.a || slowSource b, commits := commitsBy f.d f.a b, vregs := vregs }

/-- The vector registers that a v destination code names. -/
def vDest (code : OpCode) : List Nat := if isKind .v code then [vNum code] else []

/-- How an element-wise instruction works. -/
structure Elementwise where
  /-- a b d and the mode, to the result -/
  elem : Nat → Nat → Nat → Mode → Nat × Flags
  /-- d is read as well, and is a v code (02 R42) -/
  three : Bool := false
  unary : Bool := false
  /-- the result rounds under the round field -/
  rounds : Bool := false
  /-- the destination is FP32, whatever the etype -/
  wide : Bool := false
  latency : Option Nat := none
  /-- the width of the elements computed, where the etype names only the sources -/
  width : Option Nat := none
  /-- the source's width and tag, where they are not the etype's -/
  source : Option (Nat × BitVec 6) := none

/-- An element-wise instruction (R114). -/
def elementwise (i : VForm → Instr) (f : VForm) (p : Elementwise) (s : State) : Result :=
  let b := if p.unary then 424 else f.b
  let kb := if p.unary then 0 else f.kb
  let o := vopts (i f) f b p.latency.isSome (vDest f.d)
  issue o
    (do
      needOperand o (if p.three then [.v] else dstKinds) f.d 0
      needOperand o srcKinds f.a f.ka
      needOperand o srcKinds b kb)
    (fun pc => do
      let w := p.width.getD (etBits f.et)
      let (sw, tag) := p.source.getD (etBits f.et, tagOfEt f.et)
      let (va, vb, lat) ← readOperands pc sw tag f.d f.a f.ka b kb
      let t ← getT
      let vd := if isKind .v f.d then (t.getV (vNum f.d)).toNat else 0
      let r := if p.rounds then resolveRound t f.round (narrowType f.et && !p.wide) else .fixed .rne
      let l := elements (256 / w) w (maskActive (t.getK f.mask) w) r t.gen fun i m =>
        p.elem (elem va.toNat w i) (elem vb.toNat w i) (elem vd w i) m
      modT fun t => { t with gen := l.gen }
      putVector pc f.d (if p.latency.isSome then p.latency else lat) (BitVec.ofNat 256 l.value) (BitVec.ofNat 256 l.mask)
        f.z (tagOfEt f.et) l.flags) s

/-! Floating-point (R118, R119) -/

/-- An exact value with its flags, rounded once. -/
def rounded (F : Fmt) (m : Mode) (x : Num × Flags) : Nat × Flags :=
  let (r, g) := roundTo F m x.1
  (r, x.2.or g)

/-- A mode that rounds toward minus infinity gives exact zero sums a minus sign (log 12). -/
def isDown (m : Mode) : Bool := m = .rdn

def fAdd (F : Fmt) (a b : Nat) (m : Mode) : Nat × Flags := rounded F m (addNum (isDown m) (.ofBits F a) (.ofBits F b))
def fSub (F : Fmt) (a b : Nat) (m : Mode) : Nat × Flags := rounded F m (addNum (isDown m) (.ofBits F a) (Num.ofBits F b).neg)
def fMul (F : Fmt) (a b : Nat) (m : Mode) : Nat × Flags := rounded F m (mulNum (.ofBits F a) (.ofBits F b))
def fDiv (F : Fmt) (a b : Nat) (m : Mode) : Nat × Flags := rounded F m (divNum (.ofBits F a) (.ofBits F b))
/-- a × b + d, the product or d negated. -/
def fFma (F : Fmt) (negP negD : Bool) (a b d : Nat) (m : Mode) : Nat × Flags :=
  let a' := if negP then (Num.ofBits F a).neg else .ofBits F a
  let d' := if negD then (Num.ofBits F d).neg else .ofBits F d
  rounded F m (fmaNum (isDown m) a' (.ofBits F b) d')

def execVaddFloat (f : VForm) (s : State) : Result :=
  elementwise .vaddFloat f { elem := fun a b _ m => fAdd (fmtOf f.et) a b m, rounds := true } s
def execVsubFloat (f : VForm) (s : State) : Result :=
  elementwise .vsubFloat f { elem := fun a b _ m => fSub (fmtOf f.et) a b m, rounds := true } s
def execVmulFloat (f : VForm) (s : State) : Result :=
  elementwise .vmulFloat f { elem := fun a b _ m => fMul (fmtOf f.et) a b m, rounds := true } s
def execVdiv (f : VForm) (s : State) : Result :=
  elementwise .vdiv f { elem := fun a b _ m => fDiv (fmtOf f.et) a b m, rounds := true, latency := some 38 } s
def execVfma (f : VForm) (s : State) : Result :=
  elementwise .vfma f { elem := fFma (fmtOf f.et) false false, rounds := true, three := true } s
def execVfms (f : VForm) (s : State) : Result :=
  elementwise .vfms f { elem := fFma (fmtOf f.et) false true, rounds := true, three := true } s
def execVfnma (f : VForm) (s : State) : Result :=
  elementwise .vfnma f { elem := fFma (fmtOf f.et) true false, rounds := true, three := true } s
def execVminFloat (f : VForm) (s : State) : Result :=
  elementwise .vminFloat f { elem := fun a b _ _ => minMax (fmtOf f.et) false false a b } s
def execVmaxFloat (f : VForm) (s : State) : Result :=
  elementwise .vmaxFloat f { elem := fun a b _ _ => minMax (fmtOf f.et) true false a b } s
def execVminn (f : VForm) (s : State) : Result :=
  elementwise .vminn f { elem := fun a b _ _ => minMax (fmtOf f.et) false true a b } s
def execVmaxn (f : VForm) (s : State) : Result :=
  elementwise .vmaxn f { elem := fun a b _ _ => minMax (fmtOf f.et) true true a b } s
/-- VABS clears the sign bit (R119). -/
def execVabs (f : VForm) (s : State) : Result :=
  elementwise .vabs f { elem := fun a _ _ _ => (a % 2 ^ (etBits f.et - 1), {}), unary := true } s
/-- VNEG inverts the sign bit (R119). -/
def execVneg (f : VForm) (s : State) : Result :=
  elementwise .vneg f { elem := fun a _ _ _ => (a ^^^ 2 ^ (etBits f.et - 1), {}), unary := true } s
def execVsqrt (f : VForm) (s : State) : Result :=
  elementwise .vsqrt f
    { elem := fun a _ _ m => rounded (fmtOf f.et) m (sqrtNum (.ofBits (fmtOf f.et) a)), unary := true, rounds := true
      latency := some 38 } s

/-! SFU (R126) -/

/-- An SFU operation: its result lands exactly 16 cycles after issue. -/
def sfu (i : VForm → Instr) (g : Num → Num × Flags) (f : VForm) (s : State) : Result :=
  elementwise i f
    { elem := fun a _ _ m => rounded (fmtOf f.et) m (g (.ofBits (fmtOf f.et) a)), unary := true, rounds := true
      latency := some 16 } s

def execVexp2 (f : VForm) (s : State) : Result := sfu .vexp2 exp2Num f s
def execVlog2 (f : VForm) (s : State) : Result := sfu .vlog2 log2Num f s
def execVrcp (f : VForm) (s : State) : Result := sfu .vrcp rcpNum f s
def execVrsq (f : VForm) (s : State) : Result := sfu .vrsq rsqNum f s

/-! Integer (R123) -/

/-- The integer that an element holds under the etype's signedness. -/
def elemInt (et : BitVec 4) (c : Nat) : Int := intOf (etSigned et) (etBits et) c

/-- An integer operation whose exact result wraps. -/
def intWrap (i : VForm → Instr) (three : Bool) (g : Int → Int → Int → Int) (f : VForm) (s : State) : Result :=
  elementwise i f
    { elem := fun a b d _ => (intBits (etBits f.et) (g (elemInt f.et a) (elemInt f.et b) (elemInt f.et d)), {}), three := three } s

/-- An integer operation whose exact result is clamped. -/
def intClamp (i : VForm → Instr) (g : Int → Int → Int) (f : VForm) (s : State) : Result :=
  elementwise i f
    { elem := fun a b _ _ => clampInt (etSigned f.et) (etBits f.et) (g (elemInt f.et a) (elemInt f.et b)) } s

def execVaddInt (f : VForm) (s : State) : Result := intWrap .vaddInt false (fun a b _ => a + b) f s
def execVsubInt (f : VForm) (s : State) : Result := intWrap .vsubInt false (fun a b _ => a - b) f s
def execVmulInt (f : VForm) (s : State) : Result := intWrap .vmulInt false (fun a b _ => a * b) f s
def execVmulh (f : VForm) (s : State) : Result := intWrap .vmulh false (fun a b _ => a * b / 2 ^ etBits f.et) f s
def execVmad (f : VForm) (s : State) : Result := intWrap .vmad true (fun a b d => d + a * b) f s
def execVadds (f : VForm) (s : State) : Result := intClamp .vadds (fun a b => a + b) f s
def execVsubs (f : VForm) (s : State) : Result := intClamp .vsubs (fun a b => a - b) f s
def execVminInt (f : VForm) (s : State) : Result := intWrap .vminInt false (fun a b _ => min a b) f s
def execVmaxInt (f : VForm) (s : State) : Result := intWrap .vmaxInt false (fun a b _ => max a b) f s

/-- A bit operation on elements of the etype's width. -/
def bitwise (i : VForm → Instr) (g : Nat → Nat → Nat) (f : VForm) (s : State) : Result :=
  elementwise i f { elem := fun a b _ _ => (g a b, {}) } s

def execVand (f : VForm) (s : State) : Result := bitwise .vand (fun a b => a &&& b) f s
def execVor (f : VForm) (s : State) : Result := bitwise .vor (fun a b => a ||| b) f s
def execVxor (f : VForm) (s : State) : Result := bitwise .vxor (fun a b => a ^^^ b) f s
def execVandn (f : VForm) (s : State) : Result := bitwise .vandn (fun a b => a &&& (2 ^ etBits f.et - 1 - b)) f s
def execVsll (f : VForm) (s : State) : Result := bitwise .vsll (fun a b => a <<< (b % etBits f.et)) f s
def execVsrl (f : VForm) (s : State) : Result := bitwise .vsrl (fun a b => a >>> (b % etBits f.et)) f s
/-- A shift that fills with the element's sign bit, whatever the type. -/
def execVsra (f : VForm) (s : State) : Result :=
  bitwise .vsra (fun a b => intBits (etBits f.et) (intOf true (etBits f.et) a / 2 ^ (b % etBits f.et))) f s

/-! Comparisons (R120, R124) -/

/-- The mask register that a destination field names: 1 to 7, its high bits zero (02 R42). -/
def needMaskDest (o : Opts) (d : OpCode) : M Unit := needOk o (1 ≤ d.toNat && d.toNat ≤ 7)

/-- A comparison: each active element's result fills the mask bits of the byte lanes it covers. -/
def compare (i : VForm → Instr) (g : Nat → Nat → Bool × Flags) (f : VForm) (s : State) : Result :=
  let o := { opts64 f.w (i f) with long := slowSource f.a || slowSource f.b, commits := commitsBy 0 f.a f.b }
  issue o
    (do
      needMaskDest o f.d
      needOperand o srcKinds f.a f.ka
      needOperand o srcKinds f.b f.kb)
    (fun pc => do
      let w := etBits f.et
      let (va, vb, lat) ← readOperands pc w (tagOfEt f.et) 0 f.a f.ka f.b f.kb
      let t ← getT
      let l := elements (256 / w) (w / 8) (maskActive (t.getK f.mask) w) (.fixed .rne) t.gen fun i _ =>
        let (r, fl) := g (elem va.toNat w i) (elem vb.toNat w i)
        (if r then 2 ^ (w / 8) - 1 else 0, fl)
      let n : BitVec 3 := f.d.setWidth 3
      let ws : List Write :=
        [.k n (BitVec.ofNat 32 l.value) (if f.z then ones 32 else BitVec.ofNat 32 l.mask), .flags l.flags]
      match lat with
      | none => modT (·.writes ws)
      | some n' => longResult pc n' [destK n] ws) s

/-- The floating predicates and the NaNs that set invalid (R120). -/
def floatHolds (F : Fmt) (pred : Nat) (a b : Nat) : Bool × Flags :=
  let x := Num.ofBits F a
  let y := Num.ofBits F b
  let un := x.isNan || y.isNan
  let sig : Flags := if x.isSig || y.isSig then flagInvalid else {}
  let anyNan : Flags := if un then flagInvalid else {}
  match pred with
  | 0 => (x.eq y, sig)
  | 1 => (!x.eq y, sig)
  | 2 => (!un && x.lt y, anyNan)
  | 3 => (!un && (x.lt y || x.eq y), anyNan)
  | 4 => (!un && y.lt x, anyNan)
  | 5 => (!un && (y.lt x || x.eq y), anyNan)
  | 6 => (un, sig)
  | _ => (!un, sig)

/-- The integer predicates (R124). -/
def intHolds (pred : Nat) (a b : Int) : Bool :=
  match pred with
  | 0 => a = b
  | 1 => a ≠ b
  | 2 => a < b
  | 3 => a ≤ b
  | 4 => a > b
  | _ => a ≥ b

def execVcmpFloat (f : VForm) (s : State) : Result :=
  compare .vcmpFloat (floatHolds (fmtOf f.et) (f.imm.toNat % 8)) f s
def execVcmpInt (f : VForm) (s : State) : Result :=
  compare .vcmpInt (fun a b => (intHolds (f.imm.toNat % 8) (elemInt f.et a) (elemInt f.et b), {})) f s

/-! Dot products (R122, R125) -/

/-- The products of a lane's elements. -/
def laneProducts {α : Type} (w : Nat) (a b : Nat) (g : Nat → Nat → α) : List α :=
  (List.range (32 / w)).map fun j => g (elem a w j) (elem b w j)

/-- One lane of the floating VDOT: the exact products, their tree, and the lane's sum. -/
def dotFloat (F : Fmt) (a b d : Nat) (m : Mode) : Nat × Flags :=
  let ps := laneProducts F.width a b fun x y => mulNum (.ofBits F x) (.ofBits F y)
  let fl := ps.foldl (fun (fl : Flags) p => fl.or p.2) {}
  let (p, g) := productTree 3 (ps.map (·.1))
  let (r, h) := addF32 m d p
  (r, (fl.or g).or h)

def execVdotFloat (f : VForm) (s : State) : Result :=
  elementwise .vdotFloat f
    { elem := fun a b d m => dotFloat (fmtOf f.et) a b d m, three := true, rounds := true, wide := true, width := some 32 } s

/-- One lane of the integer VDOT, modulo 2^32. -/
def dotInt (et : BitVec 4) (a b d : Nat) : Nat :=
  intBits 32 ((laneProducts (etBits et) a b fun x y => elemInt et x * elemInt et y).foldl (· + ·) 0 + d)

def execVdotInt (f : VForm) (s : State) : Result :=
  elementwise .vdotInt f { elem := fun a b d _ => (dotInt f.et a b d, {}), three := true, width := some 32 } s

/-! Conversions (R127 to R131) -/

/-- The tag that a conversion expects of its source. -/
def srcTag (src : Nat) : BitVec 6 := if src = 16 then 0x10 else tagOfEt (BitVec.ofNat 4 src)

/-- VCVT: equal widths (R128). -/
def execVcvt (f : VForm) (s : State) : Result :=
  elementwise .vcvt f
    { elem := fun a _ _ m => convert f.et f.srcType m a, unary := true, rounds := !f.cvtExact
      source := some (etBits f.et, srcTag f.srcType) } s

/-- A group of v registers within the window, with no distance (R116). -/
def needGroup (o : Opts) (code : OpCode) (dist : BitVec 2) (count : Nat) : M Unit := do
  needOk o (isKind .v code && dist = 0 && vNum code + count ≤ (← getT).window)

/-- The registers of a group. -/
def groupRegs (code : OpCode) (count : Nat) : List Nat := (List.range count).map (vNum code + ·)

/-- A group's bits, the first register lowest. -/
def Thread.groupBits (t : Thread) (code : OpCode) (count : Nat) : Nat :=
  (List.range count).foldl (fun n j => n + (t.getV (vNum code + j)).toNat * 2 ^ (256 * j)) 0

/-- A group's registers written under a mask. -/
def Thread.setGroup (t : Thread) (code : OpCode) (count value mask : Nat) : Thread :=
  (List.range count).foldl (fun t j =>
    t.write (.v (vNum code + j) (BitVec.ofNat 256 (value / 2 ^ (256 * j))) (BitVec.ofNat 256 (mask / 2 ^ (256 * j))))) t

/-- VCVTW: widening; the mask governs the source elements (R129). -/
def execVcvtw (f : VForm) (s : State) : Result :=
  let sw := f.srcWidth
  let dw := etBits f.et
  let c := dw / sw
  let o := { opts64 f.w (.vcvtw f) with vregs := groupRegs f.d c }
  issue o
    (do
      needGroup o f.d 0 c
      needGroup o f.a f.ka 1)
    (fun _ => modT fun t =>
      let a := (t.getV (vNum f.a)).toNat
      let r := resolveRound t f.round (narrowType f.et && !f.cvtExact)
      let l := elements (256 / sw) dw (maskActive (t.getK f.mask) sw) r t.gen fun i m => convert f.et f.srcType m (elem a sw i)
      let t := t.setGroup f.d c l.value (if f.z then 2 ^ (256 * c) - 1 else l.mask)
      { t with gen := l.gen, fflags := t.fflags ||| l.flags }) s

/-- VCVTN: narrowing; the mask governs the destination elements (R130). -/
def execVcvtn (f : VForm) (s : State) : Result :=
  let sw := f.srcWidth
  let dw := etBits f.et
  let c := sw / dw
  let o := { opts64 f.w (.vcvtn f) with vregs := groupRegs f.d 1 }
  issue o
    (do
      needGroup o f.d 0 1
      needGroup o f.a f.ka c)
    (fun _ => modT fun t =>
      let a := t.groupBits f.a c
      let r := resolveRound t f.round (narrowType f.et && !f.cvtExact)
      let l := elements (256 / dw) dw (maskActive (t.getK f.mask) dw) r t.gen fun i m => convert f.et f.srcType m (elem a sw i)
      let t := t.setGroup f.d 1 l.value (if f.z then 2 ^ 256 - 1 else l.mask)
      { t with gen := l.gen, fflags := t.fflags ||| l.flags }) s

/-- The element format and the blocks of a block format (R131). -/
def mxFormat (fmt : Nat) : Fmt × Nat :=
  match fmt with
  | 0 => (.e4m3, 1) | 1 => (.e5m2, 1) | _ => (.e2m1, 2)

/-- VMXQ: groups of 32 FP32 values to blocks with their scales (R131). -/
def execVmxq (f : VForm) (s : State) : Result :=
  let (F, blocks) := mxFormat (f.imm.toNat % 4)
  let o := { opts64 f.w (.vmxq f) with vregs := groupRegs f.d 1 }
  issue o
    (do
      needGroup o f.d 0 1
      needGroup o f.a f.ka (4 * blocks)
      needOperand o [.x] f.b f.kb)
    (fun _ => modT fun t =>
      let src := t.groupBits f.a (4 * blocks)
      let block (k : Nat) : List Nat := (List.range 32).map fun i => elem src 32 (32 * k + i)
      let scale (k : Nat) : Option Nat := mxScale F (block k)
      let r := resolveRound t f.round true
      let l := elements (32 * blocks) F.width (fun _ => true) r t.gen fun i m =>
        match scale (i / 32) with
        | some x => mxElement F m x (elem src 32 i)
        | none => (0, {})
      let scales := (List.range blocks).foldl (fun n k => n + (scale k).getD 0xFF * 2 ^ (8 * k)) 0
      let t := t.setGroup f.d 1 l.value (2 ^ 256 - 1)
      { t.setX (xReg f.b) (BitVec.ofNat 64 scales) with gen := l.gen, fflags := t.fflags ||| l.flags }) s

/-! Movement (R132) -/

def execVmov (f : VForm) (s : State) : Result :=
  elementwise .vmov f { elem := fun a _ _ _ => (a, {}), unary := true } s

/-- VMOVM: a group moved (R132). -/
def execVmovm (f : VForm) (s : State) : Result :=
  let c := f.imm.toNat % 8 + 1
  let o := { opts64 f.w (.vmovm f) with vregs := groupRegs f.d c }
  issue o
    (do
      needGroup o f.d 0 c
      needGroup o f.a f.ka c)
    (fun _ => modT fun t => t.setGroup f.d c (t.groupBits f.a c) (2 ^ (256 * c) - 1)) s

/-- An instruction whose elements are picked from its whole sources. -/
def picking (i : VForm → Instr) (unary : Bool) (pick : Nat → Nat → Nat → Nat) (f : VForm) (s : State) : Result :=
  let b := if unary then 424 else f.b
  let kb := if unary then 0 else f.kb
  let o := vopts (i f) f b false (vDest f.d)
  issue o
    (do
      needOperand o dstKinds f.d 0
      needOperand o srcKinds f.a f.ka
      needOperand o srcKinds b kb)
    (fun pc => do
      let w := etBits f.et
      let (va, vb, lat) ← readOperands pc w (tagOfEt f.et) f.d f.a f.ka b kb
      let t ← getT
      let l := elements (256 / w) w (maskActive (t.getK f.mask) w) (.fixed .rne) t.gen fun i _ =>
        (pick va.toNat vb.toNat i, {})
      putVector pc f.d lat (BitVec.ofNat 256 l.value) (BitVec.ofNat 256 l.mask) f.z (tagOfEt f.et) 0) s

def execVperm (f : VForm) (s : State) : Result :=
  let w := etBits f.et
  picking .vperm false (fun a b i => if elem b w i < 256 / w then elem a w (elem b w i) else 0) f s

/-- VPERM2: a table of two registers, indexed by two registers (R132). -/
def execVperm2 (f : VForm) (s : State) : Result :=
  let o := { opts64 f.w (.vperm2 f) with vregs := groupRegs f.d 2 }
  issue o
    (do
      needGroup o f.d 0 2
      needGroup o f.a f.ka 2
      needGroup o f.b f.kb 2)
    (fun _ => modT fun t =>
      let w := etBits f.et
      let table := t.groupBits f.a 2
      let index := t.groupBits f.b 2
      let l := elements (512 / w) w (fun _ => true) (.fixed .rne) t.gen fun i _ =>
        (if elem index w i < 512 / w then elem table w (elem index w i) else 0, {})
      t.setGroup f.d 2 l.value (2 ^ 512 - 1)) s

def execVslide (f : VForm) (s : State) : Result :=
  let w := etBits f.et
  let n := f.imm.toNat % 128
  picking .vslide false (fun a b i =>
    if i + n < 256 / w then elem a w (i + n) else if i + n < 512 / w then elem b w (i + n - 256 / w) else 0) f s

/-- VSEL: the mask selects, and every element is written (R132). -/
def execVsel (f : VForm) (s : State) : Result :=
  let o := vopts (.vsel f) f f.b false (vDest f.d)
  issue o
    (do
      needOperand o dstKinds f.d 0
      needOperand o srcKinds f.a f.ka
      needOperand o srcKinds f.b f.kb)
    (fun pc => do
      let w := etBits f.et
      let (va, vb, lat) ← readOperands pc w (tagOfEt f.et) f.d f.a f.ka f.b f.kb
      let t ← getT
      let l := elements (256 / w) w (fun _ => true) (.fixed .rne) t.gen fun i _ =>
        (if maskActive (t.getK f.mask) w i then elem va.toNat w i else elem vb.toNat w i, {})
      putVector pc f.d lat (BitVec.ofNat 256 l.value) fullMask false (tagOfEt f.et) 0) s

/-- VBCAST: an index beyond the elements, or other than 0 with an x source, is ILLEGAL_OPERAND (R132). -/
def execVbcast (f : VForm) (s : State) : Result :=
  let w := etBits f.et
  let n := f.imm.toNat % 128
  let o := vopts (.vbcast f) f 424 false (vDest f.d)
  issue o
    (do
      needOperand o dstKinds f.d 0
      needOperand o srcKinds f.a f.ka
      needOk o (n < 256 / w && (n = 0 || !isKind .x f.a)))
    (fun pc => do
      let (va, _, lat) ← readOperands pc w (tagOfEt f.et) f.d f.a f.ka 424 0
      let t ← getT
      let l := elements (256 / w) w (maskActive (t.getK f.mask) w) (.fixed .rne) t.gen fun _ _ => (elem va.toNat w n, {})
      putVector pc f.d lat (BitVec.ofNat 256 l.value) (BitVec.ofNat 256 l.mask) f.z (tagOfEt f.et) 0) s

/-! Reduction (R133) and scan (R134) -/

/-- An element widened exactly to FP32; a signalling NaN stays signalling. -/
def widen (F : Fmt) (c : Nat) : Nat :=
  let x := Num.ofBits F c
  if x.isSig then 0x7FA00000 else (roundTo .f32 .rne x).1

/-- The identity of a floating reduction, as FP32. -/
def floatIdentity (op : Nat) : Nat :=
  match op with
  | 0 => 0x80000000 | 1 => 0x7F800000 | 2 => 0xFF800000 | 3 => 0x7F800000 | _ => 0xFF800000

/-- One step of a floating reduction on FP32 codes. -/
def floatCombine (op : Nat) (a b : Nat) : Nat × Flags :=
  match op with
  | 0 => addF32 .rne a b
  | 1 => minMax .f32 false false a b
  | 2 => minMax .f32 true false a b
  | 3 => minMax .f32 false true a b
  | _ => minMax .f32 true true a b

/-- An integer reduction over the active elements' codes: 64 bits (R133). -/
def intReduce (op : Nat) (et : BitVec 4) (cs : List Nat) : Nat :=
  let w := etBits et
  let ints := cs.map (elemInt et)
  match op with
  | 0 => intBits 64 (ints.foldl (· + ·) 0)
  | 1 => intBits 64 (ints.foldl min (intMax (etSigned et) w))
  | 2 => intBits 64 (ints.foldl max (intMin (etSigned et) w))
  | 5 => cs.foldl (· &&& ·) (2 ^ w - 1)
  | 6 => cs.foldl (· ||| ·) 0
  | _ => cs.foldl (· ^^^ ·) 0

/-- The active elements of a source. -/
def activeCodes (w : Nat) (k : BitVec 32) (v : Nat) : List Nat :=
  ((List.range (256 / w)).filter (maskActive k w)).map (elem v w)

/-- The result of VRED and its flags. -/
def reduce (op : Nat) (et : BitVec 4) (k : BitVec 32) (v : Nat) : Nat × Flags :=
  let w := etBits et
  if etFloat et then
    tree (floatCombine op) 6 ((List.range (256 / w)).map fun i =>
      if maskActive k w i then widen (fmtOf et) (elem v w i) else floatIdentity op)
  else (intReduce op et (activeCodes w k v), {})

/-- VRED: to an x register, or element 0 of a destination whose rest is zero; q, s and n destinations are taken too, under the seal of
the etype (log 89). -/
def execVred (f : VForm) (s : State) : Result :=
  let o := vopts (.vred f) f 424 false (vDest f.d)
  issue o
    (do
      needOperand o [.x, .v, .q, .s, .n] f.d 0
      needOperand o srcKinds f.a f.ka)
    (fun pc => do
      let (va, _, lat) ← readOperands pc (etBits f.et) (tagOfEt f.et) f.d f.a f.ka 424 0
      let t ← getT
      let (r, fl) := reduce (f.imm.toNat % 8) f.et (t.getK f.mask) va.toNat
      match operandOf f.d with
      | .x d =>
        let ws : List Write := [.x d (BitVec.ofNat 64 r), .flags fl.toBits]
        match lat with
        | none => modT (·.writes ws)
        | some n => longResult pc n [destX d] ws
      | _ => putVector pc f.d lat (BitVec.ofNat 256 r) fullMask false (tagOfEt f.et) fl.toBits) s

/-- One step of a scan: the running value, none before the first active element. -/
def scanStep (op : Nat) (et : BitVec 4) (p : Option Nat) (a : Nat) (m : Mode) : Nat × Flags :=
  let w := etBits et
  if etFloat et then
    let F := fmtOf et
    match op with
    | 0 => rounded F m (addNum (isDown m) (match p with | some x => .ofBits F x | none => .fin true 0 0 false) (.ofBits F a))
    | 1 => minMax F false false (p.getD a) a
    | _ => minMax F true false (p.getD a) a
  else
    match p with
    | none => (a, {})
    | some x =>
      match op with
      | 0 => ((x + a) % 2 ^ w, {})
      | 1 => (if elemInt et a < elemInt et x then a else x, {})
      | 2 => (if elemInt et x < elemInt et a then a else x, {})
      | 5 => (x &&& a, {})
      | 6 => (x ||| a, {})
      | _ => (x ^^^ a, {})

/-- The scan over n elements (R134). -/
def scan (op : Nat) (et : BitVec 4) (k : BitVec 32) (v : Nat) (r : Round) (gen : Vector (BitVec 32) 8) : Lanes :=
  let w := etBits et
  ((List.range (256 / w)).foldl (fun (acc : Lanes × Option Nat) i =>
    if maskActive k w i then
      let (l, p) := acc
      let (m, gen) := if etFloat et && op = 0 then l.draw r (i * w / 32) else (.rne, l.gen)
      let (x, fl) := scanStep op et p (elem v w i) m
      ({ value := l.value + x * 2 ^ (i * w), mask := l.mask + (2 ^ w - 1) * 2 ^ (i * w), flags := l.flags ||| fl.toBits
         gen := gen }, some x)
    else acc) ({ gen := gen }, none)).1

/-- VSCAN. -/
def execVscan (f : VForm) (s : State) : Result :=
  let o := vopts (.vscan f) f 424 false (vDest f.d)
  issue o
    (do
      needOperand o dstKinds f.d 0
      needOperand o srcKinds f.a f.ka)
    (fun pc => do
      let (va, _, lat) ← readOperands pc (etBits f.et) (tagOfEt f.et) f.d f.a f.ka 424 0
      let t ← getT
      let l := scan (f.imm.toNat % 8) f.et (t.getK f.mask) va.toNat (resolveRound t f.round (narrowType f.et)) t.gen
      modT fun t => { t with gen := l.gen }
      putVector pc f.d lat (BitVec.ofNat 256 l.value) (BitVec.ofNat 256 l.mask) f.z (tagOfEt f.et) l.flags) s

/-! Masks (R135) and VMOVX (R136) -/

/-- A mask number in an operand field, its high bits zero (R135). -/
def needMaskNum (o : Opts) (c : OpCode) : M Unit := needOk o (c.toNat < 8)

def maskNum (c : OpCode) : BitVec 3 := c.setWidth 3

/-- A mask operation on two masks. -/
def maskOp (i : VForm → Instr) (unary : Bool) (g : BitVec 32 → BitVec 32 → BitVec 32) (f : VForm) (s : State) : Result :=
  let o := opts64 f.w (i f)
  issue o
    (do
      needMaskDest o f.d
      needMaskNum o f.a
      if !unary then needMaskNum o f.b)
    (fun _ => modT fun t => t.setK (maskNum f.d) (g (t.getK (maskNum f.a)) (t.getK (maskNum f.b)))) s

def execKand (f : VForm) (s : State) : Result := maskOp .kand false (fun a b => a &&& b) f s
def execKor (f : VForm) (s : State) : Result := maskOp .kor false (fun a b => a ||| b) f s
def execKxor (f : VForm) (s : State) : Result := maskOp .kxor false (fun a b => a ^^^ b) f s
def execKandn (f : VForm) (s : State) : Result := maskOp .kandn false (fun a b => a &&& ~~~b) f s
def execKnot (f : VForm) (s : State) : Result := maskOp .knot true (fun a _ => ~~~a) f s
def execKmov (f : VForm) (s : State) : Result := maskOp .kmov true (fun a _ => a) f s

def execKfromx (f : VForm) (s : State) : Result :=
  let o := opts64 f.w (.kfromx f)
  issue o
    (do
      needMaskDest o f.d
      needOperand o [.x] f.a 0)
    (fun _ => modT fun t => t.setK (maskNum f.d) ((t.getX (xReg f.a)).setWidth 32)) s

def execKtox (f : VForm) (s : State) : Result :=
  let o := opts64 f.w (.ktox f)
  issue o
    (do
      needOperand o [.x] f.d 0
      needMaskNum o f.a)
    (fun _ => modT fun t => t.setX (xReg f.d) ((t.getK (maskNum f.a)).setWidth 64)) s

/-- VMOVX: one element to a scalar register. -/
def execVmovx (f : VForm) (s : State) : Result :=
  let w := etBits f.et
  let n := f.imm.toNat % 128
  let o := opts64 f.w (.vmovx f)
  issue o
    (do
      needOperand o [.x] f.d 0
      needOperand o [.v] f.a f.ka
      needOk o (n < 256 / w))
    (fun pc => do
      let (va, _, _) ← readOperands pc w (tagOfEt f.et) f.d f.a f.ka 424 0
      let c := elem va.toNat w n
      modT fun t => t.setX (xReg f.d) (if etSigned f.et then BitVec.ofInt 64 (intOf true w c) else BitVec.ofNat 64 c)) s

end Sys2Proof.Machine
end

