-- ==== Sys2Proof/Machine/Posts.lean ====
section
/-! DEFINITION. What threads do to the timed plane: POST (13 R330 to R332, 12 R316), TFENCE and TBLW (08 R208, R209, R231), and
VSPK and VUPK (09 R252, R253). -/

namespace Sys2Proof.Machine

/-! POST -/

def State.modPost (s : State) (id : Nat) (f : PostOp → PostOp) : State :=
  { s with posts := s.posts.map fun p => if p.id = id then f p else p }

/-- A POST issues: its value waits for the stores before it (R331). -/
def issuePost (o : Opts) (all : Bool) (st tt : Reg) (p : BitVec 4) (s : State) : Result :=
  issue { o with commits := true } noChecks
    (fun pc => do
      let t ← getT
      needOk o ((t.getX tt).toNat % 65536 < 40960)
      let s ← get
      let tile := (t.getX tt).toNat % 65536
      let tok ← addOutst fun tok => { tok := tok, pc := pc, fin := .ready [], lands := s.cycle }
      let targets := match (if all then s.tileRegion tile else none) with
        | some (_, r) => r.tiles
        | none => [tile]
      modS fun s =>
        let (id, s) := s.fresh
        let op : PostOp := { id := id, who := s.cur, thread := t.serial, tok := tok, pc := pc, value := t.getX st, p := p.toNat, left := targets }
        { s with posts := s.posts ++ [op] }.schedule s.cycle phaseEnd (.postArrival id))
    s

/-- POST to one tile. -/
def execPost (w : Bool) (st tt : Reg) (p : BitVec 4) (s : State) : Result := issuePost (opts32 w (.post w st tt p)) false st tt p s

/-- POST to every tile of a region. -/
def execPostAll (w : Bool) (st tt : Reg) (p : BitVec 4) (s : State) : Result := issuePost (opts32 w (.postAll w st tt p)) true st tt p s

/-- A window that takes a post on a cycle (R332). -/
def Window.takes (w : Window) (p cycle : Nat) : Bool :=
  w.posts.getLsbD p &&
    match w.st with
    | .opened => true
    | .awaiting => w.awaited.getLsbD p
    | .closed => w.closing = some cycle

/-- An awaiting window whose posts have all landed closes, and fixes its freeze (R326). -/
def endAwait (tile : Nat) (s : State) (w : Nat) : State :=
  let t := (s.tile tile).timed
  if (t.files.window w).st ≠ .awaiting || (t.files.window w).awaited ≠ 0 then s
  else
    let s := s.modTimed tile (·.withFiles fun f => f.setWindow w { f.window w with st := .closed })
    match s.tileRegion tile with
    | none => s
    | some (id, _) =>
      s.modRegion id fun r =>
        { r with freezes := r.freezes.map fun f => if f.close = some (tile, w) && f.length.isNone then { f with length := some (max 1 f.count) } else f }

/-- A window that has received a post awaits it no longer (R326). -/
def Window.received (w : Window) (p : Nat) : Window := { w with awaited := w.awaited &&& ~~~BitVec.ofNat 16 (2 ^ p) }

/-- A tile accepts a post: the register, its arrived flag, and the windows that awaited it. -/
def acceptPost (tile p : Nat) (value : Word) (s : State) : State :=
  let s := s.modTimed tile fun t =>
    { t with post := t.post.setIfInBounds p value, arrived := t.arrived ||| BitVec.ofNat 16 (2 ^ p)
             files := { t.files with win := t.files.win.map (·.received p) } }
  (List.range 16).foldl (endAwait tile) s

/-- Whether a tile accepts a post now. -/
def takesPost (s : State) (tile p : Nat) : Bool :=
  let t := (s.tile tile).timed
  !s.hole tile && (s.tileRegion tile).isSome && t.files.win.toList.any fun w => w.takes p s.cycle

/-- cr.info of a refused post. -/
def refusedInfo (op : PostOp) : Word :=
  let low := (least op.refused).getD 0
  BitVec.ofNat 64 (2 ^ 63 + low * 256 + op.p)

/-- A POST whose targets have all answered lands or traps (R332). -/
def endPost (op : PostOp) (s : State) : State :=
  let s : State := { s with posts := s.posts.filter (·.id ≠ op.id) }
  match (s.thread op.who).filter (·.serial = op.thread) with
  | none => s
  | some t =>
    let lat : Option Nat := if op.refused = [] && op.accepted && op.own then some 0 else none
    if op.refused = [] then landIn op.who op.tok lat s
    else if op.accepted then landIn op.who op.tok none (raiseAfter op.who { code := cWindowViolation, info := refusedInfo op, epc := t.pc, fpc := op.pc } s)
    else if op.own then
      settle op.who (raiseLate op.who { code := cWindowViolation, info := refusedInfo op, epc := op.pc, fpc := op.pc } (dropOutst op.who op.tok s))
    else failResult op.who op.thread op.tok { code := cWindowViolation, info := refusedInfo op } s

/-- POST_ARRIVAL: the value leaves once the stores before it have performed; then each arrival is one target's. -/
def execPostArrival (id : Nat) (s : State) : Result :=
  match s.posts.find? (·.id = id) with
  | none => .next s
  | some op =>
    if !op.sent then
      if pendingWithin s op.who op.thread 6 then .next (s.schedule (s.cycle + 1) phaseEnd (.postArrival id))
      else
        let s := s.modPost id fun op => { op with sent := true, own := op.left = [op.who.tile] }
        if op.left = [op.who.tile] then .next (s.schedule (s.cycle + 4) phaseAccess (.postArrival id))
        else .next (op.left.foldl (fun s _ => s.scheduleFree phaseAccess (.postArrival id)) s)
    else
      match op.left with
      | [] => .next s
      | tile :: rest =>
        let ok := takesPost s tile op.p
        let s := if ok then acceptPost tile op.p op.value s else s
        let op := if ok then { op with left := rest, accepted := true } else { op with left := rest, refused := tile :: op.refused }
        if rest.isEmpty then .next (endPost op s) else .next (s.modPost id fun _ => op)

/-! TFENCE (08 R231) -/

/-- A word of the idle half. -/
def Timed.idleWord (t : Timed) (a : Nat) : BitVec 16 := Tab.get 0 (if t.files.active then t.h0 else t.h1) a

/-- The cycles of a validation. -/
def validationCycles : Nat := 132

/-- TFENCE: the idle half is validated as it stands. -/
def execTfence (w : Bool) (s : State) : Result :=
  issue { w := w, commits := true } noChecks (fun pc => do
    let tile ← getTile
    let cyc := (← get).cycle
    let _ ← addOutst fun tok =>
      { tok := tok, pc := pc, fin := .publish (halfFault tile.timed.idleWord) tile.timed.edits, lands := cyc + validationCycles }
    modS fun s => s.schedule (s.cycle + validationCycles) phaseLand (.tfenceValidationLanding s.cur)) s

/-- TFENCE_VALIDATION_LANDING: the ready bit is set, unless a TBLW.s has landed or the halves have been exchanged since; a
failure is a precise ILLEGAL_BUNDLE. -/
def execTfenceValidationLanding (who : Who) (s : State) : Result :=
  match s.thread who with
  | none => .next s
  | some t =>
    match t.outst.findSome? (fun o => match o.fin with
        | .publish f n => some (o, f, n)
        | _ => none) with
    | none => .next s
    | some (o, fault, edits) =>
      let s := dropOutst who o.tok s
      match fault with
      | none => .next (settle who (s.modTimed who.tile fun t => { t with ready := t.ready || t.edits = edits }))
      | some a =>
        if t.fatal.isSome then .next (settle who s)
        else .next (raiseLate who { code := cIllegalBundle, info := halfInfo a, epc := o.pc, fpc := o.pc } s)

/-- The region that the present thread is the steward of. -/
def stewardOf (s : State) : Option (Nat × Region) :=
  match s.thread s.cur with
  | some t => s.regions.find? fun r => r.2.steward = s.cur && r.2.stewardSerial = t.serial
  | none => none

/-- ILLEGAL_OPERAND unless the thread is a steward whose region stands as the form needs. -/
def needSteward (o : Opts) (ok : Region → Bool) : M Unit := do
  match stewardOf (← get) with
  | some (_, r) => needOk o (ok r)
  | none => needOk o false

/-- tfence.resume: the halted region issues from its snapshots, D cycles on. -/
def execTfenceResume (w : Bool) (s : State) : Result :=
  let o := { opts32 w (.tfenceResume w) with commits := true }
  issue o (needSteward o (·.halted)) (fun _ => modS fun s =>
    match stewardOf s with
    | some (id, _) => s.modRegion id fun r => { r with resumeAt := some (s.cycle + r.s) }
    | none => s) s

/-- tfence.abort: the halted region becomes fatal; in an aligned group, a region that waits for its start too (16 R380). -/
def execTfenceAbort (w : Bool) (s : State) : Result :=
  let o := { opts32 w (.tfenceAbort w) with commits := true }
  let gsize := s.pkg.gsize
  issue o (needSteward o fun r => r.halted || (!r.started && 1 < gsize)) (fun _ => modS fun s =>
    match stewardOf s with
    | some (id, _) => fatalRegion id s
    | none => s) s

/-! TBLW (08 R208, R209) -/

/-- The steward of the region that runs on a tile. -/
def isSteward (s : State) (t : Thread) (r : Region) : Bool := r.steward = s.cur && r.stewardSerial = t.serial

/-- tblw.b in task mode is the steward's while the tile's region runs. -/
def needTable (o : Opts) : M Unit := do
  let s ← get
  let t ← getT
  match s.tileRegion s.cur.tile with
  | some (_, r) => if t.status.mode = 0 && !isSteward s t r then trapNow cPrivilege o.value
  | none => pure ()

/-- The source of a TBLW, with the cycles to its landing. -/
def tableSource (pc : BitVec 15) (f : VForm) : M (Vec × Nat) := do
  sourceFault f.a f.ka 0
  let v ← readSource pc 32 0 f.a f.ka 0
  consume f.a
  return (v, (shortLatency f.a 0).getD 4)

/-- tblw.b: the entry is validated at issue, and lands 4 cycles on. -/
def execTblwB (f : VForm) (s : State) : Result :=
  let o := { opts64 f.w (.tblwB f) with commits := true }
  issue o
    (do
      needTable o
      needOperand o [.v, .q, .s] f.a f.ka)
    (fun pc => do
      let (v, lat) ← tableSource pc f
      let n := f.imm.toNat % 512
      let s ← get
      match entryFault s s.cur.tile v with
      | some slot => trapNow cIllegalBundle (entryInfo n slot)
      | none => longResult pc lat [] [.bundle n v]) s

/-- tblw.s: sixteen words of the idle half. -/
def execTblwS (f : VForm) (s : State) : Result :=
  let o := { opts64 f.w (.tblwS f) with commits := true }
  issue o (needOperand o [.v, .q, .s] f.a f.ka)
    (fun pc => do
      let (v, lat) ← tableSource pc f
      longResult pc lat [] [.half (f.imm.toNat % 256) v]) s

/-! Sparse lines (09 R252, R253) -/

/-- The groups of four of a line. -/
def lineGroups (et : BitVec 4) : Nat := if etBits et = 16 then 24 else 48

/-- VSPK: six registers of dense data to a line of four. -/
def execVspk (f : VForm) (s : State) : Result :=
  let o := { opts64 f.w (.vspk f) with vregs := groupRegs f.d 4 }
  issue o
    (do
      needGroup o f.d 0 4
      needGroup o f.a f.ka 6)
    (fun _ => modT fun t =>
      let r := sparsePack f.et (lineGroups f.et) (t.groupBits f.a 6)
      t.setGroup f.d 4 (r.1 + 2 ^ 256 * r.2) (2 ^ 1024 - 1)) s

/-- VUPK: a line to six registers; an invalid code sets cr.fflags invalid. -/
def execVupk (f : VForm) (s : State) : Result :=
  let o := { opts64 f.w (.vupk f) with vregs := groupRegs f.d 6 }
  issue o
    (do
      needGroup o f.d 0 6
      needGroup o f.a f.ka 4)
    (fun _ => modT fun t =>
      let line := t.groupBits f.a 4
      let r := sparseUnpack f.et (lineGroups f.et) (line % 2 ^ 256) (line / 2 ^ 256)
      (t.setGroup f.d 6 r.1 (2 ^ 1536 - 1)).write (.flags (if r.2 then flagInvalid.toBits else 0))) s

end Sys2Proof.Machine
end

