-- ==== Sys2Proof/Machine/Port.lean ====
section
/-! DEFINITION. Accesses on their way: the threaded read cache, the cluster memory port, the owners, and the pseudo-channels'
command slots (07 R172, R175, 10 R255, R263, 12 R303 to R306, 13 R333 to R335, 16 R387, R388, R397). -/

namespace Sys2Proof.Machine

/-! What an access is -/

/-- The result that a granule is read for. -/
def State.outstOf (s : State) (a : Access) (tok : Nat) : Option Outst := (s.accessThread a).bind fun t => t.outst.find? (·.tok = tok)

/-- The access serves an instruction store load. -/
def isIstore (s : State) (a : Access) : Bool :=
  match a.kind with
  | .granule tok _ => match s.outstOf a tok with
    | some o => match o.fin with
      | .istore _ _ => true
      | _ => false
    | none => false
  | _ => false

/-- The store buffer holds every byte of a read: only its translation is made (04 R99). -/
def isSkip (s : State) (a : Access) : Bool :=
  match a.kind with
  | .granule tok idx => match s.outstOf a tok with
    | some o => match o.reqs[idx]? with
      | some r => r.skip
      | none => false
    | none => false
  | _ => false

/-- A transfer of the timed plane. -/
def State.transfer (s : State) (tile id : Nat) : Option Transfer := (s.tile tile).timed.transfers.find? (·.id = id)

/-- What an access needs of its page (10 R261). -/
def accessNeed (s : State) (a : Access) : Need :=
  match a.kind with
  | .granule _ _ => if isIstore s a then .execute else .read
  | .probe _ write => if write then .write else .read
  | .release .. => .write
  | .atomic .. => .atomic
  | .multicast .. => .write
  | .drain .. => .write
  | .burst id _ _ => match s.transfer a.who.tile id with
    | some x => if x.load then .read else .write
    | none => .read
  | _ => .read

/-- An access that the virtual entries of its tile's lock table bind (07 R175). -/
def Access.lockable (a : Access) : Bool :=
  match a.kind with
  | .granule _ _ => true | .probe _ _ => true | .atomic .. => true | .word => true | .launch .. => true
  | _ => false

/-- The bytes from an access's first one to its last: a vector store's end with its granule. -/
def Access.span (a : Access) : Nat :=
  match a.kind with
  | .probe .. => min a.size (32 - a.byte)
  | _ => a.size

/-- A load that the threaded read cache serves (07 R172). -/
def cachedLoad (s : State) (a : Access) : Bool :=
  match a.kind with
  | .granule _ _ => !isIstore s a && !isSkip s a
  | _ => false

/-- An access of traffic class 0 (11 R285). -/
def Access.timed (a : Access) : Bool :=
  match a.kind with
  | .burst .. => true
  | _ => false

/-- A request that ends with a fault: of a thread, of a transfer unit, of the timed plane. -/
def failPort (a : Access) (f : PortFault) (s : State) : State :=
  match a.kind with
  | .burst id _ _ => failTransfer a.who.tile id f (s.dropAccess a.id)
  | .fetch sn n =>
    let s := s.dropAccess a.id
    match (s.tile a.who.tile).stream sn with
    | some st => if st.thread = a.thread && st.busy.contains n then s.modTile a.who.tile (·.setStream sn (some (st.hold n none (some f)))) else s
    | none => s
  | _ => failAccess a f s

/-- The interrupt input 7 of an access's thread (03 R75). -/
def tellThread (a : Access) (s : State) : State := if (s.accessThread a).isSome then setInput a.who 7 s else s

/-- A stream's granule has performed at a far package, or was refused there. -/
def endDrain (a : Access) (sn : Nat) (s : State) : State :=
  let s := s.dropAccess a.id
  match (s.tile a.who.tile).stream sn with
  | some st =>
    if st.thread = a.thread then freeDrained a.who.tile sn (s.modTile a.who.tile (·.setStream sn (some { st with drain := st.drain.drop 1 })))
    else s
  | none => s

/-- A write that a far package refuses or does not answer: discarded, and input 7 is set (16 R390). -/
def discardWrite (a : Access) (s : State) : State :=
  let s := tellThread a s
  match a.kind with
  | .drain sn _ => endDrain a sn s
  | _ => s.dropAccess a.id

/-! Caches -/

def readWays : Nat := 4

/-- The line of a tile's read cache for an address, with the cache after its use (07 R172). -/
def Tile.hitLine (t : Tile) (va : Nat) : Option (Granule × Tile) :=
  let i := va / 32 % 256
  let set := t.cache[i]?.getD []
  (set.find? (·.va = va)).map fun l => (l.g, { t with cache := t.cache.setIfInBounds i (set.filter (·.va ≠ va) ++ [l]) })

/-- A line filled in place of the least recently used. -/
def Tile.fillLine (t : Tile) (va : Nat) (g : Granule) : Tile :=
  let i := va / 32 % 256
  let set := ((t.cache[i]?.getD []).filter (·.va ≠ va)) ++ [⟨va, rankOf va, g⟩]
  { t with cache := t.cache.setIfInBounds i (set.drop (set.length - readWays)) }

/-- The lines of a die's remote read cache (16 R397; log 59). -/
def remoteLines : Nat := 131072

/-- A line of the die's remote read cache. -/
def remoteLine (s : State) (a : Access) : Option Granule :=
  ((s.die (tileDie a.who.tile)).cache.find? (·.1 = a.key.addr)).map (·.2)

/-- A line kept, unless the cache has been invalidated since the request issued. -/
def keepRemote (a : Access) (g : Granule) (s : State) : State :=
  let d := s.die (tileDie a.who.tile)
  if d.steps ≠ a.epoch then s
  else
    let lines := d.cache.filter (·.1 ≠ a.key.addr) ++ [(a.key.addr, g)]
    s.modDie (tileDie a.who.tile) fun d => { d with cache := lines.drop (lines.length - remoteLines) }

/-- The lines that a load fills (07 R172, 16 R397). -/
def fillCaches (a : Access) (g : Granule) (s : State) : State :=
  if !cachedLoad s a then s
  else if a.home = 0 then s.modTile a.who.tile (·.fillLine a.key.addr g)
  else if a.home = 3 then keepRemote a g s
  else s

/-! At the owner -/

/-- Granules of a burst that a transfer reads from a place or writes there. -/
def burstPlaces (loc : Loc) (n : Nat) : List Loc := (List.range n).map fun i => loc.shift (32 * i)

/-- A burst of an HLD or HST performs (08 R220). -/
def performTransfer (a : Access) (loc : Loc) (id first n : Nat) (s : State) : State :=
  let tile := a.who.tile
  let s := s.dropAccess a.id
  match s.transfer tile id with
  | none => s
  | some x =>
    let s :=
      if x.load then
        let gs := if a.data.isEmpty then (burstPlaces loc n).map s.view else a.data
        (((localOffs x.off x.n).drop first).zip gs).foldl (fun s p => timedWrite tile p.1 p.2 s) s
      else
        ((burstPlaces loc n).zip (x.data.drop first)).foldl (fun s p => afterWrite p.1 0 (s.setGranule p.1 p.2)) s
    performBurst tile id ((List.range n).map (first + ·)) s

/-- A write of whole doublewords to the watchdogs: each is a step of its own (14 R354). -/
def dogWrites (off : Nat) (data : Vec) (mask : BitVec 32) : List Todo :=
  ((List.range 4).filter fun i => mask.extractLsb' (8 * i) 8 = 0xFF#8).map fun i =>
    .event (.watchdogWrite (off / 0x10000) ((off / 32 * 32 + 8 * i) % 0x10000 / 8) (data.extractLsb' (64 * i) 64))

/-- An access performs at a place of this package. -/
def performAt (a : Access) (loc : Loc) (s : State) : State :=
  match a.kind with
  | .granule _ _ =>
    let g := s.view loc
    deliverRead a g none (fillCaches a g s)
  | .word => deliverRead a (s.view loc) none s
  | .atomic .. => (s.putAccess { a with loc := some loc, stage := 3 }).schedule s.cycle phaseAccess (.atomicAtOwner a.id)
  | .walk tok p d steps offset => walkRead_ a (s.view loc) tok p d steps offset s
  | .burst id first n => performTransfer a loc id first n s
  | .release data mask tag =>
    match loc with
    | .watchdog off =>
      let s := s.dropAccess a.id
      { s with todo := s.todo ++ dogWrites off data mask }
    | _ => performRelease { a with logged := pageLogged s a.who.tile a.addr } loc data mask tag (s.dropAccess a.id)
  | _ => s.dropAccess a.id

/-- The order of the thread's own accesses keeps this one back, before it has reached the bank port (12 R304, R305). -/
def orderBlocked (s : State) (a : Access) (tile : Nat) : Bool :=
  a.held.isNone && (earlierSame s a || (tile = a.who.tile && earlierOwn s a))

/-- That, or the bank is taken, or the port holds what came before (07 R170, R171). -/
def bankBlocked (s : State) (a : Access) (tile off : Nat) : Bool := orderBlocked s a tile || s.portHolds a tile off

/-- An access that does not perform at a bank port on this cycle comes again on the next. -/
def waitAtPort (a : Access) (tile : Nat) (again : Event) (s : State) : State :=
  if orderBlocked s a tile then s.schedule (s.cycle + 1) phaseAccess again else holdAtPort a tile again s

/-- The check of a granule that a write stream's transfer unit has taken: locks do not bind it (07 R175). -/
def ownTransfer (s : State) (a : Access) : Bool :=
  match a.kind with
  | .probe tok _ => match s.outstOf a tok with
    | some o => match o.fin with
      | .accept _ _ => true
      | _ => false
    | none => false
  | _ => false

/-- The refusal of an access to tile SRAM through a pinned page, by the tile's windows and locks (10 R263). -/
def pinnedFault (s : State) (a : Access) (tile off : Nat) (write : Bool) : Option PortFault :=
  if a.timed then none
  else if !(s.tile tile).openGranule off then some { code := cWindowViolation, info := BitVec.ofNat 64 (off / 32 * 32 + a.byte) }
  else if !ownTransfer s a && (s.tile tile).locked false write (off / 32 * 32 + a.byte) (off / 32 * 32 + a.byte + a.span - 1) then
    some { code := cRangeLocked, info := BitVec.ofNat 64 a.addr }
  else none

/-! HBM command slots (13 R333 to R335) -/

/-- Slot i of the frame is timed at a ratio. -/
def slotTimed (r i : Nat) : Bool := i * r / 16 < (i + 1) * r / 16

def State.channel (s : State) (pc : Nat) : Channel := Tab.get {} s.channels pc
def State.setChannel (s : State) (pc : Nat) (c : Channel) : State := { s with channels := Tab.putD {} s.channels pc c }

/-- The next command slot of a controller, in a while; after an idle time the frame may stand anywhere. -/
def nextSlot (pc : Nat) (idle : Bool) (s : State) : State :=
  let (n, s) := s.drawLatency
  let c := s.channel pc
  (s.setChannel pc { c with slot := if idle then n % 16 else (c.slot + 1) % 16 }).scheduleFree phaseAccess (.hbmCommandSlot pc)

/-- An access waits for a command slot. -/
def enqueue (a : Access) (addr : Nat) (s : State) : State :=
  let pc := pseudoChannel addr
  let c := s.channel pc
  let s := (s.putAccess { a with loc := some (.hbm addr), stage := 2 }).setChannel pc { c with waiting := c.waiting ++ [(a.timed, a.id)] }
  if c.waiting.isEmpty then nextSlot pc true s else s

/-- A slot serves class 0, or the rest; without a timed slot in the frame, both (R334). -/
def slotServes (r slot : Nat) (timed : Bool) : Bool := if r = 0 then true else slotTimed r slot == timed

/-- An access that waits may be granted now. -/
def grantable (s : State) (slot : Nat) (w : Bool × Nat) : Bool :=
  slotServes s.ratio slot w.1 &&
    match s.access w.2 with
    | some a => !earlierSame s a && (match a.loc with
      | some (.hbm addr) => s.stackReady addr && !s.pkg.dead.contains (pseudoChannel addr)
      | _ => true)
    | none => true

/-- The cycles of a burst's completion from its grant are free; a burst of a timed slot keeps the bound set at its port. -/
def grant (a : Access) (s : State) : State :=
  match a.kind, a.loc with
  | .burst id _ n, some loc =>
    let data := match s.transfer a.who.tile id with
      | some x => if x.load then (burstPlaces loc n).map s.view else []
      | none => []
    (s.putAccess { a with stage := 3, data := data }).scheduleFree phaseWrite (.hbmBurstComplete a.id)
  | _, some loc => performAt { a with stage := 3 } loc (s.putAccess { a with stage := 3 })
  | _, none => s.dropAccess a.id

/-- HBM_COMMAND_SLOT: one slot of a controller's frame, granted to the first access in arrival order that it may serve. -/
def execHbmCommandSlot (pc : Nat) (s : State) : Result :=
  let c := s.channel pc
  if c.waiting.isEmpty then .next s
  else
    match c.waiting.find? (grantable s c.slot) with
    | none => .next (nextSlot pc false s)
    | some w =>
      let left := c.waiting.erase w
      let s := s.setChannel pc { c with waiting := left }
      let s := match s.access w.2 with
        | some a => grant a s
        | none => s
      .next (if left.isEmpty then s else nextSlot pc false s)

/-- HBM_BURST_COMPLETE: a class 0 burst performs, when its data has moved or at the end of its bound. -/
def execHbmBurstComplete (id : Nat) (s : State) : Result :=
  match s.access id with
  | none => .next s
  | some a =>
    match a.kind, a.loc with
    | .burst x first n, some loc =>
      let pc := match loc with
        | .hbm addr => pseudoChannel addr
        | _ => 0
      let c := s.channel pc
      .next (performTransfer a loc x first n (s.setChannel pc { c with waiting := c.waiting.filter (·.2 ≠ id) }))
    | _, _ => .next s

/-- Nanoseconds of R335 in cycles at 2.7 GHz: 40 ns are 108 cycles and 5.12 ns are 13.824. -/
def burstBound (s : State) (tile addr : Nat) (levels : Nat) : Nat :=
  let q := ((s.channel (pseudoChannel addr)).waiting.filter (·.1)).length
  let gap := (16 + s.ratio - 1) / max s.ratio 1
  let path := pairLatency s (clusterOf tile) (ownerCluster addr) + pairLatency s (ownerCluster addr) (clusterOf tile)
  (108 + ((q + 1) * gap * 13824 + 999) / 1000 + path + 4) * (1 + levels)

/-- A burst reaches its controller; with timed slots in the frame it is sure to complete within the bound (R335). -/
def startBurst (a : Access) (addr levels : Nat) (s : State) : State :=
  let n := burstBound s a.who.tile addr levels
  let s := if s.ratio = 0 || !s.stackReady addr || s.pkg.dead.contains (pseudoChannel addr) then s else s.schedule (s.cycle + n) phaseWrite (.hbmBurstComplete a.id)
  enqueue a addr s

/-- A router drops the packets of an access on their way to its owner (11 R286, R287). -/
def routeFault (s : State) (a : Access) (loc : Loc) : Option PortFault :=
  (loc.cluster.bind fun c => pathFault s (clusterOf a.who.tile) c).map routeInvalid

/-- An access has come to its owner. -/
def arriveOwner (a : Access) (loc : Loc) (s : State) : State :=
  match routeFault s a loc with
  | some f => failPort a f s
  | none =>
  match loc with
  | .sram tile off =>
    match pinnedFault s a tile off (accessNeed s a).writes with
    | some f => failPort a f s
    | none =>
      if a.timed then performAt a loc s
      else if bankBlocked s a tile off then waitAtPort a tile (.portAccess a.id) s
      else performAt { a with held := none } loc s
  | .hbm addr => enqueue a addr s
  | .remote _ _ => s
  | loc => if earlierSame s a then s.schedule (s.cycle + 1) phaseAccess (.portAccess a.id) else performAt a loc s

/-! In the tile -/

/-- An access leaves its tile for the cluster memory port, unless a lock forbids it or the read cache serves it. -/
def leaveTile (a : Access) (s : State) : State :=
  let tile := s.tile a.who.tile
  let virt := match a.key with
    | .virt _ => true
    | .own _ => false
  if a.lockable && virt && tile.locked true (accessNeed s a).writes a.addr (a.addr + a.span - 1) then
    failAccess a { code := cRangeLocked, info := BitVec.ofNat 64 a.addr } s
  else
    let go (s : State) : State :=
      ((s.putAccess { a with stage := 1 }).tally a.who.tile evFlits none a.flits).scheduleFree phaseAccess (.portAccess a.id)
    match (if cachedLoad s a then tile.hitLine a.key.addr else none) with
    | some (g, tile) =>
      if earlierLoad s a then s.schedule (s.cycle + 1) phaseAccess (.portAccess a.id)
      else deliverRead a g (some 11) ((s.setTile a.who.tile tile).tally a.who.tile evHits none 1)
    | none => go s

/-! At the port (10 R255) -/

/-- The watchdogs' page takes doubleword stores and loads of firmware mode only (14 R354). -/
def dogFault (a : Access) (need : Need) : Option PortFault :=
  if a.mode ≠ 3 then some (pageFault 0 a.addr)
  else if need = .atomic then some (pageFault 1 a.addr)
  else if a.size ≠ 8 then some { code := cMisaligned, info := BitVec.ofNat 64 a.addr }
  else none

/-- A write whose page a replay captures: stores, atomics, CAS and HST (14 R347; log 60). -/
def captured (s : State) (a : Access) : Bool :=
  match a.kind with
  | .probe tok true => match s.outstOf a tok with
    | some o => match o.fin with
      | .probe _ => true
      | _ => false
    | none => false
  | .atomic .. => true
  | .burst .. => accessNeed s a = .write
  | _ => false

/-- A store's translation has returned: its place is known (03 R82), or a stream's granule has one (07 R186). -/
def finishProbe (a : Access) (tok : Nat) (loc : Loc) (s : State) : State :=
  match s.outstOf a tok with
  | none => s.dropAccess a.id
  | some o =>
    let s := s.dropAccess a.id
    match o.fin with
    | .probe key =>
      landIn a.who tok none (s.modThread a.who fun t =>
        { t with gated := t.gated.map fun g => if g.key = key then { g with loc := some loc } else g })
    | .accept j g => landIn a.who tok none (setReply a.who tok [.stream j g loc] s)
    | _ => landIn a.who tok none s

/-- The levels that a walk reads for a page (10 R257). -/
def walkLevels (s : State) (tile va : Nat) : Nat :=
  match lookup s (clusterOf tile) va with
  | .ok (_, true) => 0
  | .ok (c, false) => if c.size = 2 ^ 29 then 3 else if c.size = 2 ^ 20 then 4 else 5
  | .error _ => 5

/-- An access that its page of this package allows: to its owner, or done where only the translation was asked for. -/
def routeLocal (a : Access) (f : Found) (levels : Nat) (s : State) : State :=
  let need := accessNeed s a
  let loc := f.loc.granule
  let dog := match loc with
    | .watchdog _ => dogFault a need
    | _ => none
  match dog with
  | some f => failPort a f s
  | none =>
    let s := if captured s a then capture a.who.tile a.addr loc s else s
    match a.kind with
    | .probe tok _ =>
      let fault := match loc with
        | .sram tile off => pinnedFault s a tile off need.writes
        | _ => none
      match fault with
      | some f => failPort a f s
      | none => finishProbe a tok loc s
    | .granule tok idx =>
      if isSkip s a then gotGranule a tok idx 0 (some 4) (s.dropAccess a.id)
      else
        let s := if f.home = 0 && cachedLoad s a then s.tally a.who.tile evMisses none 1 else s
        match (if f.home = 3 then remoteLine s a else none) with
        | some g => deliverRead a g none s
        | none =>
          (s.putAccess { a with loc := some loc, stage := 2, home := f.home, logged := f.logged }).scheduleFree phaseAccess (.portAccess a.id)
    | .burst .. =>
      match loc with
      | .hbm addr => startBurst a addr levels s
      | _ => (s.putAccess { a with loc := some loc, stage := 2 }).scheduleFree phaseWrite (.portAccess a.id)
    | _ => (s.putAccess { a with loc := some loc, stage := 2, home := f.home, logged := f.logged }).scheduleFree phaseAccess (.portAccess a.id)

/-- A request leaves for a far package; its timeout runs (16 R388, R390). -/
def departFar (a : Access) (rank va : Nat) (s : State) : State :=
  let s := if a.parked then tellThread a s else s
  let s := match a.kind with
    | .release .. => s.tally a.who.tile evFlits none a.flits
    | _ => s
  (s.putAccess { a with
    loc := some (.remote rank va), stage := 2, parked := false, entropy := entryEntropy (s.rankEntry rank) 0 }).schedule
    (s.cycle + 1024 * entryTimeout (s.rankEntry rank)) phaseAccess (.fabricTimeout a.id)

/-- An access to a far rank at the port: it leaves, parks or is denied (16 R387, R388). -/
def routeFar (a : Access) (rank : Nat) (again : Event) (s : State) : State :=
  match s.rankVerdict rank (accessNeed s a) with
  | .park => (s.putAccess { a with parked := true }).schedule (s.cycle + 1) phaseAccess again
  | .go =>
    match (match a.kind with
      | .granule _ _ => if isSkip s a then none else remoteLine s a
      | _ => none) with
    | some g => deliverRead a g none (if a.parked then tellThread a s else s)
    | none => departFar a rank a.addr s
  | v =>
    let s := if a.parked then tellThread a s else s
    match a.kind with
    | .release .. => discardWrite a s
    | .drain .. => discardWrite a s
    | _ => failPort a (v.fault a.addr) s

/-- An access waits at its port for the walk that it needs. -/
def walkShut (s : State) (a : Access) : Bool := !a.timed && s.walkWaits (clusterOf a.who.tile) a.addr

/-- The rank that an access at its port goes to, where that is not the own package's affair: another rank, or the one that a forwarding
leaf names. What has come from there already goes nowhere. -/
def farRank (s : State) (a : Access) : Option Nat :=
  match a.key with
  | .own _ => none
  | .virt _ =>
    if !a.data.isEmpty then none
    else if rankOf a.addr ≠ s.pkg.rank then some (rankOf a.addr)
    else forwardTo s (clusterOf a.who.tile) a.addr

/-- An access at its cluster memory port (10 R255, 16 R399). -/
def atPort (a : Access) (s : State) : State :=
  let tile := a.who.tile
  match farRank s a with
  | some rank =>
    if rank = s.pkg.rank then s.schedule (s.cycle + 1) phaseAccess (.portAccess a.id)
    else routeFar a rank (.portAccess a.id) s
  | none =>
    match a.kind with
    | .launch tok d value => serveLaunch a tok d value s
    | _ =>
      if walkShut s a then s.schedule (s.cycle + 1) phaseAccess (.portAccess a.id)
      else
        let levels := walkLevels s tile a.addr
        match translate s tile a.addr (accessNeed s a) with
        | (.error f, s) => failPort a f s
        | (.ok f, s) => routeLocal a f levels s

/-- PORT_ACCESS: an access's next stage, in its tile, at the port, or at its owner. -/
def execPortAccess (id : Nat) (s : State) : Result :=
  match s.access id with
  | none => .next s
  | some a =>
    match a.stage, a.loc with
    | 0, _ => .next (leaveTile a s)
    | 1, _ => .next (atPort a s)
    | _, some loc => .next (arriveOwner a loc s)
    | _, none => .next (s.dropAccess id)

/-- STORE_RELEASE_PERFORMS: a released store reaches its owner and performs there (04 R100, 16 R388, R390). -/
def execStoreReleasePerforms (id : Nat) (s : State) : Result :=
  match s.access id with
  | none => .next s
  | some a =>
    match a.loc with
    | none => .next (s.dropAccess id)
    | some loc =>
      let again : Event := .storeReleasePerforms id
      match routeFault s a loc with
      | some f => .next (failPort a f s)
      | none =>
      match loc with
      | .sram tile off =>
        if bankBlocked s a tile off then .next (waitAtPort a tile again s)
        else .next (performAt a loc (if a.key.isOwn then s else s.tally a.who.tile evFlits none a.flits))
      | .hbm addr =>
        .next (enqueue a addr (s.tally a.who.tile evFlits none a.flits))
      | .remote rank _ => if a.stage = 2 then .next s else .next (routeFar a rank again s)
      | _ => if earlierSame s a then .next (s.schedule (s.cycle + 1) phaseAccess again) else .next (performAt a loc s)

end Sys2Proof.Machine
end

