-- ==== Sys2Proof/Machine/Fabric.lean ====
section
/-! DEFINITION. The fabric: RPUT, RGET, STEP and RANKW, requests from and replies to other packages, timeouts, tokens of the
aligned group, and the move service (16 R377 to R402). -/

namespace Sys2Proof.Machine

/-! RPUT and RGET (R393 to R396) -/

/-- The reserved bits of their ticket. -/
def fabricReserved : Word := 0x0FFFFF0000000000

/-- A segment offset's rank. -/
def Reach.rank (s : State) (r : Reach) : Nat := if r.seg.kind = 2 then s.pkg.rank else rankOf r.addr

/-- A far range: it has no place here. -/
def farSpan (s : State) (r : Reach) : Span := ⟨true, r.addr, [⟨0, r.size, .remote (r.rank s) r.addr, false⟩]⟩

/-- A range of the own package translated, or a far range as it is. -/
def needSide (pc : BitVec 15) (r : Reach) (need : Need) : M Span := do
  let s ← get
  if r.rank s = s.pkg.rank then needSpan pc r need else return farSpan s r

/-- The checks that both instructions share: the ticket, the ranges, their ranks, their overlap and their windows. -/
def needTransfer (o : Opts) (f : CForm) : M (Reach × Reach) := do
  let t ← getT
  let tick := t.getX f.d
  needTicket o tick fabricReserved true false
  needOff32 (t.getX f.a)
  needOff32 (t.getX f.b)
  let n := 32 * ticketLength tick
  let src ← needReach f.segS .read (t.getX f.a).toNat n
  let dst ← needReach f.segT .write (t.getX f.b).toNat n
  let s ← get
  if src.rank s = dst.rank s then needOk o (!src.overlaps dst)
  needWindow src
  needWindow dst
  return (src, dst)

/-- The far side of a transfer with the right it needs. -/
def farOf (s : State) (r : Reach) (need : Need) : Option (Nat × Need) :=
  if r.rank s = s.pkg.rank then none else some (r.rank s, need)

/-- RPUT (R393, R394). -/
def execRput (f : CForm) (s : State) : Result :=
  let o := { opts32 f.w (.rput f) with commits := true }
  issue o (needOk o (f.d.toNat ≤ 30)) (fun pc => do
    let t ← getT
    let len := ticketLength (t.getX f.d)
    let (src, dst) ← needTransfer o f
    let s ← get
    needOk o (src.rank s = s.pkg.rank)
    let flagOff := t.getX (f.d + 1)
    let flag ← (if flagOff = ones 64 then return none
      else do
        let g ← needSeg f.segT .write flagOff.toNat 8
        let r : Reach := ⟨g, flagOff.toNat, 8⟩
        needAligned (flagOff.toNat % 8 = 0 && r.addr % 8 = 0) flagOff.toNat
        needOk o (r.rank s = dst.rank s)
        needWindow r
        return some r)
    let ss ← needSpan pc src .read
    let ds ← needSide pc dst .write
    let place ← (match flag with
      | none => return none
      | some r => do
        let sp ← needSide pc r .write
        return sp.pieces.head?.map fun p => (p.loc, if p.logged then some r.addr else none))
    let far := farOf s dst .write
    let kind : EngKind := .rput (if far.isNone then place else none)
    submit pc { id := 0, who := ⟨0, 0⟩, thread := 0, tok := 0, launch := none, kind := kind, length := len, src := some ss
                dests := [{ span := ds, word := wordAt s.cur.tile (ticketWord (t.getX f.d)) }], far := far, path := (t.getX f.d).extractLsb' 60 4
                left := [(0, len)] } fun id =>
      ss.registrations s.cur.tile src.size 1 0 id none ++ ds.registrations s.cur.tile dst.size 2 0 id (some 0)) s

/-- RGET (R395). -/
def execRget (f : CForm) (s : State) : Result :=
  let o := { opts32 f.w (.rget f) with commits := true }
  issue o noChecks (fun pc => do
    let t ← getT
    let len := ticketLength (t.getX f.d)
    let (src, dst) ← needTransfer o f
    let s ← get
    needOk o (dst.rank s = s.pkg.rank)
    let ss ← needSide pc src .read
    let ds ← needSpan pc dst .write
    let far := farOf s src .read
    submit pc { id := 0, who := ⟨0, 0⟩, thread := 0, tok := 0, launch := none, kind := .rget, length := len, src := some ss
                dests := [{ span := ds, word := wordAt s.cur.tile (ticketWord (t.getX f.d)) }], far := far
                path := (t.getX f.d).extractLsb' 60 4, left := if far.isNone then [(0, len)] else [] } fun id =>
      ss.registrations s.cur.tile src.size 1 0 id none ++ ds.registrations s.cur.tile dst.size 2 0 id (some 0)) s

/-- The copy engine's operation of a number, with its cluster. -/
def State.findOp (s : State) (id : Nat) : Option (Nat × EngOp) :=
  s.clusters.findSome? fun c => (c.2.engine.find? (·.id = id)).map fun o => (c.1, o)

/-- The issuing thread's input 7. -/
def tellIssuer (op : EngOp) (s : State) : State :=
  match s.thread op.who with
  | some t => if t.serial = op.thread then setInput op.who 7 s else s
  | none => s

/-- A transfer that is refused or not answered stops: 2^63 is added to its completion word (R396). -/
def stopTransfer (c : Nat) (op : EngOp) (s : State) : State :=
  let s := match op.dests.head?.bind (·.word) with
    | some (tile, off) => addWord (some op.who.tile) (.sram tile off) (2 ^ 63) none s
    | none => s
  tellIssuer op (endOp c op s)

/-- A transfer still waits for its answer: an RPUT for its reply, an RGET for granules. -/
def EngOp.unanswered (op : EngOp) : Bool :=
  op.accepted && op.far.isSome && match op.kind with
    | .rget => op.read < op.length
    | _ => op.dests.all (·.wrote = 0)

/-- The answer to a transfer. -/
def answerTransfer (c : Nat) (op : EngOp) (ans : RemoteAnswer) (s : State) : State :=
  match op.kind, ans with
  | .rput _, .done => performed c { op with kind := .rput none } 0 op.length true s
  | .rget, .data gs _ =>
    let gs := gs.take (op.length - op.read)
    let held := op.held ++ gs.mapIdx fun i g => (op.read + i, ⟨g.1, g.2⟩)
    let op := { op with held := held, read := op.read + gs.length }
    let (op, s) := if op.read = op.length then releaseLocks none op s else (op, s)
    (s.putEng c op).scheduleFree phaseAccess (.engineGranuleWrite c op.id)
  | _, .refused => stopTransfer c op s
  | _, _ => s

/-! STEP (R398) -/

/-- Invalidations of some dies' remote read caches, complete after a while. -/
def stepDies (pc : BitVec 15) (dies : List Nat) : M Unit := do
  let cyc := (← get).cycle
  let tok ← addOutst fun tok => { tok := tok, pc := pc, fin := .ready (dies.map .emptyRemote), lands := cyc }
  modS fun s => s.scheduleFree phaseLand (.longResultLands s.cur tok)

/-- step.die. -/
def execStepDie (w : Bool) (s : State) : Result :=
  issue { w := w, commits := true } noChecks (fun pc => do
    let tile := (← get).cur.tile
    stepDies pc [tileDie tile]) s

/-- step.package. -/
def execStepPackage (w : Bool) (s : State) : Result :=
  issue { w := w, commits := true } noChecks (fun pc => stepDies pc (List.range 8)) s

/-! RANKW (R385, R386) -/

/-- The syntax check of a string from a code on (11 R287 step 1): whether a heading code is due, and whether the escape class
has been entered in this package. -/
def stringOk (v : Vec) (len : Nat) : Nat → Nat → Bool → Bool → Bool
  | 0, _, _, _ => false
  | n + 1, i, heading, esc =>
    let code (i : Nat) : Nat := (v.extractLsb' (3 * i) 3).toNat
    let pair := code (i + 1) * 8 + code (i + 2)
    if len ≤ i then false
    else if heading then code i ≤ 3 && stringOk v len n (i + 1) false false
    else
      match code i with
      | 3 => i + 3 = len && pair = 16
      | 5 => i + 3 ≤ len && pair ≤ 23 && stringOk v len n (i + 3) true false
      | 6 => !esc && stringOk v len n (i + 1) false true
      | 7 => false
      | _ => stringOk v len n (i + 1) false esc

/-- A route 1 string that an entry may hold. -/
def routeStringOk (v : Vec) : Bool :=
  let len := (v.extractLsb' 192 8).toNat
  v.extractLsb' 0 3 = 5 && 1 ≤ len && len ≤ 64 && v >>> 200 = 0 && stringOk v len 65 0 false false

/-- An entry image that RANKW accepts. -/
def entryOk (e v : Vec) : Bool :=
  e.extractLsb' 244 5 = 0 && e.extractLsb' 187 5 = 0 && e.extractLsb' 176 8 = 0 && e.extractLsb' 0 128 = 0 && entryRoute e < 4 &&
    !(entryValid e && entryTimeout e = 0) && (if entryRoute e = 1 then routeStringOk v else v = 0)

/-- Every earlier access of the thread has been acknowledged. -/
def waitAccesses : M Unit := do
  let s ← get
  let t ← getT
  if s.accs.any fun a => a.who = s.cur && a.thread = t.serial then stop .park

/-- A rank table entry written; the thread issues again once every port holds it, and until then they use the old one (R386). -/
def setEntry (rank : Nat) (e : Vec) (v : Vec) : M Unit := do
  if (← get).hbmShut (.hbm (rankAddr rank)) then stop .park
  modS fun s =>
    let (n, s) := s.drawLatency
    let old := (rank, s.cycle + n, s.rankEntry rank, s.rankString rank)
    let s := { s with pkg := { s.pkg with oldEntries := old :: s.pkg.oldEntries.filter fun o => o.1 ≠ rank && s.cycle < o.2.1 } }
    let s := (s.setGranule (.hbm (rankAddr rank)) (sealed e 0)).setGranule (.hbm (rankAddr rank + 32)) (sealed v 0)
    s.modThread s.cur fun t => { t with resumeAt := s.cycle + n }

/-- RANKW's rank: the own rank has no entry to write. -/
def needRank (o : Opts) (a : Reg) : M Unit := do
  let rank := (← get).pkg.rank
  needOk o ((← getX a).toNat % 4096 ≠ rank)

/-- RANKW. -/
def execRankw (w : Bool) (a b : Reg) (s : State) : Result :=
  let o := opts32 w (.rankw w a b)
  issue o (needMode o 1) (fun pc => do
    waitAccesses
    needRank o a
    let ds ← readDescriptor o pc (← getX b) 64 2
    let e := ds[0]?.getD 0
    let v := ds[1]?.getD 0
    needOk o (entryOk e v)
    setEntry ((← getX a).toNat % 4096) e v) s

/-- rankw.inv. -/
def execRankwInv (w : Bool) (a : Reg) (s : State) : Result :=
  let o := opts32 w (.rankwInv w a)
  issue o (needMode o 1) (fun _ => do
    waitAccesses
    needRank o a
    let rank := (← getX a).toNat % 4096
    let s ← get
    setEntry rank ((s.granule (.hbm (rankAddr rank))).data &&& ~~~((1 : Vec) <<< 255)) (s.granule (.hbm (rankAddr rank + 32))).data) s

/-! Requests from other packages (R389, R394, R395) -/

/-- The right that a request needs (R388). -/
def RemoteOp_need : RemoteOp → Need
  | .load _ => .read
  | .probe => .write
  | .store .. => .write
  | .atomic .. => .atomic
  | .put .. => .write
  | .get _ => .read

/-- A translation for a far source, with group id 63; what is corrected for it is counted at its own package (01 R34). -/
def translateFor (c va : Nat) (need : Need) (s : State) : Except PortFault Found × State :=
  let group := (s.cluster c).group
  let (r, s) := translateAt (s.modCluster c fun k => { k with group := 63 }) c va need
  (r, s.modCluster c fun k => { k with group := group })

/-- A place that a far source may not reach: the watchdogs, or tile SRAM that a window or a lock shuts. -/
def refusesFar (s : State) (loc : Loc) (write : Bool) (size : Nat) : Bool :=
  match loc with
  | .sram tile off => !(s.tile tile).openGranule off || (s.tile tile).locked false write off (off + size - 1)
  | .watchdog _ => true
  | _ => false

/-- The effect of a request at its place. -/
def performRemote (src tile slot va : Nat) (op : RemoteOp) (f : Found) (s : State) : State :=
  let loc := f.loc.granule
  let logged (kind : Nat) (bytes : BitVec 32) : Option Logged :=
    if f.logged then some ⟨va / 32 * 32, bytes, src, ⟨tile, slot⟩, kind⟩ else none
  match op with
  | .store data bytes tag =>
    afterWrite loc bytes (logWrite loc (logged 0 bytes) (s.setGranule loc (mergeGranule (s.granule loc) data bytes tag).1))
  | .atomic code wide operand expected =>
    match atomicOn (s.granule loc) (va % 32) code (if wide then 64 else 32) operand expected with
    | .ok (some g, _, _, _) =>
      let bytes := BitVec.ofNat 32 ((2 ^ (if wide then 8 else 4) - 1) * 2 ^ (va % 32))
      afterWrite loc bytes (logWrite loc (logged (if code = 0x1F then 2 else 1) bytes) (s.setGranule loc g))
    | _ => s
  | .put (g :: rest) flag =>
    let s := afterWrite loc (ones 32) (logWrite loc (logged 4 (ones 32)) (s.setGranule loc ⟨g.1, g.2⟩))
    s.scheduleFree phaseAccess (.remoteRequest src tile slot ((va + 32) % 2 ^ 56) (.put rest flag))
  | .put [] _ => addWord none f.loc 1 (logged 4 (bytesAt (va % 32) 8)) s
  | _ => s

/-- A request whose granules have all performed adds to its flag; the rest name their place. -/
def requestPlace (va : Nat) : RemoteOp → Option Nat
  | .put [] flag => flag
  | _ => some va

/-- REMOTE_REQUEST: the entry for the source, the translation of the local part, and the access at its owner. What is refused
has no effect here. -/
def execRemoteRequest (src tile slot : Nat) (va : Nat) (op : RemoteOp) (s : State) : Result :=
  let again (s : State) : Result := .next (s.schedule (s.cycle + 1) phaseAccess (.remoteRequest src tile slot va op))
  let e := s.rankEntry src
  let need := RemoteOp_need op
  match requestPlace va op with
  | none => .next s
  | some at_ =>
    if !entryValid e then again s
    else if entryRoute e = 0 || !entryAllows e need then .next s
    else
      let (n, s) := s.drawLatency
      let c := n % 2560
      match forwardTo s c at_ with
      | some rank => if rank = s.pkg.rank then again s else .next s
      | none =>
        match translateFor c at_ need s with
        | (.error _, s) => .next s
        | (.ok f, s) =>
          if refusesFar s f.loc need.writes 1 then .next s
          else if s.busyAt f.loc then again s
          else .next (performRemote src tile slot at_ op f s)

/-- UE_RECEIVE: modes 2 ROD and 3 RUD carry requests; any other is discarded (R391). -/
def execUeReceive (mode : Nat) (src : FarThread) (va : Nat) (op : RemoteOp) (s : State) : Result :=
  if mode = 2 || mode = 3 then .next (s.schedule s.cycle phaseAccess (.remoteRequest src.rank src.tile src.slot va op)) else .next s

/-! Replies and timeouts (R390, R396) -/

/-- The far page of an access is read-mostly: the line is kept (R397). -/
def keepIf (home3 : Bool) (a : Access) (g : Granule) (s : State) : State :=
  if home3 && cachedLoad s a then keepRemote a g s else s

/-- An access's answer. -/
def answerAccess (a : Access) (ans : RemoteAnswer) (s : State) : State :=
  match a.kind, ans with
  | .release .., .done => s.dropAccess a.id
  | .release .., .refused => discardWrite a s
  | .drain sn _, .done => endDrain a sn s
  | .drain .., .refused => discardWrite a s
  | .granule tok idx, .data gs home3 =>
    if isSkip s a then gotGranule a tok idx 0 (some 4) (s.dropAccess a.id)
    else
      match gs with
      | [g] => deliverRead a ⟨g.1, g.2⟩ none (keepIf home3 a ⟨g.1, g.2⟩ s)
      | _ => s
  | .granule tok idx, .done => if isSkip s a then gotGranule a tok idx 0 (some 4) (s.dropAccess a.id) else s
  | .word, .data [g] _ => deliverRead a ⟨g.1, g.2⟩ none s
  | .launch .., .data [g0, g1] _ =>
    (s.putAccess { a with data := [⟨g0.1, g0.2⟩, ⟨g1.1, g1.2⟩], loc := none, stage := 1 }).scheduleFree phaseAccess (.portAccess a.id)
  | .walk tok p d steps offset, .data [g] _ => walkRead_ a ⟨g.1, g.2⟩ tok p d steps offset s
  | .probe tok _, .done =>
    match a.loc with
    | some loc => finishProbe a tok loc.granule s
    | none => s
  | .atomic tok _ wide _ _ d, .old v flags =>
    let old := if wide then v else (v.setWidth 32).signExtend 64
    landIn a.who tok none (setReply a.who tok [.x d old, .flags flags, .fold 8 old] (s.dropAccess a.id))
  | .atomic .., .badSeal sub => failAccess a { code := cSealFault, sub := sub, info := BitVec.ofNat 64 a.key.addr } s
  | .fetch sn n, .data [g] _ =>
    let s := s.dropAccess a.id
    match (s.tile a.who.tile).stream sn with
    | some st =>
      if st.thread = a.thread && st.busy.contains n then s.modTile a.who.tile (·.setStream sn (some (st.hold n (some ⟨g.1, g.2⟩) none))) else s
    | none => s
  | .burst id first n, .data gs _ =>
    if gs.length = n then performTransfer { a with data := gs.map fun g => ⟨g.1, g.2⟩ } (.page 0) id first n s else s
  | .burst id first n, .done => performBurst a.who.tile id ((List.range n).map (first + ·)) (s.dropAccess a.id)
  | _, .refused => failPort a { code := cRemoteDenied, info := BitVec.ofNat 64 a.addr } s
  | _, _ => s

/-- The answer to a packet that has left the package. -/
def answerPacket (p : Packet) (ans : RemoteAnswer) (s : State) : State :=
  match p.load, ans with
  | .granule _ _, .done => replyPacket p [] 0 s
  | .granule q _, .refused => refuseSend p q s
  | .doorbell d _, .old v _ => replyPacket p [.x d v] 0 s
  | .spawn d _ _ _, .old v _ => replyPacket p [.x d v] 0 s
  | .steal d, .data [g] _ => replyPacket p (stealWrites d g.1) 0 s
  | .steal d, .old v _ => replyPacket p [.x d v, .fold 8 v] 0 s
  | _, .dropped index => failResult p.who p.thread p.tok { code := cRouteInvalid, info := BitVec.ofNat 64 index } (s.dropPacket p.id)
  | _, _ => s

/-- REMOTE_REPLY_ARRIVAL: an answer that comes after its timeout finds nothing that waits for it. -/
def execRemoteReplyArrival (id : Nat) (ans : RemoteAnswer) (s : State) : Result :=
  match s.access id with
  | some a =>
    match a.loc with
    | some (.remote _ _) => .next (if a.stage = 2 then answerAccess a ans s else s)
    | _ => .next s
  | none =>
    match s.packet id with
    | some p => .next (if p.away then answerPacket p ans s else s)
    | none =>
      match s.findOp id with
      | some (c, op) => .next (if op.unanswered then answerTransfer c op ans s else s)
      | none => .next s

/-- A request of an access is at another package. -/
def Access.away (a : Access) : Bool :=
  match a.loc with
  | some (.remote _ _) => true
  | _ => false

/-- FABRIC_TIMEOUT: a load, an atomic or a CAS that still waits for its reply traps; a released store counts as acknowledged; a transfer
stops. -/
def execFabricTimeout (id : Nat) (s : State) : Result :=
  match s.access id with
  | some a =>
    if a.stage ≠ 2 || !a.away then .next s
    else
      match a.kind with
      | .release .. => .next (discardWrite a s)
      | .drain .. => .next (discardWrite a s)
      | _ => .next (failPort a { code := cFabricTimeout, info := BitVec.ofNat 64 a.addr } s)
  | none =>
    match s.findOp id with
    | some (c, op) => .next (if op.unanswered then stopTransfer c op s else s)
    | none => .next s

/-! The aligned group (R379 to R383) -/

/-- A group time in cycles of this package. -/
def State.groupCycle (s : State) (time : Nat) : Nat := max s.cycle (time - s.pkg.gtime)

/-- A freeze that another member began. -/
def groupFreeze (t : Nat) (r : Region) : Region :=
  { r with freezes := r.freezes ++ [{ close := none, addr := 0, missing := 0, point := t + r.s, count := 0, timeout := 0 }] }

/-- The next group time on which a change of m may fall (R383). -/
def clockTime (s : State) : Nat := (s.pkg.gtime + s.cycle + s.pkg.sgroup + 65535) / 65536 * 65536

/-- A change of m has been named and is still to come. -/
def clockPending (s : State) : Bool :=
  s.pend.any fun d => match d.ev with
    | .groupClockChange _ => true
    | _ => false

/-- Index 0 applies the least m that any member wants, one change after another. -/
def decideClock (s : State) : State :=
  let m := (s.pkg.wanted.map (·.2)).foldl min 32
  if s.pkg.wanted.isEmpty || m = s.pkg.m || clockPending s then s
  else s.schedule (s.groupCycle (clockTime s)) phaseLand (.groupClockChange m)

/-- What a member wants of m, kept at index 0 until it wants another. -/
def wants (member m : Nat) (s : State) : State :=
  decideClock { s with pkg := { s.pkg with wanted := s.pkg.wanted.filter (·.1 ≠ member) ++ [(member, m)] } }

/-- The fault of another member, for the record that this one writes (R381): the token says neither its cause nor its address,
which are free values (log 3). -/
def farFault (s : State) (r : Region) (t : Nat) : RegFault :=
  let v := Config.farData s.draws
  { tile := r.tiles.foldl min 40960, at_ := t, wall := s.cycle, cause := (v.extractLsb' 0 3).toNat % 7, code := 0, sub := 0, info := 0
    addr := (v.extractLsb' 8 12).toNat }

/-- The halt that a member's fault at region cycle t brings: the earliest of the faults is the one reported, and where that is not this
member's, its own are recorded beside it (R229 step 1, R381; log 69). -/
def Region.farHalt (r : Region) (t : Nat) (f : RegFault) : Region :=
  let own := r.fault.toList.filter fun g => t < g.at_
  { r with
    fault := r.fault.filter (·.at_ ≤ t), others := r.others ++ own ++ (if r.fault.any (·.at_ ≤ t) then [] else [f])
    haltAt := some (max r.cycle (min (t + r.s) (r.haltAt.getD (t + r.s)))) }

/-- A region of a place k among those of the job. -/
def groupRegion (s : State) (k : Nat) : Option (Nat × Region) := s.regions.find? (·.2.index = k)

/-- A halt token for a region. -/
def tokenHalt (id : Nat) (r : Region) (t : Nat) (debug : Bool) (s : State) : State :=
  if !r.started then s
  else if debug then
    s.modRegion id fun r => if r.stopped.isSome || r.debugAt.isSome then r else { r with debugAt := some (max r.cycle (t + r.s)) }
  else if r.rolled then s
  else tellSteward r ({ s with draws := s.draws + 1 }.modRegion id fun r => r.farHalt t (farFault s r t))

/-- A resume token for a region: after a halt, a debug halt, or a freeze. -/
def tokenResume (id : Nat) (r : Region) (time : Nat) (s : State) : State :=
  if r.haltAt.isSome || r.halted then s.modRegion id fun r => { r with resumeAt := some (s.groupCycle time) }
  else if r.stopped.isSome || r.debugAt.isSome then
    (s.modRegion id fun r => { r with debugEnd := some (s.groupCycle time) }).schedule (s.groupCycle time) phaseLand (.debugRegionResume id)
  else
    s.modRegion id fun r =>
      { r with freezes := r.freezes.map fun f => if f.close.isNone && f.until_.isNone then { f with until_ := some time } else f }

/-- TOKEN_ARRIVAL: a token names its group region. -/
def execTokenArrival (t : Token) (s : State) : Result :=
  match t with
  | .freeze k at_ =>
    match groupRegion s k with
    | some (id, _) => .next (s.modRegion id fun r => if r.started && !r.halted then groupFreeze at_ r else r)
    | none => .next s
  | .resume k time =>
    match groupRegion s k with
    | some (id, r) => .next (tokenResume id r time s)
    | none => .next s
  | .halt k at_ debug =>
    match groupRegion s k with
    | some (id, r) => .next (tokenHalt id r at_ debug s)
    | none => .next s
  | .abort k =>
    match groupRegion s k with
    | some (id, _) => .next (fatalRegion id s)
    | none => .next (if k < s.pkg.regions then s else { s with pkg := { s.pkg with aborted := s.pkg.aborted ++ [k] } })
  | .ready index k time => .next (startGroup { s with pkg := { s.pkg with tokens := s.pkg.tokens ++ [(index, k, time)] } })
  | .clock member m time =>
    if s.pkg.gindex = 0 then .next (wants member m s) else .next (s.schedule (s.groupCycle time) phaseLand (.groupClockChange m))

/-- A change of m stops the clock (15 R373). -/
def changeClock (m : Nat) (s : State) : State :=
  let s : State := { s with pkg := { s.pkg with m := m, capped := m < 32, stopped := true } }
  { s with todo := s.todo ++ [.event .clockStopEnd] }

/-- GROUP_CLOCK_CHANGE: the next change is decided where another m is wanted by then. -/
def execGroupClockChange (m : Nat) (s : State) : Result :=
  let s := if m = s.pkg.m then s else changeClock m s
  .next (if s.pkg.gindex = 0 then decideClock s else s)

/-! The move service (R399 to R401) -/

/-- HBM given out below the firmware reserve, the latest lowest (02 R63; log 63). -/
def allocate (size align : Nat) (s : State) : Option (Nat × State) :=
  if reserveBase < s.pkg.allocated + size then none
  else
    let a := (reserveBase - s.pkg.allocated - size) / align * align
    some (a, { s with pkg := { s.pkg with allocated := reserveBase - a } })

/-- Every port's translation cache emptied. -/
def dropTranslations (s : State) : State := { s with clusters := s.clusters.map fun c => (c.1, { c.2 with cache := [] }) }

/-- The granules of a page that comes from another package (log 3). -/
def arrivePage (a size : Nat) (s : State) : State :=
  let n := s.draws
  (List.range (size / 32)).foldl (fun s i => s.setGranule (.hbm (a + 32 * i)) ⟨Config.farData (n + i), Config.farSeal (n + i)⟩)
    { s with draws := n + size / 32 }

/-- A page moved to a rank, or its settled bit cleared: the status, 0 or 2. -/
def movePage (va new : Nat) (clear : Bool) (s : State) : Nat × State :=
  match walkFrom s (va % 2 ^ 44) 4 s.pkg.root with
  | .error _ => (2, s)
  | .ok c =>
    let put (w : Word) (s : State) : State := dropTranslations (updateWord none (.hbm c.leaf) (fun _ => w.toNat) s)
    let own := s.pkg.rank
    let moves := (c.entry.extractLsb' 49 4).toNat
    let counters : Word := 0x005E000000000000
    if clear then (0, put (c.entry &&& ~~~counters) s)
    else if c.flag 54 || (!c.flag 63 && moves = 0) then (2, s)
    else
      let current := if c.flag 63 then own else (c.entry.extractLsb' 36 12).toNat
      let recent := s.pkg.moved.any fun m => m.1 = va / c.size * c.size && s.cycle < m.2.2 + 2 ^ 20
      let n := if recent then min 8 (moves + 1) else 1
      let kept : Word := c.entry &&& ~~~(counters ||| 0x8000FFFFFFFFF000)
      let marks : Word := BitVec.ofNat 64 (n * 2 ^ 49 + if n = 8 then 2 ^ 54 else 0)
      let s' : State := { s with pkg := { s.pkg with
        moved := s.pkg.moved.filter (·.1 ≠ va / c.size * c.size) ++ [(va / c.size * c.size, n, s.cycle)] } }
      if current = new then (0, s)
      else if new = own then
        match allocate c.size c.size s' with
        | none => (2, s)
        | some (a, s) => (0, put (kept ||| marks ||| 0x8000000000000000 ||| BitVec.ofNat 64 a) (arrivePage a c.size s))
      else if rankOf va = own then (0, put (kept ||| marks ||| BitVec.ofNat 64 (new * 2 ^ 36)) s')
      else (0, put kept s')

/-- A write to a page has not been acknowledged yet. -/
def pagePending (s : State) (va : Nat) : Bool :=
  s.accs.any fun a => a.stores && match a.key with
    | .virt v => v / 4096 = va / 4096
    | .own _ => false

/-- PAGE_MOVE: the service serves the next entry of the move ring. -/
def execPageMove (s : State) : Result :=
  let head := s.mem.readN moveRing 8
  let tail := s.mem.readN (moveRing + 8) 8
  if head ≤ tail then .next s
  else
    let e := moveRing + 128 * (1 + tail % 64)
    let req := (s.granule (.hbm e)).data
    let va := (req.extractLsb' 0 56).toNat
    if pagePending s va then .next (s.scheduleFree phaseAccess .pageMove)
    else
      let (status, s) := movePage va (req.extractLsb' 56 12).toNat (req.getLsbD 68) s
      let s := updateWord none (.hbm (e + 72)) (fun _ => 2 ^ 63 + status) s
      let s := updateWord none (.hbm (moveRing + 8)) (· + 1) s
      .next (if tail + 1 < head then s.scheduleFree phaseAccess .pageMove else s)

end Sys2Proof.Machine
end

