-- ==== Sys2Proof/Machine/Debug.lean ====
section
/-! DEFINITION. The replay unit, debug stops, the debug interface, dumps, watchdogs and device-fatal faults (14 R345 to R354, 11
R299). -/

namespace Sys2Proof.Machine

/-! The replay unit (R345 to R347) -/

/-- The fields of its descriptor. -/
def replayOf (tile off : Nat) (v : Vec) : Replay :=
  let field (lo n : Nat) : Nat := (v.extractLsb' lo n).toNat
  { tile := tile, off := off, save := field 200 56, cap := field 176 24, row0 := field 170 6, col0 := field 163 7, height := field 156 7
    width := field 149 7 }

/-- A descriptor that R346 accepts. -/
def replayOk (v : Vec) : Bool :=
  let r := replayOf 0 0 v
  v.extractLsb' 0 149 = 0 && r.save % 4096 = 0 && 1 ≤ r.cap && 1 ≤ r.height && 1 ≤ r.width && r.row0 + r.height ≤ 64 && r.col0 + r.width ≤ 80

/-- The status as x[d] and the result granule hold it. -/
def Replay.status (r : Replay) : Word := BitVec.ofNat 64 (r.pass % 16 * 16 + (if r.overflow then 2 else 0) + if r.mismatch then 1 else 0)

def replayBusy : Word := 4
def replayIdle : Word := 8

/-- The result granule written by the unit. -/
def writeResult (tile off : Nat) (hash0 hashn : Word) (pages : Nat) (status : Word) (s : State) : State :=
  let loc : Loc := .sram tile (off + 32)
  afterWrite loc 0 (s.setGranule loc (sealed (hash0 ++ hashn ++ BitVec.ofNat 64 pages ++ status) 0))

/-- The same for a replay under way. -/
def reportReplay (r : Replay) (s : State) : State := writeResult r.tile r.off r.hash0 r.hashn r.pages.length r.status s

/-- The tiles of its rectangle. -/
def Replay.tiles (r : Replay) (die : Nat) : List Nat :=
  (List.range (r.height * r.width)).map fun i => tileAt die (r.row0 + i / r.width) (r.col0 + i % r.width)

/-- The threads of a tile that are alive, spilled ones too. -/
def Tile.living (t : Tile) : List Thread :=
  t.slots.toList.filterMap (·.thread) ++ t.slots.toList.filterMap fun sl => sl.victim.map (·.thread)

/-- The present pass ends: its hash, and whether it differs from pass 0's. -/
def endPass (die : Nat) (s : State) (r : Replay) : Replay :=
  let h := (r.tiles die).foldl (fun h t => ((s.tile t).living.foldl (fun h t => h ^^^ t.hash) h)) r.ended
  if r.pass = 0 then { r with hash0 := h, hashn := h } else { r with hashn := h, mismatch := r.mismatch || h ≠ r.hash0 }

/-- A captured page written back from its save slot. -/
def restorePage (r : Replay) (s : State) (p : Nat × Nat × Nat) : State :=
  (List.range 128).foldl (fun s i =>
    match r.area.at (128 * p.1 + i) with
    | some (loc, _) => afterWrite (.hbm (p.2.2 + 32 * i)) 0 (s.setGranule (.hbm (p.2.2 + 32 * i)) (s.view loc))
    | none => s) s

/-- The threaded read caches of the rectangle emptied, at the end of a pass (12 R302). -/
def emptyTiles (die : Nat) (r : Replay) (s : State) : State :=
  (r.tiles die).foldl (fun s t => s.modTile t fun t => { t with cache := Vector.replicate 256 [] }) s

/-- The captured pages restored, and the translation caches of the rectangle and the remote read cache of the die emptied. -/
def restorePages (die : Nat) (r : Replay) (s : State) : State :=
  let s := (r.pages.mapIdx fun k p => (k, p)).foldl (restorePage r) s
  let s := ((r.tiles die).map clusterOf).eraseDups.foldl (fun s c => s.modCluster c fun k => { k with cache := [] }) s
  s.modDie die fun d => { d with cache := [], steps := d.steps + 1 }

/-- A long result that lands after the unit's work. -/
def replayLands (pc : BitVec 15) (d : Reg) (status : Word) : M Unit := do
  let cyc := (← get).cycle
  let tok ← addOutst fun tok => { tok := tok, pc := pc, fin := .ready [.x d status], lands := cyc, dests := [destX d] }
  modS fun s => s.scheduleFree phaseLand (.longResultLands s.cur tok)

/-- The save range checked for write at the issuing port; the check itself captures nothing. -/
def saveSpan (die : Nat) (r : Replay) : M (Except PortFault Span) := do
  let s ← get
  let kept := (s.die die).replay
  let (p, s) := piecesFrom s.cur.tile (((s.thread s.cur).map (·.status.mode)).getD 0) .write (r.cap + r.cap / 512 + 3) r.save 0 (4104 * r.cap) [] (s.modDie die fun d => { d with replay := none })
  set (s.modDie die fun d => { d with replay := kept })
  match p with
  | .error f => if f.parks then stop .park else return .error f
  | .ok ps => return .ok ⟨true, r.save, ps.reverse⟩

def needSave (pc : BitVec 15) (die : Nat) (r : Replay) : M Span := do
  match ← saveSpan die r with
  | .error f => rollbackNow pc f.code f.sub f.info
  | .ok sp => return sp

/-- A descriptor that passes the checks of R346, found without a trap: of a start that changes nothing of the replay under way. -/
def passesChecks (tile die off : Nat) : M Bool := do
  if !(off % 64 = 0 && (← getTile).threadOwned off 64) then return false
  ownSettled
  let s ← get
  if s.portTaken tile off then stop .park
  match sealCheck (s.granule (.sram tile off)) none with
  | .error _ =>
    modS (·.countCorrection tile (sealFixes (s.granule (.sram tile off))))
    return false
  | .ok (v, corrected) =>
    modS (·.countCorrection tile corrected)
    if !replayOk v then return false
    match ← saveSpan die (replayOf tile off v) with
    | .error _ => return false
    | .ok _ => return true

/-- rply.start. -/
def execRplyStart (w : Bool) (d a : Reg) (s : State) : Result :=
  let o := { opts32 w (.rplyStart w d a) with long := true }
  issue o (needMode o 1) (fun pc => do
    let off := (← getX a).toNat
    let tile := (← get).cur.tile
    let die := tileDie tile
    match ((← get).die die).replay with
    | some _ =>
      if ← passesChecks tile die off then modS (writeResult tile off 0 0 0 replayBusy)
      longResult pc 1 [destX d] [.x d replayBusy]
    | none =>
      needOk o (off % 64 = 0 && (← getTile).threadOwned off 64)
      let gs ← readDescriptor o pc (BitVec.ofNat 64 off) 64 1
      let v := gs.headD 0
      needOk o (replayOk v)
      let area ← needSave pc die (replayOf tile off v)
      let r := { replayOf tile off v with area := area }
      modS fun s => reportReplay r (s.modDie die fun d => { d with replay := some r })
      replayLands pc d r.status) s

/-- rply.restore and rply.end, which finish the pass that runs. -/
def replayForm (o : Opts) (restore : Bool) (d : Reg) (s : State) : Result :=
  issue { o with long := true } (needMode o 1) (fun pc => do
    let s ← get
    let die := tileDie s.cur.tile
    match (s.die die).replay with
    | none => longResult pc 1 [destX d] [.x d replayIdle]
    | some r =>
      let r := endPass die s r
      let r' := if restore then { r with pass := r.pass + 1, ended := 0 } else r
      modS fun s =>
        let s := emptyTiles die r (if restore then restorePages die r s else s)
        reportReplay r' (s.modDie die fun d => { d with replay := if restore then some r' else none })
      replayLands pc d r'.status) s

/-- rply.restore. -/
def execRplyRestore (w : Bool) (d : Reg) (s : State) : Result := replayForm (opts32 w (.rplyRestore w d)) true d s
/-- rply.end. -/
def execRplyEnd (w : Bool) (d : Reg) (s : State) : Result := replayForm (opts32 w (.rplyEnd w d)) false d s

/-! Debug stops (R349, 07 R200) -/

/-- A slot's thread halted; the status of R349. -/
def haltSlot (w : Who) (id : Option (BitVec 12)) (s : State) : Nat × State :=
  match s.thread w with
  | none => (1, s)
  | some t => if t.halted.isSome then (2, s) else (0, s.setThread w { t with halted := some id })

/-- DSTOP in either form. -/
def stopForm (o : Opts) (d a : Reg) (id : Option (BitVec 12)) (s : State) : Result :=
  issue { o with long := true } (needMode o 1) (fun pc => do
      let x ← getX a
      needOk o (!(← get).hole (x.toNat % 65536))
      let who : Who := ⟨x.toNat % 65536, x.toNat / 65536 % 8⟩
      let (status, s) := haltSlot who id (← get)
      set s
      let tok ← addOutst fun tok =>
        { tok := tok, pc := pc, fin := .ready [.x d (BitVec.ofNat 64 status)], lands := s.cycle, dests := [destX d] }
      modS fun s => s.scheduleFree phaseLand (.longResultLands s.cur tok)) s

/-- dstop. -/
def execDstop (w : Bool) (d a : Reg) (id : BitVec 12) (s : State) : Result := stopForm (opts32 w (.dstop w d a id)) d a none s
/-- dstop.trap. -/
def execDstopTrap (w : Bool) (d a : Reg) (id : BitVec 12) (s : State) : Result := stopForm (opts32 w (.dstopTrap w d a id)) d a (some id) s

/-! The debug interface (R348, R350) -/

/-- DEBUG_STOP_SLOT. -/
def execDebugStopSlot (who : Who) (id : Option Nat) (s : State) : Result := .next (haltSlot who (id.map (BitVec.ofNat 12)) s).2

/-- DEBUG_RESUME: a written mode takes effect (R350), and a thread stopped with .trap takes DEBUG_STOP at its first boundary that allows
it. -/
def execDebugResume (who : Who) (s : State) : Result :=
  match s.thread who with
  | none => .next s
  | some t =>
    match t.halted with
    | none => .next s
    | some id =>
      let asyncs := match id with
        | some n => t.asyncs ++ [{ code := cDebugStop, info := n.setWidth 64, epc := 0, fpc := 0 }]
        | none => t.asyncs
      .next (s.setThread who { t with
        halted := none, asyncs := asyncs, debugMode := none, status := { t.status with mode := t.debugMode.getD t.status.mode } })

/-- A register of a stopped thread written. -/
def debugWrite (t : Thread) (r : DebugReg) (v : Vec) : Thread :=
  match r with
  | .pc => { t with pc := toPc (v.setWidth 64), wait := none }
  | .x n => t.setX (BitVec.ofNat 5 n) (v.setWidth 64)
  | .v n => if n < t.window then t.setV n v else t
  | .k n => t.setK (BitVec.ofNat 3 n) (v.setWidth 32)
  | .seg n => t.setSeg (BitVec.ofNat 3 n) (segOf (v.extractLsb' 0 64) (v.extractLsb' 64 64))
  | .cr 0 =>
    -- code 2 is never held (03 R69, R71); the mode waits for the resumption
    let pmode := if v.extractLsb' 2 2 = 2 then t.status.pmode else v.extractLsb' 2 2
    let t := t.crWrite 0 (v.setWidth 64)
    { t with status := { t.status with pmode := pmode }, debugMode := if v.extractLsb' 0 2 = 2 then t.debugMode else some (v.extractLsb' 0 2) }
  | .cr n => t.crWrite n (v.setWidth 64)
  | .gen n => { t with gen := t.gen.setIfInBounds n (v.setWidth 32) }
  | .shape n j => { t with shape := t.shape.setIfInBounds n ((t.shape[n]?.getD (Vector.replicate 4 1)).setIfInBounds j (v.setWidth 32)) }

/-- A register of a thread as the debug interface reads it. -/
def debugRead (s : State) (who : Who) (t : Thread) (r : DebugReg) : Vec :=
  match r with
  | .pc => t.pc.setWidth 256
  | .x n => (t.getX (BitVec.ofNat 5 n)).setWidth 256
  | .v n => if n < t.window then t.getV n else 0
  | .k n => (t.getK (BitVec.ofNat 3 n)).setWidth 256
  | .seg n => ((t.getSeg (BitVec.ofNat 3 n)).high ++ (t.getSeg (BitVec.ofNat 3 n)).low).setWidth 256
  | .cr n => (crRead s who t n).setWidth 256
  | .gen n => (t.gen[n]?.getD 0).setWidth 256
  | .shape n j => ((t.shape[n]?.getD (Vector.replicate 4 1))[j]?.getD 1).setWidth 256

/-- DEBUG_REGISTER_WRITE. -/
def execDebugRegisterWrite (who : Who) (r : DebugReg) (value : Vec) (s : State) : Result :=
  match s.thread who with
  | none => .next s
  | some t => .next (if t.halted.isSome then s.setThread who (debugWrite t r value) else s)

/-- The control node receives an answer. -/
def answerHost (x : Answer) (s : State) : State := { s with answers := s.answers ++ [x] }

/-- DEBUG_REGISTER_READ: a register of a stopped thread. -/
def execDebugRegisterRead (who : Who) (r : DebugReg) (s : State) : Result :=
  match s.thread who with
  | none => .next s
  | some t => .next (if t.halted.isSome then answerHost (.thread who (debugRead s who t r)) s else s)

/-- The layout of an entry in use of the range-lock table (07 R173). -/
def Lock.word (l : Lock) : BitVec 128 :=
  1#1 ++ bit l.virt ++ l.lock ++ l.owner ++ l.ident ++ BitVec.ofNat 56 l.last ++ BitVec.ofNat 56 l.first

/-- DEBUG_LOCK_TABLE_READ: an entry of a tile's table; one that is not in use reads as zero. -/
def execDebugLockTableRead (tile entry : Nat) (s : State) : Result :=
  .next (answerHost (.lock tile entry (((s.tile tile).locks.find? (·.1 = entry)).elim 0 fun l => l.2.word)) s)

/-- DEBUG_REGION_HALT: the region freezes as for a stall, with no timeout. -/
def execDebugRegionHalt (region : Nat) (s : State) : Result :=
  .next (s.modRegion region fun r =>
    if r.stopped.isSome || r.debugAt.isSome || !r.started then r else { r with debugAt := some (r.cycle + r.s) })

/-- DEBUG_REGION_RESUME: issue resumes the stall distance later, with a record of the cycles halted. -/
def execDebugRegionResume (region : Nat) (s : State) : Result :=
  match s.region region with
  | none => .next s
  | some r =>
    match r.debugEnd with
    | none =>
      if r.stopped.isNone && r.debugAt.isNone then .next s
      else
        .next ((s.modRegion region fun r => { r with debugEnd := some (s.cycle + r.s) }).schedule (s.cycle + r.s) phaseLand
          (.debugRegionResume region))
    | some c =>
      if s.cycle < c then .next s
      else
        let s := match r.stopped with
          | some since => deviate r (r.tiles.headD 0) 0x0B 0 (s.cycle - since) 0 s
          | none => s
        .next (s.modRegion region fun r => { r with stopped := none, debugAt := none, debugEnd := none })

/-! Dumps (R351 to R353) -/

/-- The data address of a die's dump area (R352; log 8), and its size. -/
def dumpBase (die : Nat) : Nat := reserveBase + 0x10000000 + die * 0x2000000
def dumpSize : Nat := 0x2000000

/-- The header of a dump. -/
def DumpReq.header (r : DumpReq) (seq bytes : Nat) (trunc : Bool) : Vec × Vec :=
  let second := r.second.getD (0, 0, 0)
  (BitVec.ofNat 64 r.stamp ++ r.info ++ BitVec.ofNat 16 r.who.tile ++ BitVec.ofNat 3 r.who.slot ++ 0#13 ++ r.code ++ r.sub ++
      BitVec.ofNat 4 r.cls ++ second.1 ++ second.2.1 ++ bit r.second.isSome ++ bit trunc ++ BitVec.ofNat 2 r.kind ++
      BitVec.ofNat 32 r.later ++ BitVec.ofNat 32 bytes,
    second.2.2 ++ BitVec.ofNat 64 seq ++ 0#128)

/-- The body of a dump: a thread's state in its save layout, or a region's. -/
def dumpBody (s : State) (r : DumpReq) : List Vec :=
  if r.kind = 0 then
    match r.thread.orElse fun _ => s.thread r.who with
    | some t => saveGranules t none
    | none => []
  else r.body

/-- Granules written one after another. -/
def writeRun (a : Nat) (gs : List Vec) (s : State) : State :=
  (gs.mapIdx fun i g => (i, g)).foldl (fun s p => s.setGranule (.hbm (a + 32 * p.1)) (sealed p.2 0)) s

/-- The area's header written: the next free byte, the dumps written and lost. -/
def dumpHeader (die next written lost : Nat) (s : State) : State :=
  s.setGranule (.hbm (dumpBase die)) (sealed (0#64 ++ BitVec.ofNat 64 lost ++ BitVec.ofNat 64 written ++ BitVec.ofNat 64 next) 0)

/-- A dump written into the area, cut where the area ends; a dump without room for its header is lost. -/
def writeDump (die : Nat) (r : DumpReq) (s : State) : State :=
  let h := (s.granule (.hbm (dumpBase die))).data
  let next := max 32 (h.extractLsb' 0 64).toNat
  let written := (h.extractLsb' 64 64).toNat
  let lost := (h.extractLsb' 128 64).toNat
  let room := dumpSize - next
  if room < 64 then dumpHeader die next written (lost + 1) s
  else
    let body := dumpBody s r
    let kept := body.take ((room - 64) / 32)
    let bytes := 64 + 32 * kept.length
    let (g0, g1) := r.header written bytes (kept.length < body.length)
    let s := writeRun (dumpBase die + next + 64) kept s
    let s := writeRun (dumpBase die + next) [g0, g1] s
    dumpHeader die (next + bytes) (written + 1) lost s

/-- The kind 3 record of a dump that starts (R339). -/
def dumpRecord (r : DumpReq) (s : State) : State :=
  let pc := match (if r.kind = 0 then r.thread.orElse fun _ => s.thread r.who else none) with
    | some t => t.pc.toNat
    | none => 0
  enterTrace r.who.tile
    (traceRecord (BitVec.ofNat 64 s.cycle) r.info (BitVec.ofNat 32 r.cls) r.who.tile pc r.code 3 (BitVec.ofNat 3 r.who.slot)) s

/-- A context's dump is complete: the thread ends, or the region's tiles are done. -/
def afterDump (r : DumpReq) (s : State) : State :=
  if r.kind = 0 then s.schedule s.cycle phaseLand (.threadFatal r.who)
  else if r.kind = 1 then
    let s := s.modLaunch r.region fun l => r.tiles.foldl (fun l t => l.modPart t fun p => { p with regionDone := true }) l
    r.tiles.foldl (fun s t => s.schedule (s.cycle + 1) phaseAccess (.done r.region t)) s
  else s

/-- DUMP: the die's dump engine writes the dump of the first context that waits, or counts one that found no room. -/
def execDump (die : Nat) (s : State) : Result :=
  if s.hbmShut (.hbm (dumpBase die)) then .next (s.schedule (s.cycle + 1) phaseAccess (.dump die))
  else
    let d := s.die die
    let s :=
      if d.lost = 0 then s
      else
        let h := (s.granule (.hbm (dumpBase die))).data
        (dumpHeader die (max 32 (h.extractLsb' 0 64).toNat) (h.extractLsb' 64 64).toNat ((h.extractLsb' 128 64).toNat + d.lost) s).modDie die
          fun d => { d with lost := 0 }
    match d.dumps with
    | [] => .next s
    | r :: rest => .next (afterDump r (writeDump die r (dumpRecord r (s.modDie die fun d => { d with dumps := rest }))))

/-! Device-fatal faults (R351, 11 R299) -/

/-- Every region of the package is dumped and over. -/
def stopRegions (s : State) : State :=
  s.regions.foldl (fun s r => dropRegion r.1 (queueDump (tileDie (r.2.tiles.headD 0)) (regionDump r.2 5 s) s)) s

/-- The threads of the package's tiles by slot, and those that are spilled there. -/
def State.contexts (s : State) : List (Who × Option Thread) :=
  s.tiles.flatMap fun t => (List.range 8).flatMap fun k =>
    (if (s.thread ⟨t.1, k⟩).isSome then [(⟨t.1, k⟩, none)] else []) ++
      ((t.2.slot k).victim.toList.map fun v => (⟨t.1, k⟩, some v.thread))

/-- The package becomes device fatal (class 5): each die dumps the fault and then every context of its own, one after another, and every
launch is abandoned. -/
def deviceFatal (code : BitVec 8) (info : Word) (s : State) : State :=
  if s.pkg.fatal then s
  else
    let s : State := { s with pkg := { s.pkg with fatal := true } }
    let req (kind : Nat) (c : Who × Option Thread) : DumpReq :=
      { kind := kind, cls := 5, who := c.1, thread := c.2, stamp := s.cycle, code := code, sub := 0, info := info }
    let s := (List.range 8).foldl (fun s d => queueDump d (req 2 (⟨d * 5120, 0⟩, none)) s) s
    let s := s.contexts.foldl (fun s c => queueDump (tileDie c.1.tile) (req 0 c) s) s
    let s := stopRegions s
    s.launches.foldl (fun s l => s.schedule s.cycle phaseAccess (.launchAbandon l.1 5)) s

/-! Watchdogs (R354) -/

def Die.dog (d : Die) (n : Nat) : Watchdog := d.dogs[n]?.getD {}
def Watchdog.on (w : Watchdog) : Bool := w.word.getLsbD 63
def Watchdog.target (w : Watchdog) : Who := ⟨(w.word.extractLsb' 42 16).toNat, (w.word.extractLsb' 39 3).toNat⟩
/-- The cycles to its expiry. -/
def Watchdog.limit (w : Watchdog) : Nat := (w.word.extractLsb' 0 39).toNat * 1024

/-- The bits of a watchdog's word that are fields; the others read as zero (00 R9). -/
def dogFields : Word := 0x83FFFFFFFFFFFFFF

/-- WATCHDOG_WRITE: the word is set and its count restarts. -/
def execWatchdogWrite (die n : Nat) (value : Word) (s : State) : Result :=
  .next (s.modDie die fun d => { d with dogs := d.dogs.setIfInBounds n { word := value &&& dogFields } })

/-- WATCHDOG_EXPIRY: WATCHDOG to the target, or device fatal at a second expiry or for an empty slot. -/
def execWatchdogExpiry (die n : Nat) (s : State) : Result :=
  let w := (s.die die).dog n
  if !w.on then .next s
  else
    let s := s.modDie die fun d => { d with dogs := d.dogs.setIfInBounds n { w with count := 0, expired := true } }
    match s.thread w.target with
    | none => .next (deviceFatal cWatchdog (BitVec.ofNat 64 n) s)
    | some t =>
      if w.expired then .next (deviceFatal cWatchdog (BitVec.ofNat 64 n) s)
      else
        .next (s.setThread w.target { t with asyncs := t.asyncs ++ [{ code := cWatchdog, info := BitVec.ofNat 64 n, epc := 0, fpc := 0 }] })

end Sys2Proof.Machine
end

