-- ==== Sys2Proof/Machine/Branch.lean ====
section
/-! DEFINITION. Branches, jumps, LOOP and RMARK (04 R93 to R97). -/

namespace Sys2Proof.Machine

/-- A target that lies a signed count of words from an instruction's address (02 R36). -/
def target (pc : BitVec 15) (words : Int) : BitVec 15 := pc + BitVec.ofInt 15 (4 * words)

def setPc (pc : BitVec 15) : M Unit := modT fun t => { t with pc := pc }

/-- A conditional branch (R93); it folds whether it is taken into the path hash (14 R347), as LOOP does. -/
def branch (cond : Word → Word → Bool) (f : BForm) (s : State) : Result :=
  issue { w := f.w } noChecks (fun pc => modT fun t =>
    if cond (t.getX f.a) (t.getX f.b) then { t.write (.fold 1 1) with pc := target pc f.off.toInt } else t.write (.fold 1 0)) s

def execBeq (f : BForm) (s : State) : Result := branch (fun a b => a = b) f s
def execBne (f : BForm) (s : State) : Result := branch (fun a b => a ≠ b) f s
def execBlt (f : BForm) (s : State) : Result := branch (fun a b => a.slt b) f s
def execBge (f : BForm) (s : State) : Result := branch (fun a b => !a.slt b) f s
def execBltc (f : BForm) (s : State) : Result := branch (fun a b => a.ult b) f s
def execBgec (f : BForm) (s : State) : Result := branch (fun a b => !a.ult b) f s

/-- J (R94). -/
def execJ (w : Bool) (off : BitVec 23) (s : State) : Result :=
  issue { w := w } noChecks (fun pc => setPc (target pc off.toInt)) s

/-- JAL: the link in x31 (R94). -/
def execJal (w : Bool) (off : BitVec 23) (s : State) : Result :=
  issue { w := w } noChecks (fun pc => modT fun t =>
    { t.setX 31 ((pc + 4).setWidth 64) with pc := target pc off.toInt }) s

/-- JR: a target that is not a multiple of 4 is MISALIGNED (R94). -/
def execJr (f : IForm) (s : State) : Result :=
  issue { w := f.w } noChecks (fun pc => do
    let t ← getT
    let dest : BitVec 15 := (t.getX f.a + f.imm.signExtend 64).setWidth 15
    if dest.extractLsb' 0 2 ≠ 0 then trapNow cMisaligned (dest.setWidth 64)
    modT fun t => { t.setX f.d ((pc + 4).setWidth 64) with pc := dest }) s

/-- LOOP (R95). -/
def execLoop (f : IForm) (s : State) : Result :=
  issue { w := f.w } noChecks (fun pc => modT fun t =>
    let n := t.getX f.a
    if 1 < n.toNat then { (t.setX f.d (n - 1)).write (.fold 1 1) with pc := target pc f.imm.toInt }
    else (t.setX f.d 0).write (.fold 1 0)) s

/-- RMARK: a restart mark whose address is the next instruction's (R97). -/
def execRmark (w : Bool) (s : State) : Result :=
  issue { w := w } noChecks (fun pc => do
    if !(← getT).outst.isEmpty then stop .park
    modS fun s => takeMark s.cur (pc + 4) s) s

end Sys2Proof.Machine
end

