-- ==== Sys2Proof/Machine/Hash.lean ====
section
/-! DEFINITION. SHAKE256, which the manual names for every digest (15 R368) and does not give: the function of the standard that bears
its name (log 9). -/

namespace Sys2Proof.Machine

/-- The 25 lanes of the permutation, lane (x, y) at x + 5 × y. -/
abbrev HashLanes := Vector Word 25

def HashLanes.at (a : HashLanes) (x y : Nat) : Word := a[x % 5 + 5 * (y % 5)]?.getD 0

/-- HashLanes by their places. -/
def lanesOf (f : Nat → Nat → Word) : HashLanes := Vector.ofFn fun i : Fin 25 => f (i % 5) (i / 5)

/-- The rotations of the lanes, and the constants of the rounds. -/
def laneTurns : List Nat := [0, 1, 62, 28, 27, 36, 44, 6, 55, 20, 3, 10, 43, 25, 39, 41, 45, 15, 21, 8, 18, 2, 61, 56, 14]

def roundWords : List Word :=
  [0x0000000000000001, 0x0000000000008082, 0x800000000000808A, 0x8000000080008000, 0x000000000000808B, 0x0000000080000001,
   0x8000000080008081, 0x8000000000008009, 0x000000000000008A, 0x0000000000000088, 0x0000000080008009, 0x000000008000000A] ++
  [0x000000008000808B, 0x800000000000008B, 0x8000000000008089, 0x8000000000008003, 0x8000000000008002, 0x8000000000000080,
   0x000000000000800A, 0x800000008000000A, 0x8000000080008081, 0x8000000000008080, 0x0000000080000001, 0x8000000080008008]

/-- One round. -/
def keccakRound (a : HashLanes) (k : Word) : HashLanes :=
  let col (x : Nat) : Word := a.at x 0 ^^^ a.at x 1 ^^^ a.at x 2 ^^^ a.at x 3 ^^^ a.at x 4
  let cols : Vector Word 5 := Vector.ofFn fun i : Fin 5 => col i
  let c (x : Nat) : Word := cols[x % 5]?.getD 0
  let mixed := lanesOf fun x y => a.at x y ^^^ c (x + 4) ^^^ (c (x + 1)).rotateLeft 1
  let turned := lanesOf fun x y =>
    let i := (x + 3 * y) % 5
    (mixed.at i x).rotateLeft (laneTurns[i + 5 * x]?.getD 0)
  lanesOf fun x y => (turned.at x y ^^^ (~~~(turned.at (x + 1) y) &&& turned.at (x + 2) y)) ^^^ (if x = 0 && y = 0 then k else 0)

def keccak (a : HashLanes) : HashLanes := roundWords.foldl keccakRound a

/-- The bytes of a block that each permutation takes or gives. -/
def shakeRate : Nat := 136

/-- A message with its ending: a whole number of blocks. -/
def shakePadded (m : List Byte) : List Byte :=
  let r := m.length % shakeRate
  if r = shakeRate - 1 then m ++ [0x9F] else m ++ [0x1F] ++ List.replicate (shakeRate - 2 - r) 0 ++ [0x80]

/-- A block taken into the lanes. -/
def shakeTake (a : HashLanes) (b : List Byte) : HashLanes :=
  keccak (lanesOf fun x y =>
    a.at x y ^^^ ((b.drop (8 * (x + 5 * y))).take 8).foldr (fun (v : Byte) (w : Word) => w <<< 8 ||| v.setWidth 64) 0)

/-- The lanes after n blocks of a message. -/
def shakeBlocks : Nat → List Byte → HashLanes → HashLanes
  | 0, _, a => a
  | n + 1, m, a => shakeBlocks n (m.drop shakeRate) (shakeTake a (m.take shakeRate))

/-- The first 64 bytes of SHAKE256 of a message. -/
def digest (m : List Byte) : List Byte :=
  let p := shakePadded m
  let a := shakeBlocks (p.length / shakeRate) p (lanesOf fun _ _ => 0)
  (List.range 64).map fun i => (a[i / 8]?.getD 0).extractLsb' (8 * (i % 8)) 8

end Sys2Proof.Machine
end

