-- ==== Sys2Proof/Machine/Package.lean ====
section
/-! DEFINITION. The package: boot and readiness, the Theward map, the control node's accesses, jobs and their images, the
dispatcher, host commands, attestation, power and failures (02 R59 to R66, 11 R288 to R290, 15 R355 to R373, 16 R374 to R378). -/

namespace Sys2Proof.Machine

/-! Bytes -/

/-- Bytes as a number, the first lowest (00 R8). -/
def natOf : List Byte → Nat
  | [] => 0
  | b :: rest => b.toNat + 256 * natOf rest

/-- A number as n bytes. -/
def bytesOf (n v : Nat) : List Byte := (List.range n).map fun i => BitVec.ofNat 8 (v / 2 ^ (8 * i))

/-- Bytes as granules, the last filled with zeros. -/
def granulesOfBytes (bs : List Byte) : List Vec :=
  (List.range ((bs.length + 31) / 32)).map fun i => BitVec.ofNat 256 (natOf ((bs.drop (32 * i)).take 32))

/-- Bytes of HBM. -/
def State.hbmBytes (s : State) (a n : Nat) : List Byte := (List.range n).map fun i => s.mem.read (a + i)

/-- A granule whose bytes are all zero, sealed with tag 0x00, at every granule of a range. -/
def zeroRange (a size : Nat) (s : State) : State :=
  { s with
    mem := s.mem.filter fun c => !(a ≤ c.1 && c.1 < a + size)
    seals := s.seals.filter fun p => !(a ≤ 32 * p.1 && 32 * p.1 < a + size) }

/-! The Theward map (11 R288 to R290) -/

/-- Its place (log 8). -/
def mapBase : Nat := reserveBase

/-- Doublewords as granules. -/
def wordsToGranules (n : Nat) (w : Nat → Word) : List Vec :=
  (List.range n).map fun i => w (4 * i + 3) ++ w (4 * i + 2) ++ w (4 * i + 1) ++ w (4 * i)

/-- Bits as granules. -/
def bitsToGranules (n : Nat) (p : Nat → Bool) : List Vec :=
  (List.range n).map fun i => BitVec.ofNat 256 ((List.range 256).foldr (fun j v => 2 * v + if p (256 * i + j) then 1 else 0) 0)

/-- The crossings in the edge table's order: cluster and heading. -/
def crossings : List (Nat × Nat) :=
  (List.range 2560).flatMap fun c => (List.range 4).filterMap fun h =>
    match neighbour c (BitVec.ofNat 2 h) with
    | some d => if d / 320 = c / 320 then none else some (c, h)
    | none => none

/-- An entry of the edge table (R289). -/
def edgeEntry (p : Pkg) (x : Nat × Nat) : Word :=
  BitVec.ofNat 16 (Tab.get 0 p.crossing (x.1 * 4 + x.2)) ++ 0#8 ++ (if p.down.contains x then 0#8 else 1#8) ++ 0#18 ++ BitVec.ofNat 2 x.2 ++
    BitVec.ofNat 12 x.1

/-- An entry of the port table. -/
def portEntry (i : Nat) (p : LinkPort) : Vec :=
  0#128 ++ BitVec.ofNat 16 p.fport ++ BitVec.ofNat 12 p.frank ++ 0#4 ++ BitVec.ofNat 16 p.latency ++ BitVec.ofNat 8 p.state ++
    (if i < 24 then 1#8 else if i < 32 then 2#8 else 3#8) ++ BitVec.ofNat 16 p.tile ++ p.pdata

/-- The sections of the map, after its header. -/
def mapSections (p : Pkg) : List Vec :=
  let edges := crossings.map (edgeEntry p)
  bitsToGranules 160 (fun t => !p.holes.contains t) ++
    bitsToGranules 80 (fun b => b % 8 = 0 && !p.absent.contains (b / 8)) ++
    wordsToGranules 88 (fun i => edges[i]?.getD 0) ++
    p.ports.toList.mapIdx (fun i q => portEntry i q) ++
    wordsToGranules 4 (fun i => p.groupTable.extractLsb' (64 * i) 64)

/-- The header (R288). -/
def mapHeader (p : Pkg) (change : Word) : Vec :=
  change ++ 1#16 ++ BitVec.ofNat 12 p.rank ++ 0#4 ++ BitVec.ofNat 16 (40960 - p.holes.length) ++ 366#16 ++ 1#16 ++ 161#16 ++ 241#16 ++ 329#16 ++
    362#16 ++ BitVec.ofNat 8 p.gsize ++ BitVec.ofNat 8 p.gindex ++ 9#8 ++ 6#8 ++ 0#16

/-- The map's change counter. -/
def State.mapChange (s : State) : Word := (s.granule (.hbm mapBase)).data.extractLsb' 192 64

/-- A thread, with the input 7 of the package's threads. -/
def Thread.told (t : Thread) : Thread := { t with ipend := t.ipend ||| 0x80 }

/-- Input 7 of every thread of the package, spilled ones too. -/
def tellAll (s : State) : State :=
  { s with tiles := s.tiles.map fun t => (t.1, { t.2 with slots := t.2.slots.map fun sl =>
    { sl with thread := sl.thread.map Thread.told, victim := sl.victim.map fun v => { v with thread := v.thread.told } } }) }

/-- The map's header and sections as they stand, under a change counter. -/
def writeMap (change : Word) (s : State) : State := writeRun mapBase (mapHeader s.pkg change :: mapSections s.pkg) s

/-- The next even value of the change counter. -/
def nextChange (s : State) : Word := (s.mapChange ||| 1) + 1

/-- The map published while no program runs that could read it in between (log 92). -/
def publishNow (s : State) : State := tellAll (writeMap (nextChange s) s)

/-- The map published again (R290), steps 1 and 2; the others follow a while later. -/
def publishMap (s : State) : State := (writeMap (s.mapChange ||| 1) s).scheduleFree phaseAccess .mapPublished

/-- The alignment record (16 R378). -/
def publishAlignment (s : State) : State :=
  let p := s.pkg
  s.setGranule (.hbm (reserveBase + 0x400000))
    (sealed (0#168 ++ p.tchild ++ BitVec.ofNat 16 p.tparent ++ BitVec.ofNat 16 p.sgroup ++ BitVec.ofNat 16 p.tdepth ++ 0#16) 0)

/-! Boot and start-up (15 R364, R369) -/

/-- A firmware copy that the boot ROM accepts. -/
def firmwareOk (c : List Byte) : Bool :=
  digest (Config.firmwareKey c) = Config.fusedKeyDigest &&
    Config.mlDsaVerify (digest (Config.firmwareSigned c)) (Config.firmwareSignature c) (Config.firmwareKey c) &&
    Config.fusedVersion ≤ Config.firmwareVersion c

/-- A port as boot finds it. -/
def bootPort (p : Nat) : LinkPort :=
  if !Config.portPresent p then {}
  else
    { state := if (Config.portTrained p).isSome then 3 else 1, latency := (Config.portTrained p).getD 0, frank := Config.portRank p
      fport := if p < 24 then Config.portFar p else 0xFFFF, tile := if p = 32 then 0 else Config.portTile p
      pdata := if 24 ≤ p && p < 32 then Config.portData p else 0 }

/-- What boot fixes of the package; at most 960 tiles are holes (00 R5). -/
def Pkg.booted (p : Pkg) (firmware : List Byte) : Pkg :=
  { p with
    ready := p.ready ||| 1, secver := BitVec.ofNat 64 (Config.firmwareVersion firmware), firmware := firmware
    holes := ((Config.holes.filter (· < 40960)).eraseDups).take 960, absent := Config.absentRouters, down := Config.downCrossings
    crossing := crossings.map fun x => (x.1 * 4 + x.2, Config.crossingLatency (x.1 * 4 + x.2))
    ports := Vector.ofFn fun i : Fin 33 => bootPort i }

/-- A thread that firmware creates at boot, in firmware mode (03 R69); in a hole there is none. -/
def bootThread (s : State) (b : Nat × Nat × BitVec 15 × Nat) : State :=
  if s.hole b.1 then s
  else
    let (n, s) := s.fresh
    s.modSlot ⟨b.1, b.2.1 % 8⟩ fun sl => { sl with thread := some (Thread.born n b.2.2.1 3 (48 * 2 ^ (b.2.2.2 % 4))) }

/-- BOOT: the boot ROM starts the first copy that passes, and firmware publishes the map and creates its threads; with none, failure
bit 0. -/
def execBoot (s : State) : Result :=
  match s.pkg.flash.find? firmwareOk with
  | some c => .next (Config.bootThreads.foldl bootThread (publishAlignment (publishNow { s with pkg := s.pkg.booted c })))
  | none => .next { s with pkg := { s.pkg with failed := s.pkg.failed ||| 1 } }

/-- BOOT_FLASH_RECOVERY_WRITE: served once both copies have failed. -/
def execBootFlashRecoveryWrite (copy : Nat) (image : List Byte) (s : State) : Result :=
  .next (if s.pkg.failed.getLsbD 0 then { s with pkg := { s.pkg with flash := s.pkg.flash.set copy image } } else s)

/-- What is emptied with a tile's SRAM, with its stream store and bundle table (07 R169, 08 R201). -/
def Tile.cleared (t : Tile) : Tile :=
  { t with
    cache := Vector.replicate 256 [], locks := [], armed := Vector.replicate 16 none, deque := [], conts := [], queues := Vector.replicate 16 {}
    streams := Vector.replicate 16 none
    timed := { t.timed with files := {}, h0 := [], h1 := [], bundles := [], ready := false, edits := t.timed.edits + 1 } }

/-- The SRAM of the tiles of a range zeroed and sealed (07 R169). -/
def clearTiles (first n : Nat) (s : State) : State :=
  let s := zeroRange (sramBase + first * sramSpan) (n * sramSpan) s
  { s with tiles := s.tiles.map fun t => if first ≤ t.1 && t.1 < first + n then (t.1, t.2.cleared) else t }

/-- The bits of the dies, of the stacks, and whether some of a word are set. -/
def dieBits : Word := 0x1FE
def stackBits : Word := 0x1FFE00

/-- A function's start-up that has not ended yet. -/
def mayReport (p : Pkg) (bit : Nat) : Bool := bit ≤ 32 && bit ≠ 0 && !p.ready.getLsbD bit && !p.failed.getLsbD bit

/-- The conditions on a readiness bit (R364). -/
def mayReady (p : Pkg) (bit : Nat) : Bool :=
  let all (m : Word) : Bool := p.ready &&& m = m
  mayReport p bit && p.ready.getLsbD 0 &&
    (if bit = 30 then all dieBits
      else if bit = 31 then p.ready.getLsbD 30 && all stackBits && p.failed &&& (dieBits ||| stackBits) = 0
      else true)

/-- FUNCTION_READY: a function has completed its start-up, or failed it. -/
def execFunctionReady (bit : Nat) (ok : Bool) (s : State) : Result :=
  if !(if ok then mayReady s.pkg bit else mayReport s.pkg bit) then .next s
  else
    let b : Word := BitVec.ofNat 64 (2 ^ bit)
    if ok then
      let s := if 1 ≤ bit && bit ≤ 8 then clearTiles ((bit - 1) * 5120) 5120 s else s
      .next { s with pkg := { s.pkg with ready := s.pkg.ready ||| b } }
    else .next { s with pkg := { s.pkg with failed := s.pkg.failed ||| b } }

/-! The Idnen port (R360 to R363) -/

/-- A host access that the port refuses. -/
def hostRefused (s : State) (a size : Nat) : Bool :=
  reserveBase < a + size || !s.pkg.ready.getLsbD 21 ||
    (List.range ((a + size - 1) / 256 - a / 256 + 1)).any fun i => !s.stackReady (a / 256 * 256 + 256 * i)

/-- The bytes of the first piece of a host write: a whole aligned granule, or those within the first aligned word. -/
def firstPiece (a size : Nat) : Nat := if a % 32 = 0 && 32 ≤ size then 32 else min size (4 - a % 4)

/-- One piece of a host write performed at its owner. -/
def writePiece (addr : Nat) (piece : List Byte) (s : State) : State :=
  let v := BitVec.ofNat 256 (natOf piece * 2 ^ (8 * (addr % 32)))
  let bytes := bytesAt (addr % 32) piece.length
  let g := if piece.length = 32 then sealed v 0 else (mergeGranule (s.granule (.hbm addr)) v bytes none).1
  afterWrite (.hbm addr) bytes (s.setGranule (.hbm addr) g)

/-- The granules that a range touches, by their first addresses. -/
def rangeGranules (a size : Nat) : List Nat := (List.range ((a + size - 1) / 32 - a / 32 + 1)).map fun i => a / 32 * 32 + 32 * i

/-- A write's next piece, and what is left of it; all of it while its owner serves no threaded traffic (13 R334). -/
def hostPiece (addr : Nat) (bytes : List Byte) (s : State) : State × Option Event :=
  if bytes.isEmpty then (s, none)
  else if hostRefused s addr bytes.length then (answerHost (.error addr) s, none)
  else if s.hbmShut (.hbm addr) then (s, some (.hostWrite addr bytes))
  else
    let n := firstPiece addr bytes.length
    (writePiece addr (bytes.take n) s, if (bytes.drop n).isEmpty then none else some (.hostWrite (addr + n) (bytes.drop n)))

/-- A read of HBM: its bytes, and the seals of its granules. -/
def hostFetch (addr size : Nat) (s : State) : State × Option Event :=
  if hostRefused s addr size then (answerHost (.error addr) s, none)
  else if (rangeGranules addr size).any fun a => s.hbmShut (.hbm a) then (s, some (.hostRead (.data addr) size))
  else (answerHost (.memory addr (s.hbmBytes addr size) ((rangeGranules addr size).map fun a => (s.granule (.hbm a)).sl)) s, none)

/-- The dispatcher is told that its ring may hold an entry. -/
def tellDispatcher (w : Who) (s : State) : State :=
  if s.pkg.dispatcher = some w then s.scheduleFree phaseAccess .dispatch else s

/-- The offset of the doubleword that rings. -/
def doorbellOff : Nat := 0x200

/-- A doorbell (R363): input 6 of a thread; what names no thread is discarded, with the error response. -/
def ringBell (tile slot : Nat) (s : State) : State :=
  let w : Who := ⟨tile, slot⟩
  if s.hole tile || 8 ≤ slot || (s.thread w).isNone then answerHost (.error doorbellOff) s else tellDispatcher w (setInput w 6 s)

/-- The bytes of a register of the package page, as a number. -/
def pageBytes (p : Pkg) (off size : Nat) : Word :=
  BitVec.ofNat 64 ((p.pageWord (off / 8 * 8)).toNat / 2 ^ (8 * (off % 8)) % 2 ^ (8 * size))

/-- An access of the control node performs as far as it can now; what is left of it goes on later. -/
def serveHost (e : Event) (s : State) : State × Option Event :=
  match e with
  | .hostWrite addr bytes => hostPiece addr bytes s
  | .hostRead (.data addr) size => hostFetch addr size s
  | .hostRead (.page off) size => (answerHost (.register off (pageBytes s.pkg off size)) s, none)
  | .hostDoorbell tile slot => (ringBell tile slot s, none)
  | _ => (s, none)

/-- An access's turn: what is left of it stays the first of those that wait (log 91). -/
def hostTurn (e : Event) (s : State) : State :=
  let (s, left) := serveHost e s
  let s : State := { s with hosts := left.toList ++ s.hosts }
  if s.hosts.isEmpty then s else s.scheduleFree phaseAccess .hostServe

/-- An access arrives at the port: it takes its turn, or waits behind those before it. -/
def hostArrive (e : Event) (s : State) : State := if s.hosts.isEmpty then hostTurn e s else { s with hosts := s.hosts ++ [e] }

/-- HOST_WRITE: one piece performs, and the rest follows before any later access of the control node. -/
def execHostWrite (addr : Nat) (bytes : List Byte) (s : State) : Result := .next (hostArrive (.hostWrite addr bytes) s)

/-- HOST_READ: of HBM, or of a register of the package page, which waits for no other access. -/
def execHostRead (place : HostPlace) (size : Nat) (s : State) : Result :=
  match place with
  | .data _ => .next (hostArrive (.hostRead place size) s)
  | .page _ => .next (serveHost (.hostRead place size) s).1

/-- HOST_DOORBELL: after every earlier host write has performed. -/
def execHostDoorbell (tile slot : Nat) (s : State) : Result := .next (hostArrive (.hostDoorbell tile slot) s)

/-- The port goes on with the first access that waits. -/
def execHostServe (s : State) : Result :=
  match s.hosts with
  | [] => .next s
  | e :: rest => .next (hostTurn e { s with hosts := rest })

/-! The job record (R365) -/

def Pkg.jobField (p : Pkg) (lo n : Nat) : Nat := (p.job.extractLsb' lo n).toNat
def Pkg.jobState (p : Pkg) : Nat := p.jobField 0 16

/-- The fields that firmware writes: go cleared, the reason and the state. -/
def Pkg.setJob (p : Pkg) (reason state : Nat) : Pkg :=
  { p with job := p.job &&& ~~~(0x8000000000FFFFFF : BitVec 512) ||| BitVec.ofNat 512 (reason * 65536 + state) }

/-- The granule that firmware reads at a virtual address of the job. -/
def State.jobGranule (s : State) (va : Nat) : Option Vec :=
  match walkFrom s (va % 2 ^ 44) 4 s.pkg.root with
  | .ok c =>
    if c.ok s then
      match sealCheck (s.granule (c.place (va % 2 ^ 44))) none with
      | .ok (d, _) => some d
      | .error _ => none
    else none
  | .error _ => none

/-- Bytes at a virtual address, from a granule boundary on. -/
def State.jobBytes (s : State) (va n : Nat) : Option (List Byte) :=
  let gs := (List.range ((n + 31) / 32)).map fun i => s.jobGranule (va + 32 * i)
  if gs.all Option.isSome then some ((gs.flatMap fun g => bytesOf 32 ((g.getD 0).toNat)).take n) else none

/-- The identifier of a key (R368). -/
def keyId (k : List Byte) : List Byte := (digest k).take 8

/-- The key of an entry of the list, if its signature verifies. -/
def listedKey (e : List Byte) : Option (List Byte) :=
  let k := e.take 1952
  if Config.mlDsaVerify (digest k) ((e.drop 1952).take 3309) Config.ownerKey then some k else none

/-- The keys that firmware accepts for the job (R370); none of them where the list is malformed. -/
def jobKeys (s : State) : List (List Byte) :=
  let va := s.pkg.jobField 376 56
  match s.jobBytes va 32 with
  | none => []
  | some h =>
    let n := natOf (h.take 8)
    if va % 32 ≠ 0 || n = 0 || 16 < n then []
    else
      match s.jobBytes va (32 + 5280 * n) with
      | none => []
      | some bs => (List.range n).filterMap fun k => listedKey ((bs.drop (32 + 5280 * k)).take 5280)

/-! Images (02 R59 to R66) -/

/-- A section of an image. -/
structure Section where
  ty : Nat
  offset : Nat
  size : Nat
  deriving DecidableEq, Repr

/-- The sections that the table names. -/
def sectionsOf (bs : List Byte) : List Section :=
  let h := natOf (bs.take 32)
  let n := h / 2 ^ 64 % 65536
  let off := h / 2 ^ 96 % 2 ^ 32
  (List.range n).map fun i =>
    let e := natOf ((bs.drop (off + 16 * i)).take 16)
    { ty := e % 65536, offset := e / 2 ^ 64 % 2 ^ 32, size := e / 2 ^ 96 }

/-- The limit of a section's type (R61). -/
def Section.fits (x : Section) : Bool :=
  match x.ty with
  | 1 => x.size ≤ 32768
  | 2 => x.size ≤ 8192
  | 3 => x.size ≤ 16384
  | 4 => x.size = 64
  | 5 => true
  | 6 => true
  | 7 => x.size = 64
  | 8 => x.size = 3317
  | _ => false

/-- The structure that R61 asks for. -/
def imageOk (bs : List Byte) (xs : List Section) : Bool :=
  let h := natOf (bs.take 32)
  let count (t : Nat) : Nat := (xs.filter (·.ty = t)).length
  h % 2 ^ 32 = 0x00584F58 && h / 2 ^ 32 % 65536 = 1 && 2 ≤ xs.length && xs.length ≤ 64 &&
    xs.all (fun x => x.fits && x.offset % 32 = 0 && x.offset + x.size ≤ bs.length) &&
    (xs.mapIdx fun i x => (i, x)).all (fun p => (xs.mapIdx fun i x => (i, x)).all fun q =>
      p.1 = q.1 || p.2.size = 0 || q.2.size = 0 || p.2.offset + p.2.size ≤ q.2.offset || q.2.offset + q.2.size ≤ p.2.offset) &&
    count 1 = 1 && count 3 ≤ 1 && count 4 ≤ 1 && count 6 = 1 && count 7 = 1 && count 8 = 1 &&
    xs.all fun x => x.ty = 8 || (match xs.find? (·.ty = 8) with
      | some g => x.offset ≤ g.offset
      | none => false)

/-- The bytes of a section, and the first section of a type. -/
def Section.bytes (bs : List Byte) (x : Section) : List Byte := (bs.drop x.offset).take x.size
def sectionBytes (bs : List Byte) (xs : List Section) (t : Nat) : List Byte :=
  match xs.find? (·.ty = t) with
  | some x => x.bytes bs
  | none => []

/-- A stream section's word. -/
def sectionWord (b : List Byte) (a : Nat) : BitVec 16 := BitVec.ofNat 16 (natOf ((b.drop (2 * a)).take 2))

/-- A bundle entry that R209 rejects on every present tile: which ports a tile has differs by tile (log 66). -/
def imageEntryBad (s : State) (e : Vec) : Bool :=
  (List.range 40960).all fun t => s.hole t || slotNames.any (slotBad (s.portOk t) e)

/-- The least width that spans n die columns. -/
def spanWidth (n : Nat) : Nat := if n ≤ 1 then 1 else 80 * (n - 2) + 2

/-- A rectangle of the module that spans a die rows and b die columns, no smaller than asked; the least one will do, since a larger one
contains it (R64). -/
def spansDies (p : Pkg) (a b height width : Nat) (holefree : Bool) : Bool :=
  let h := max height a
  let w := max width (spanWidth b)
  (List.range 128).any fun r => (List.range 320).any fun c =>
    r + h ≤ 128 && c + w ≤ 320 && (r + h - 1) / 64 - r / 64 + 1 = a && (c + w - 1) / 80 - c / 80 + 1 = b &&
      (!holefree || (List.range (h * w)).all fun i => !p.holes.contains (pkgTile (r + i / w) (c + i % w)))

/-- A rectangle of the module that meets the requirements (R64). -/
def rectangleOk (p : Pkg) (dies height width : Nat) (holefree : Bool) : Bool :=
  [1, 2].any fun a => [1, 2, 3, 4].any fun b => a * b = dies && spansDies p a b height width holefree

/-- The requirements record. -/
def requirementsOk (s : State) (n : Nat) : Bool :=
  let field (lo w : Nat) : Nat := n / 2 ^ lo % 2 ^ w
  field 64 64 ≤ reserveBase - s.pkg.allocated && field 56 8 ≤ s.pkg.gsize &&
    field 48 8 ≤ ((s.pkg.ports.toList.take 24).filter (·.state = 3)).length &&
    rectangleOk s.pkg (field 40 8) (field 0 16) (field 16 16) (field 32 1 = 1)

/-- Why an image is refused, 0 where it is not (R66 step 1). Where several checks fail the one reported is the model's choice: no
key, structure, signature, streams, requirements, entries, in this order (log 87). -/
def imageReason (s : State) (keys : List (List Byte)) (bs : List Byte) (xs : List Section) : Nat :=
  if keys.isEmpty then 2
  else if !imageOk bs xs then 3
  else
    let sig := sectionBytes bs xs 8
    match keys.find? fun k => keyId k = sig.take 8 with
    | none => 2
    | some k =>
      let signed := bs.take (((xs.find? (·.ty = 8)).map (·.offset)).getD 0)
      if !Config.mlDsaVerify (digest signed) (sig.drop 8) k then 1
      else if xs.any fun x => x.ty = 2 && (halfFault (sectionWord (x.bytes bs))).isSome then 3
      else if !requirementsOk s (natOf (sectionBytes bs xs 7)) then 4
      else if (granulesOfBytes (sectionBytes bs xs 3)).any (imageEntryBad s) then 5
      else 0

/-- One record of the pool filled: its range is allocated, and its initial image copied (R63, R65). None where the record is
refused or no room is left. What the manual does not say of the other fields' values is the model's choice (log 87): the bytes past
an initial image are zero, an image longer than its range or past the section is copied as far as it goes, and no align is refused. -/
def fillRecord (img : Nat) (pool : Section) (bs : List Byte) (k : Nat) (s : State) : Except Nat State :=
  let r : Vec := BitVec.ofNat 256 (natOf ((bs.drop (pool.offset + 32 * k)).take 32))
  let reloc := (r.extractLsb' 128 8).toNat
  if reloc = 0 then .ok s
  else if 2 < reloc then .error 3
  else
    let size := ((r.extractLsb' 64 64).toNat + 32) / 32 * 32
    match allocate size (2 ^ max 5 (r.extractLsb' 144 8).toNat) s with
    | none => .error 6
    | some (a, s) =>
      let s := zeroRange a size s
      let src := (bs.drop (pool.offset + (r.extractLsb' 192 32).toNat)).take (r.extractLsb' 224 32).toNat
      let s := if reloc = 2 then writeRun a (granulesOfBytes src) s else s
      .ok (updateWord none (.hbm (img + pool.offset + 32 * k)) (fun _ => s.pkg.rank * 2 ^ 44 + a) s)

/-- The records of a pool: they end where its first initial image begins (log 67). -/
def recordCount (pool : List Byte) : Nat → Nat → Nat → Nat
  | 0, k, _ => k
  | n + 1, k, stop =>
    if stop < 32 * (k + 1) then k
    else
      let r : Vec := BitVec.ofNat 256 (natOf ((pool.drop (32 * k)).take 32))
      let ioff := (r.extractLsb' 192 32).toNat
      recordCount pool n (k + 1) (if r.extractLsb' 224 32 ≠ 0 then min stop ioff else stop)

def fillRecords (img : Nat) (pool : Section) (bs : List Byte) : List Nat → State → Except Nat State
  | [], s => .ok s
  | k :: rest, s =>
    match fillRecord img pool bs k s with
    | .error n => .error n
    | .ok s => fillRecords img pool bs rest s

/-- The code and the patterns of an image placed in every present tile (R66 steps 3 and 4); a pattern is placed as it stands, also where
01 R21 does not hold of it (log 87). -/
def placeCode (code pats : List Byte) (s : State) : State :=
  let store : Memory := (code.mapIdx fun i b => (i, b)).foldl (fun m p => m.write p.1 p.2) []
  let upat : Vector Word 8 := Vector.ofFn fun i : Fin 8 => BitVec.ofNat 64 (natOf ((pats.drop (8 * i)).take 8))
  (List.range 40960).foldl (fun s t => if s.hole t then s else s.modTile t fun t => { t with istore := store, upat := upat }) s

/-- The image loaded, or the reason why it is refused. An image whose place or size cannot be is refused for its structure, and its
bytes are read as they are, without a check of their seals (log 87). -/
def loadImage (s : State) : Except Nat State :=
  let img := s.pkg.jobField 320 56
  let size := natOf (s.hbmBytes (img + 16) 8)
  if s.pkg.keys.isEmpty then .error 2
  else if hbmSize < img + size || size < 32 || img % 32 ≠ 0 then .error 3
  else
    let bs := s.hbmBytes img size
    let xs := sectionsOf bs
    match imageReason s s.pkg.keys bs xs with
    | 0 =>
      match xs.find? (·.ty = 6) with
      | none => .error 3
      | some pool =>
        let n := recordCount (pool.bytes bs) (pool.size / 32) 0 pool.size
        match fillRecords img pool bs (List.range n) s with
        | .error n => .error n
        | .ok s => .ok (placeCode (sectionBytes bs xs 1) (sectionBytes bs xs 4) s)
    | n => .error n

/-- The rings, the dump areas and the rank table as a job finds them (R308, R341, R352, R384). -/
def zeroRings (s : State) : State :=
  (List.range 8).foldl (fun s d =>
    let s := (zeroRange (logBase d) 0x400000 s).setGranule (.hbm (logBase d)) (sealed (0#128 ++ BitVec.ofNat 64 logSize ++ 0#64) 0)
    let s := s.setGranule (.hbm (traceBase d)) (sealed (0#128 ++ BitVec.ofNat 64 traceSize ++ 0#64) 0)
    dumpHeader d 32 0 0 (zeroRange (dumpBase d) dumpSize s)) (zeroRange (rankAddr 0) 0x40000 s)

/-- Steps 2 to 5. -/
def startJob (s : State) : State :=
  let s := zeroRings (clearTiles 0 40960 s)
  let p := s.pkg
  let s : State := { s with
    pkg := { p with rank := p.jobField 112 12, root := p.jobField 64 48, regions := 0, tokens := [], aborted := [], moved := [], allocated := 0 }
    clusters := s.clusters.map fun c => (c.1, { c.2 with cache := [], logged := 0 }) }
  publishNow s

/-- The dispatcher's thread started in its slot, in kernel mode (R367); its entry and its window are the model's choice (log 93). -/
def startDispatcher (s : State) : State :=
  let w : Who := ⟨s.pkg.jobField 304 16, s.pkg.jobField 301 3⟩
  let (n, s) := s.fresh
  let s := s.modSlot w fun sl => { sl with thread := some (Thread.born n 0 1 48) }
  { s with pkg := { s.pkg with dispatcher := some w, serving := none, retry := false } }.scheduleFree phaseAccess .dispatch

/-- JOB_RECORD_TAKE: firmware takes the record once the package accepts jobs. -/
def execJobRecordTake (s : State) : Result :=
  if !s.pkg.job.getLsbD 63 || s.pkg.jobState = 1 || s.pkg.jobState = 2 || s.pkg.jobState = 4 then .next s
  else if !s.pkg.ready.getLsbD 31 then
    .next (if s.pkg.failed &&& (dieBits ||| stackBits) ≠ 0 then s else s.scheduleFree phaseAccess .jobRecordTake)
  else
    let s := startJob s
    let keys := jobKeys s
    let s : State := { s with pkg := { s.pkg with keys := keys } }
    match loadImage s with
    | .error n => .next { s with pkg := { s.pkg with keys := [] }.setJob n 3 }
    | .ok s => .next (startDispatcher { s with pkg := s.pkg.setJob 0 2 })

/-! The dispatcher (R367) -/

/-- The place of an address of the dispatch ring. -/
def ringPlace (s : State) (va : Nat) : Option Loc :=
  match walkFrom s (va % 2 ^ 44) 4 s.pkg.root with
  | .ok c => if c.ok s then some (c.place (va % 2 ^ 44)) else none
  | .error _ => none

/-- A doubleword of the ring. -/
def ringWord (s : State) (va : Nat) : Nat :=
  match ringPlace s va with
  | some loc => s.mem.readN loc.addr 8
  | none => 0

/-- A doubleword of the ring written. -/
def setRingWord (va v : Nat) (s : State) : State :=
  match ringPlace s va with
  | some loc => updateWord none loc (fun _ => v) s
  | none => s

def Pkg.ring (p : Pkg) : Nat := p.jobField 456 56
/-- Entry n of the ring. -/
def Pkg.ringEntry (p : Pkg) (n : Nat) : Nat := p.ring + 128 * (1 + n % max 1 (p.jobField 432 24))

/-- An entry is done: its status, and the tail. -/
def endEntry (status : Nat) (s : State) : State :=
  let tail := ringWord s (s.pkg.ring + 8)
  let s := setRingWord (s.pkg.ringEntry tail + 72) status s
  let s := setRingWord (s.pkg.ring + 8) (tail + 1) s
  { s with pkg := { s.pkg with serving := none } }.scheduleFree phaseAccess .dispatch

/-- The status of a LAUNCH that trapped. -/
def trapStatus (tr : Trap) : Nat := 2 ^ 63 + 2 ^ 62 + tr.sub.toNat * 65536 + tr.code.toNat * 256 + 0xFF

/-- The dispatcher issues a LAUNCH of an entry, into x1 (log 93). -/
def beginEntry (w : Who) (t : Thread) (s : State) : State :=
  let tail := ringWord s (s.pkg.ring + 8)
  let va := s.pkg.rank * 2 ^ 44 + s.pkg.ringEntry tail % 2 ^ 44
  let (tok, s) := s.fresh
  let (id, s) := s.fresh
  let s := s.setThread w { t with
    outst := [{ tok := tok, pc := 0, fin := .reply, lands := s.cycle, dests := [destX 1] }], faults := [], entering := none, taken := none
    status := { t.status with inh := false } }
  let value := (opts32 false (.launch false 1 Config.dispatchReg Config.dispatchSeg)).value
  let a : Access :=
    { id := id, who := w, thread := t.serial, key := .virt va, size := 64, kind := .launch tok 1 value, stage := 1, mode := 1 }
  ({ s with accs := s.accs ++ [a], pkg := { s.pkg with serving := some tok } }.scheduleFree phaseAccess (.portAccess id)).schedule
    (s.cycle + 1) phaseAccess .dispatch

/-- The dispatcher goes on: it serves its entries in order, and retries one that met a busy tile or a conflicting ratio. -/
def execDispatch (s : State) : Result :=
  match s.pkg.dispatcher with
  | none => .next s
  | some w =>
    match s.thread w with
    | none => .next s
    | some t =>
      match s.pkg.serving with
      | some _ =>
        if !t.outst.isEmpty then .next (s.schedule (s.cycle + 1) phaseAccess .dispatch)
        else
          match t.taken with
          | some tr =>
            let tail := ringWord s (s.pkg.ring + 8)
            .next (endEntry (trapStatus tr) (setRingWord (s.pkg.ringEntry tail + 80) tr.info.toNat s))
          | none =>
            let status := (t.getX 1).toNat
            if status = 0 || status = 2 then .next (endEntry (2 ^ 63 + status) s)
            else .next { s with pkg := { s.pkg with serving := none, retry := true } }
      | none =>
        if s.pkg.retry || ringWord s s.pkg.ring ≤ ringWord s (s.pkg.ring + 8) then .next s else .next (beginEntry w t s)

/-! Host commands (R366) -/

/-- A command is over: 0 done, 1 refused, 2 failed. -/
def endCommand (result : Nat) (s : State) : State :=
  let c := s.pkg.command
  { s with pkg := { s.pkg with
    cmdBusy := false, cmdStatus := c.extractLsb' 32 32 ++ 0#16 ++ c.extractLsb' 0 8 ++ BitVec.ofNat 8 result } }

def Pkg.cmd (p : Pkg) : Nat := (p.command.extractLsb' 0 8).toNat
def Pkg.cmdArg (p : Pkg) : Nat := (p.command.extractLsb' 8 8).toNat

/-- A command that firmware refuses. -/
def commandRefused (s : State) : Bool :=
  let p := s.pkg
  let running := s.regions.any (·.2.started)
  p.command.extractLsb' 16 16 ≠ 0 ||
    match p.cmd with
    | 1 => p.jobState ≠ 2 || p.cmdArg ≠ 0
    | 2 => running || 24 ≤ p.cmdArg
    | 3 => running || p.jobState ≠ 2 || p.cmdArg ≠ 0
    | 4 => running || p.jobState ≠ 2 || p.cmdArg ≠ 0
    | _ => true

/-- A command begins. -/
def startCommand (s : State) : State :=
  if commandRefused s then endCommand 1 s
  else
    let s : State := { s with pkg := { s.pkg with cmdBusy := true } }
    match s.pkg.cmd with
    | 1 =>
      let s : State := { s with pkg := { s.pkg with job := (s.pkg.setJob (s.pkg.jobField 16 8) 4).job } }
      s.scheduleFree phaseAccess .endJob
    | 2 =>
      let i := s.pkg.cmdArg
      { s with pkg := { s.pkg with ports := s.pkg.ports.setIfInBounds i { (s.pkg.ports[i]?.getD {}) with state := 2 } } }
    | 4 => s.scheduleFree phaseAccess .leaveGroup
    | _ => s

/-- The dispatcher stopped, and every launch abandoned with class 4. -/
def stopJob (s : State) : State :=
  let s := match s.pkg.dispatcher with
    | some w => { s.modSlot w fun sl => { sl with thread := none } with accs := s.accs.filter (·.who ≠ w) }
    | none => s
  let s : State := { s with pkg := { s.pkg with dispatcher := none, serving := none, retry := false } }
  let s := s.regions.foldl (fun s r => fatalRegion r.1 s) s
  s.launches.foldl (fun s l => if l.2.abandoned then s else s.schedule s.cycle phaseAccess (.launchAbandon l.1 4)) s

/-- END_JOB: the job is over once every launch, dump and engine operation is. -/
def execEndJob (s : State) : Result :=
  if s.pkg.jobState ≠ 4 then .next s
  else
    let s := stopJob s
    if s.launches.isEmpty && s.dies.all (fun d => d.2.dumps.isEmpty) && s.clusters.all fun c => c.2.engine.isEmpty then
      .next (endCommand 0 { s with pkg := { s.pkg with keys := [] }.setJob (s.pkg.jobField 16 8) 5 })
    else .next (s.schedule (s.cycle + 1) phaseAccess .endJob)

/-- A host command ends once the map has been published (log 92). -/
def endPublished (result : Nat) (s : State) : State := publishMap { s with pkg := { s.pkg with ending := some result } }

/-- The end of a publication (R290), steps 3 and 4, and of the command that asked for it. -/
def execMapPublished (s : State) : Result :=
  let s := if s.mapChange.getLsbD 0 then publishNow s else s
  match s.pkg.ending with
  | some n => .next (endCommand n { s with pkg := { s.pkg with ending := none } })
  | none => .next s

/-- TRAIN_PORT: training ends with a latency, or fails (16 R375). -/
def execTrainPort (p : Nat) (trained : Option Nat) (s : State) : Result :=
  if !s.pkg.cmdBusy || s.pkg.ending.isSome || s.pkg.cmd ≠ 2 || s.pkg.cmdArg ≠ p then .next s
  else
    let old := s.pkg.ports[p]?.getD {}
    let port := match trained with
      | some n => { old with state := 3, latency := n }
      | none => { old with state := 1 }
    .next (endPublished (if trained.isSome then 0 else 2) { s with pkg := { s.pkg with ports := s.pkg.ports.setIfInBounds p port } })

/-- The group's size and this package's place in its table; none where the table is not one of R366. -/
def groupPlace (p : Pkg) : Option (Nat × Nat) :=
  let entry (i : Nat) : Nat := (p.gtable.extractLsb' (16 * i) 16).toNat
  let used := (List.range 64).filter fun i => entry i ≠ 0xFFFF
  let mine := used.filter fun i => entry i = p.rank
  match mine with
  | [i] => if used = List.range used.length then some (used.length, i) else none
  | _ => none

/-- The largest class 0 latency from a tile of this package to one of its timed link ports: this member's part of M (16 R379). -/
def linkDistance (s : State) : Nat :=
  let ports := (s.pkg.ports.toList.take 24).filter (·.state ≠ 0)
  let from_ := (List.range 2560).filter fun c => (List.range 16).any fun t => !s.hole (clusterTile c t)
  (from_.flatMap fun c => ports.map fun p => pairLatency s c (clusterOf p.tile)).foldl max 0

/-- S over the members: their largest tdepth, and their largest distance from a tile to a timed link port (R379). -/
def groupStall (s : State) (others : GroupSpan) (tdepth : Nat) : Nat :=
  2 + 2 * max others.deepest tdepth + 2 * max others.farthest (linkDistance s)

/-- FORM_GROUP: the group is formed over its token tree, with one group time in every member (16 R377 to R379); what the other members
bring to it is given. -/
def execFormGroup (reached : Bool) (others : GroupSpan) (tdepth tparent tchild : Nat) (s : State) : Result :=
  if !s.pkg.cmdBusy || s.pkg.ending.isSome || s.pkg.cmd ≠ 3 then .next s
  else
    match (if reached then groupPlace s.pkg else none) with
    | none => .next (endCommand 2 s)
    | some (size, index) =>
      let depth := if index = 0 then 0 else tdepth
      let (n, s) := s.drawLatency
      let s : State := { s with pkg := { s.pkg with
        gsize := size, gindex := index, gformed := s.pkg.gtable, sgroup := groupStall s others depth, tdepth := depth
        tparent := if index = 0 then 0xFFFF else tparent, tchild := BitVec.ofNat 24 tchild, gtime := n, tokens := [], aborted := []
        wanted := [] } }
      .next (publishAlignment (endPublished 0 s))

/-- LEAVE_GROUP. -/
def execLeaveGroup (s : State) : Result :=
  if !s.pkg.cmdBusy || s.pkg.ending.isSome || s.pkg.cmd ≠ 4 then .next s
  else
    let s : State := { s with pkg := { s.pkg with
      gsize := 1, gindex := 0, gformed := ones 1024, sgroup := 0, tdepth := 0, tparent := 0xFFFF, tchild := 0, tokens := [], aborted := []
      wanted := [] } }
    .next (publishAlignment (endPublished 0 s))

/-! The package page's registers (R359) -/

/-- The bits of the job record that are fields of the control node's: the others are firmware's, or read as zero (00 R9). -/
def jobFields : BitVec 512 := ones 211 ++ 0#177 ++ ones 61 ++ 0#63

/-- The word of the job record at an offset, with firmware's fields kept. -/
def setJobWord (p : Pkg) (off : Nat) (v : Word) : Pkg :=
  let i := (off - 0x100) * 8
  let mine : BitVec 512 := (ones 64).setWidth 512 <<< i &&& jobFields
  { p with job := p.job &&& ~~~mine ||| (v.setWidth 512 <<< i &&& mine) }

/-- PACKAGE_PAGE_WRITE: a doubleword that the control node writes. -/
def execPackagePageWrite (off : Nat) (value : Word) (s : State) : Result :=
  let p := s.pkg
  let put (p : Pkg) : State := { s with pkg := p }
  if off % 8 ≠ 0 then .next s
  else if 0x100 ≤ off && off < 0x140 then
    if p.jobState = 1 || p.jobState = 2 || p.jobState = 4 then .next s
    else
      let s := put (setJobWord p off value)
      .next (if off = 0x100 && value.getLsbD 63 then s.scheduleFree phaseAccess .jobRecordTake else s)
  else if off = 0x200 then
    .next (hostArrive (.hostDoorbell (value.extractLsb' 0 16).toNat (value.extractLsb' 16 3).toNat) s)
  else if off = 0x300 then
    if p.cmdBusy || !p.ready.getLsbD 0 then .next s else .next (startCommand (put { p with command := value }))
  else if 0x320 ≤ off && off < 0x3A0 then
    let i := (off - 0x320) * 8
    .next (put { p with gtable := p.gtable &&& ~~~((ones 64).setWidth 1024 <<< i) ||| value.setWidth 1024 <<< i })
  else if 0x400 ≤ off && off < 0x420 then
    let i := (off - 0x400) * 8
    .next (put { p with nonce := p.nonce &&& ~~~((ones 64).setWidth 256 <<< i) ||| value.setWidth 256 <<< i })
  else if off = 0x420 then .next (put { p with buffer := value })
  else if off = 0x5F8 then
    if p.attesting || !p.ready.getLsbD 32 then .next s
    else if value = 1 then .next ((put { p with mailStatus := 1, attesting := true }).scheduleFree phaseAccess .attestReport)
    else if value = 3 then .next ((put { p with mailStatus := 3, attesting := true }).scheduleFree phaseAccess .attestCertificate)
    else .next s
  else .next s

/-! Attestation (R371, R372) -/

/-- An output buffer that the unit refuses. -/
def bufferRefused (s : State) : Bool :=
  let a := s.pkg.buffer.toNat
  a % 4096 ≠ 0 || reserveBase < a + 8192 || (List.range 32).any fun i => !s.stackReady (a + 256 * i)

/-- A request ends: its output is in the buffer, or it is refused. -/
def answerMail (bs : List Byte) (length : Nat) (s : State) : State :=
  if bufferRefused s then { s with pkg := { s.pkg with mailStatus := 4, attesting := false } }
  else
    let s := writeRun s.pkg.buffer.toNat (granulesOfBytes bs) s
    { s with pkg := { s.pkg with mailStatus := 2, outLen := BitVec.ofNat 64 length, attesting := false } }

/-- The identity's public key, as the certificate holds it. -/
def identityKey : List Byte := (List.range 1952).map fun i => Config.certificateByte (8 + i)

/-- The report (R371). -/
def reportBytes (s : State) : List Byte :=
  let keys := if s.pkg.keys.isEmpty then List.replicate 64 0 else digest s.pkg.keys.flatten
  let body := bytesOf 32 s.pkg.nonce.toNat ++ digest s.pkg.firmware ++ bytesOf 8 s.pkg.secver.toNat ++ bytesOf 8 s.mapChange.toNat ++
    bytesOf 8 s.pkg.ready.toNat ++ keyId identityKey ++ keys
  body ++ bytesOf 8 3309 ++ (Config.mlDsaSign (digest body) ++ List.replicate 3309 0).take 3309

/-- ATTEST_REPORT. -/
def execAttestReport (s : State) : Result :=
  if !s.pkg.attesting || s.pkg.mailStatus ≠ 1 then .next s
  else .next (answerMail ((reportBytes s ++ List.replicate 3520 0).take 3520) 3509 s)

/-- ATTEST_CERTIFICATE. -/
def execAttestCertificate (s : State) : Result :=
  if !s.pkg.attesting || s.pkg.mailStatus ≠ 3 then .next s
  else
    let bs := bytesOf 8 5285 ++ ((List.range 5277).map fun i => Config.certificateByte (8 + i)) ++ List.replicate 27 0
    .next (answerMail bs 5285 s)

/-! Power, cooling and failures (R355, R373, 16 R383) -/

/-- What the controller wants of m at a power in milliwatts. -/
def wantedM (m milliwatts : Nat) : Nat :=
  if 4400000 < milliwatts then (if 16 < m then m - 1 else m) else if milliwatts < 4200000 && m < 32 then m + 1 else m

/-- POWER_SAMPLE: m changes by one; in a group, index 0 decides, and a member that stays above its power becomes device fatal. -/
def execPowerSample (milliwatts : Nat) (s : State) : Result :=
  let m := wantedM s.pkg.m milliwatts
  if s.pkg.gsize ≤ 1 then .next (if m = s.pkg.m then s else changeClock m s)
  else if s.pkg.m = 16 && 4400000 < milliwatts then .next (deviceFatal 0 0 s)
  else .next (if s.pkg.gindex = 0 then wants 0 m s else s)

/-- CLOCK_STOP_END: cycles go on. -/
def execClockStopEnd (s : State) : Result := .next { s with pkg := { s.pkg with stopped := false } }

/-- COOLANT_TEMPERATURE_LIMIT: with m = 16 the package becomes device fatal. -/
def execCoolantTemperatureLimit (s : State) : Result :=
  if s.pkg.m ≠ 16 then .next s else .next (deviceFatal 0 0 { s with pkg := { s.pkg with thermal := true } })

/-- A timed link port that goes down, and the map published without it. -/
def portDown (p : Nat) (s : State) : State :=
  let port := s.pkg.ports[p]?.getD {}
  if port.state = 0 then s
  else publishMap { s with pkg := { s.pkg with ports := s.pkg.ports.setIfInBounds p { port with state := 1 } } }

/-- PORT_LOSS_OF_LOCK (16 R375): granules in flight on the port are those that never arrive. -/
def execPortLossOfLock (p : Nat) (s : State) : Result := .next (portDown p s)

/-- LANE_FAILURE: it takes its crossing, pseudo-channel or port down; the map's edge table stays as boot has fixed it (11 R290). -/
def execLaneFailure (l : LaneOf) (s : State) : Result :=
  match l with
  | .crossing c h =>
    let back := match neighbour c (BitVec.ofNat 2 h) with
      | some d => [(d, 3 - h)]
      | none => []
    .next { s with pkg := { s.pkg with severed := s.pkg.severed ++ [(c, h)] ++ back } }
  | .channel pc => .next { s with pkg := { s.pkg with dead := s.pkg.dead ++ [pc] } }
  | .port p => .next (portDown p s)

end Sys2Proof.Machine
end

