-- ==== Sys2Proof/Machine/Scalar.lean ====
section
/-! DEFINITION. Integer arithmetic, bit operations, index decomposition, the 64-bit scalar forms, LI and LIU (04 R86 to R92,
02 R48). -/

namespace Sys2Proof.Machine

/-! The operations -/

/-- 1 or 0 (R86). -/
def ofBool64 (b : Bool) : Word := if b then 1 else 0

def aluAdd (a b : Word) : Word := a + b
def aluSub (a b : Word) : Word := a - b
def aluAnd (a b : Word) : Word := a &&& b
def aluOr (a b : Word) : Word := a ||| b
def aluXor (a b : Word) : Word := a ^^^ b
def aluAndn (a b : Word) : Word := a &&& ~~~b
def aluSll (a b : Word) : Word := a <<< (b.toNat % 64)
def aluSrl (a b : Word) : Word := a >>> (b.toNat % 64)
def aluSra (a b : Word) : Word := a.sshiftRight (b.toNat % 64)
def aluSlt (a b : Word) : Word := ofBool64 (a.slt b)
def aluSltc (a b : Word) : Word := ofBool64 (a.ult b)
def aluMin (a b : Word) : Word := if b.slt a then b else a
def aluMax (a b : Word) : Word := if a.slt b then b else a
def aluMinc (a b : Word) : Word := if b.ult a then b else a
def aluMaxc (a b : Word) : Word := if a.ult b then b else a

def mulLow (a b : Word) : Word := a * b
/-- Bits 127 to 64 of the signed product (R88). -/
def mulHigh (a b : Word) : Word := BitVec.ofInt 64 (a.toInt * b.toInt / 2 ^ 64)
/-- Bits 127 to 64 of the unsigned product. -/
def mulHighC (a b : Word) : Word := BitVec.ofNat 64 (a.toNat * b.toNat / 2 ^ 64)
/-- Signed division with its border results (R88). -/
def divS (a b : Word) : Word := if b = 0 then ones 64 else BitVec.ofInt 64 (a.toInt.tdiv b.toInt)
def divC (a b : Word) : Word := if b = 0 then ones 64 else BitVec.ofNat 64 (a.toNat / b.toNat)
def remS (a b : Word) : Word := if b = 0 then a else BitVec.ofInt 64 (a.toInt.tmod b.toInt)
def remC (a b : Word) : Word := if b = 0 then a else BitVec.ofNat 64 (a.toNat % b.toNat)

/-- How many of a word's low n bits are zero from bit 0 up. -/
def trailing (a : Nat) : Nat → Nat
  | 0 => 0
  | n + 1 => if a % 2 = 1 then 0 else 1 + trailing (a / 2) n

/-- How many bits are set among the low n. -/
def population (a : Nat) : Nat → Nat
  | 0 => 0
  | n + 1 => a % 2 + population (a / 2) n

def bitClz (a : Word) : Word := BitVec.ofNat 64 (trailing a.reverse.toNat 64)
def bitCtz (a : Word) : Word := BitVec.ofNat 64 (trailing a.toNat 64)
def bitCnt (a : Word) : Word := BitVec.ofNat 64 (population a.toNat 64)
/-- The eight bytes in reverse order. -/
def bitRev8 (a : Word) : Word :=
  a.extractLsb' 0 8 ++ a.extractLsb' 8 8 ++ a.extractLsb' 16 8 ++ a.extractLsb' 24 8 ++ a.extractLsb' 32 8 ++
    a.extractLsb' 40 8 ++ a.extractLsb' 48 8 ++ a.extractLsb' 56 8

/-- A field descriptor's position and width, cut short at bit 63 (R89). -/
def fieldPos (b : Word) : Nat := (b.extractLsb' 0 6).toNat
def fieldWidth (b : Word) : Nat := min ((b.extractLsb' 8 6).toNat + 1) (64 - fieldPos b)

def bitBextc (a b : Word) : Word := BitVec.ofNat 64 (a.toNat / 2 ^ fieldPos b % 2 ^ fieldWidth b)
def bitBext (a b : Word) : Word := (BitVec.ofNat (fieldWidth b) (a.toNat / 2 ^ fieldPos b)).signExtend 64
def bitBins (d a b : Word) : Word :=
  let mask : Word := BitVec.ofNat 64 ((2 ^ fieldWidth b - 1) * 2 ^ fieldPos b)
  (d &&& ~~~mask) ||| ((a <<< fieldPos b) &&& mask)

/-! Short scalar instructions -/

/-- An instruction that computes x[d] from its thread's registers and does nothing else. -/
def shortX (w : Bool) (d : Reg) (value : Thread → Word) (s : State) : Result :=
  issue { w := w } noChecks (fun _ => modT fun t => t.setX d (value t)) s

/-- The register form (R86). -/
def aluOp (op : Word → Word → Word) (f : AForm) (s : State) : Result :=
  shortX f.w f.d (fun t => op (t.getX f.a) (t.getX f.b)) s

/-- The immediate form: imm13 sign-extended (R87). -/
def aluImm (op : Word → Word → Word) (f : IForm) (s : State) : Result :=
  shortX f.w f.d (fun t => op (t.getX f.a) (f.imm.signExtend 64)) s

def execAdd (f : AForm) (s : State) : Result := aluOp aluAdd f s
def execSub (f : AForm) (s : State) : Result := aluOp aluSub f s
def execAnd (f : AForm) (s : State) : Result := aluOp aluAnd f s
def execOr (f : AForm) (s : State) : Result := aluOp aluOr f s
def execXor (f : AForm) (s : State) : Result := aluOp aluXor f s
def execAndn (f : AForm) (s : State) : Result := aluOp aluAndn f s
def execSll (f : AForm) (s : State) : Result := aluOp aluSll f s
def execSrl (f : AForm) (s : State) : Result := aluOp aluSrl f s
def execSra (f : AForm) (s : State) : Result := aluOp aluSra f s
def execSlt (f : AForm) (s : State) : Result := aluOp aluSlt f s
def execSltc (f : AForm) (s : State) : Result := aluOp aluSltc f s
def execMin (f : AForm) (s : State) : Result := aluOp aluMin f s
def execMax (f : AForm) (s : State) : Result := aluOp aluMax f s
def execMinc (f : AForm) (s : State) : Result := aluOp aluMinc f s
def execMaxc (f : AForm) (s : State) : Result := aluOp aluMaxc f s
def execMul (f : AForm) (s : State) : Result := aluOp mulLow f s
def execMulh (f : AForm) (s : State) : Result := aluOp mulHigh f s
def execMulhc (f : AForm) (s : State) : Result := aluOp mulHighC f s
def execClz (w : Bool) (d a : Reg) (s : State) : Result := shortX w d (fun t => bitClz (t.getX a)) s
def execCtz (w : Bool) (d a : Reg) (s : State) : Result := shortX w d (fun t => bitCtz (t.getX a)) s
def execCntb (w : Bool) (d a : Reg) (s : State) : Result := shortX w d (fun t => bitCnt (t.getX a)) s
def execRev8 (w : Bool) (d a : Reg) (s : State) : Result := shortX w d (fun t => bitRev8 (t.getX a)) s
def execBext (f : AForm) (s : State) : Result := aluOp bitBext f s
def execBextc (f : AForm) (s : State) : Result := aluOp bitBextc f s
/-- BINS reads x[d] as its third input (R89). -/
def execBins (f : AForm) (s : State) : Result :=
  shortX f.w f.d (fun t => bitBins (t.getX f.d) (t.getX f.a) (t.getX f.b)) s
def execAddi (f : IForm) (s : State) : Result := aluImm aluAdd f s
def execAndi (f : IForm) (s : State) : Result := aluImm aluAnd f s
def execOri (f : IForm) (s : State) : Result := aluImm aluOr f s
def execXori (f : IForm) (s : State) : Result := aluImm aluXor f s
def execSlli (w : Bool) (d a : Reg) (n : BitVec 6) (s : State) : Result := shortX w d (fun t => t.getX a <<< n.toNat) s
def execSrli (w : Bool) (d a : Reg) (n : BitVec 6) (s : State) : Result := shortX w d (fun t => t.getX a >>> n.toNat) s
def execSrai (w : Bool) (d a : Reg) (n : BitVec 6) (s : State) : Result :=
  shortX w d (fun t => (t.getX a).sshiftRight n.toNat) s
def execSlti (f : IForm) (s : State) : Result := aluImm aluSlt f s
def execSltci (f : IForm) (s : State) : Result := aluImm aluSltc f s
def execMuli (f : IForm) (s : State) : Result := aluImm mulLow f s

/-! Division (R88) -/

/-- A long scalar instruction of a fixed latency whose value its sources at issue give. -/
def longX (w : Bool) (d : Reg) (latency : Nat) (value : Thread → Word) (s : State) : Result :=
  issue { w := w, long := true } noChecks (fun pc => do
    let t ← getT
    longResult pc latency [destX d] [.x d (value t)]) s

/-- Division lands exactly 34 cycles after issue. -/
def divOp (op : Word → Word → Word) (f : AForm) (s : State) : Result :=
  longX f.w f.d 34 (fun t => op (t.getX f.a) (t.getX f.b)) s

def execDiv (f : AForm) (s : State) : Result := divOp divS f s
def execDivc (f : AForm) (s : State) : Result := divOp divC f s
def execRem (f : AForm) (s : State) : Result := divOp remS f s
def execRemc (f : AForm) (s : State) : Result := divOp remC f s

/-! Index decomposition (R91, R92) -/

/-- The four extents that SHAPEW writes. -/
def extents (a b : Word) : Vector (BitVec 32) 4 :=
  #v[a.extractLsb' 0 32, a.extractLsb' 32 32, b.extractLsb' 0 32, b.extractLsb' 32 32]

/-- SHAPEW (R91). -/
def execShapew (w : Bool) (entry : BitVec 3) (a b : Reg) (s : State) : Result :=
  let o := opts32 w (.shapew w entry a b)
  issue o noChecks (fun _ => do
    let t ← getT
    let e := extents (t.getX a) (t.getX b)
    needOk o (e.toList.all (· ≠ 0))
    modT fun t => { t with shape := t.shape.setIfInBounds entry.toNat e }) s

/-- The coordinates of an index: c - 1 remainders and the last quotient (R92). -/
def coordinates (q : Nat) : List Nat → List Nat
  | [] => [q]
  | e :: rest => q % e :: coordinates (q / e) rest

/-- The count's extents of an entry. -/
def Thread.extentsOf (t : Thread) (entry count : Nat) : List Nat :=
  ((t.shape[entry]?.getD (Vector.replicate 4 1)).toList.map (·.toNat)).take (count - 1)

/-- DECOMP (R92). -/
def execDecomp (f : VForm) (s : State) : Result :=
  let o := opts64 f.w (.decomp f)
  let entry := (f.imm.extractLsb' 0 3).toNat
  let count := (f.imm.extractLsb' 3 3).toNat
  issue o
    (do
      needOperand o [.x] f.d 0
      needOperand o [.x] f.a 0
      needOk o ((xReg f.d).toNat + count ≤ 32))
    (fun _ => modT fun t =>
      let q := (t.getX (xReg f.a)).toNat % 2 ^ 40
      ((coordinates q (t.extentsOf entry count)).mapIdx fun i v => (i, v)).foldl
        (fun t (p : Nat × Nat) => t.setX (BitVec.ofNat 5 ((xReg f.d).toNat + p.1)) (BitVec.ofNat 64 p.2)) t) s

/-! The 64-bit scalar forms (R90) -/

/-- The kinds a scalar operand of major 0x63 may have. -/
def scalarSrc : List Kind := [.x, .q, .s]
def scalarDst : List Kind := [.x, .q, .s, .n]

/-- An operation of R86 on operands named by 9-bit codes (R90). -/
def scalar64 (op : Word → Word → Word) (i : VForm → Instr) (f : VForm) (s : State) : Result :=
  let o := { opts64 f.w (i f) with long := slowSource f.a || slowSource f.b, commits := commitsBy f.d f.a f.b }
  issue o
    (do
      needOperand o scalarDst f.d 0
      needOperand o scalarSrc f.a 0
      needOperand o scalarSrc f.b 0)
    (fun pc => do
      let (a, b, lat) ← readOperands pc 64 0x05 f.d f.a 0 f.b 0
      putScalar pc f.d lat (op (a.setWidth 64) (b.setWidth 64))) s

def execScalar64Add (f : VForm) (s : State) : Result := scalar64 aluAdd .scalar64Add f s
def execScalar64Sub (f : VForm) (s : State) : Result := scalar64 aluSub .scalar64Sub f s
def execScalar64And (f : VForm) (s : State) : Result := scalar64 aluAnd .scalar64And f s
def execScalar64Or (f : VForm) (s : State) : Result := scalar64 aluOr .scalar64Or f s
def execScalar64Xor (f : VForm) (s : State) : Result := scalar64 aluXor .scalar64Xor f s
def execScalar64Andn (f : VForm) (s : State) : Result := scalar64 aluAndn .scalar64Andn f s
def execScalar64Sll (f : VForm) (s : State) : Result := scalar64 aluSll .scalar64Sll f s
def execScalar64Srl (f : VForm) (s : State) : Result := scalar64 aluSrl .scalar64Srl f s
def execScalar64Sra (f : VForm) (s : State) : Result := scalar64 aluSra .scalar64Sra f s
def execScalar64Slt (f : VForm) (s : State) : Result := scalar64 aluSlt .scalar64Slt f s
def execScalar64Sltc (f : VForm) (s : State) : Result := scalar64 aluSltc .scalar64Sltc f s
def execScalar64Min (f : VForm) (s : State) : Result := scalar64 aluMin .scalar64Min f s
def execScalar64Max (f : VForm) (s : State) : Result := scalar64 aluMax .scalar64Max f s
def execScalar64Minc (f : VForm) (s : State) : Result := scalar64 aluMinc .scalar64Minc f s
def execScalar64Maxc (f : VForm) (s : State) : Result := scalar64 aluMaxc .scalar64Maxc f s

/-! LI and LIU (02 R48) -/

/-- LI writes a sign-extended 46-bit constant. -/
def execLi (w : Bool) (d : OpCode) (imm : BitVec 46) (s : State) : Result :=
  let o : Opts := { w := w, len := 8, value := (encode64 (.li w d imm)).getD 0 }
  issue o (needOperand o [.x] d 0) (fun _ => modT fun t => t.setX (xReg d) (imm.signExtend 64)) s

/-- LIU replaces bits 63 to 46. -/
def execLiu (w : Bool) (d : OpCode) (imm : BitVec 18) (s : State) : Result :=
  let o : Opts := { w := w, len := 8, value := (encode64 (.liu w d imm)).getD 0 }
  issue o (needOperand o [.x] d 0) (fun _ => modT fun t =>
    t.setX (xReg d) (imm ++ (t.getX (xReg d)).extractLsb' 0 46)) s

end Sys2Proof.Machine
end

