-- ==== Sys2Proof/Machine/Trace.lean ====
section
/-! DEFINITION. Trace records, their buffers and rings, and the performance counters: TRC, PMCS, PMCR (14 R337 to R344). -/

namespace Sys2Proof.Machine

/-- TRACE_RING_WRITE: the head of a buffer is written while the ring has room, and written is incremented. -/
def execTraceRingWrite (die tile : Nat) (s : State) : Result :=
  match (s.tile tile).trace with
  | [] => .next s
  | r :: rest =>
    let base := traceBase die
    let header := (s.granule (.hbm base)).data
    let written := (header.extractLsb' 0 64).toNat
    let consumed := (header.extractLsb' 128 64).toNat
    let again (s : State) : Result := .next (sendTrace tile s)
    if traceSize ≤ written - consumed || s.hbmShut (.hbm base) then again s
    else if s.cycle < (s.die die).writer then .next (s.schedule (s.die die).writer phaseAccess (.traceRingWrite die tile))
    else
      let s := s.setGranule (.hbm (base + 32 * (128 + written % traceSize))) (sealed r 0)
      let s := s.setGranule (.hbm base)
        (sealed (0#64 ++ header.extractLsb' 128 64 ++ BitVec.ofNat 64 traceSize ++ BitVec.ofNat 64 (written + 1)) 0)
      let s := s.modDie die fun d => { d with writer := s.cycle + 2 }
      let s := s.modTile tile fun t => { t with trace := rest }
      let lost := (s.tile tile).traceLost ≠ 0
      let s := placeLoss tile s
      .next (if lost then sendTrace tile s else s)

/-- TRC (R340): committing; the record enters the buffer 2 cycles after issue, when the instruction lands. -/
def execTrc (w : Bool) (a b : Reg) (code : BitVec 8) (s : State) : Result :=
  issue { w := w, commits := true } noChecks (fun pc => do
    let t ← getT
    let s ← get
    let r := traceRecord (BitVec.ofNat 64 s.cycle) (t.getX a) ((t.getX b).setWidth 32) s.cur.tile pc.toNat code 2
      (BitVec.ofNat 3 s.cur.slot)
    longResult pc 2 [] [.trace r]) s

/-! Performance counters (R343, R344) -/

/-- A selector that PMCS accepts. -/
def pmcOk (sel : Word) : Bool := (sel.extractLsb' 0 8).toNat ≤ evDrops && sel.extractLsb' 16 43 = 0

/-- PMCS: events of the next cycle are the first counted under the new selector. -/
def execPmcs (w : Bool) (a b : Reg) (n : BitVec 2) (s : State) : Result :=
  let o := opts32 w (.pmcs w a b n)
  issue o (needMode o 1) (fun _ => do
      let t ← getT
      needOk o (pmcOk (t.getX a))
      modTileM fun tile =>
        { tile with pmcNext := tile.pmcNext.filter (·.1 ≠ n.toNat) ++ [(n.toNat, t.getX a, (t.getX b).setWidth 48)] }) s

/-- PMCR: the value as it stands at the end of the issue cycle. -/
def execPmcr (w : Bool) (d : Reg) (n : BitVec 2) (s : State) : Result :=
  issue { w := w } noChecks (fun _ => do
    let slot := (← get).cur.slot
    modTileM fun tile => { tile with pmcReads := tile.pmcReads ++ [(slot, d, n.toNat)] }) s

/-- What a tile's counters do as a cycle ends: PMCRs of the cycle read them, and PMCSs of the cycle take effect. -/
def Tile.endCounters (t : Tile) : Tile :=
  let slots := t.pmcReads.foldl (fun v (r : Nat × Reg × Nat) =>
    let sl := v[r.1]?.getD {}
    v.setIfInBounds r.1 { sl with thread := sl.thread.map (·.setX r.2.1 ((t.pmc[r.2.2]?.getD 0).setWidth 64)) }) t.slots
  { t with
    slots := slots, pmcReads := [], pmcNext := []
    pmcSel := t.pmcNext.foldl (fun v (p : Nat × Word × BitVec 48) => v.setIfInBounds p.1 p.2.1) t.pmcSel
    pmc := t.pmcNext.foldl (fun v (p : Nat × Word × BitVec 48) => v.setIfInBounds p.1 p.2.2) t.pmc }

/-- COUNTER_WRAP: input 5 of the counter's slot (R343). -/
def execCounterWrap (tile n : Nat) (s : State) : Result :=
  .next (setInput ⟨tile, (((s.tile tile).pmcSel[n]?.getD 0).extractLsb' 59 3).toNat⟩ 5 s)

end Sys2Proof.Machine
end

