-- ==== Sys2Proof/Machine/VectorMem.lean ====
section
/-! DEFINITION. Vector loads and stores, unpacking loads, gathers, scatters, multicast stores and pattern writes (05 R137 to
R145). -/

namespace Sys2Proof.Machine

/-! Fields (02 R47) -/

def segmentOf (f : VForm) : BitVec 3 := f.imm.extractLsb' 10 3
/-- The segment offset without an index: x[a] plus the granule offset. -/
def Thread.vOffset (t : Thread) (f : VForm) : Nat := (t.getX (xReg f.a)).toNat + (f.imm.toNat % 1024) * 32
/-- The tag that .chk compares. -/
def chkOf (f : VForm) : Bool := f.round.getLsbD 0

/-- The second column of R138. -/
def suffixTag (et : BitVec 4) : BitVec 6 :=
  match et.toNat with
  | 0 => 0x0C | 1 => 0x0D | 2 => 0x0E | 3 => 0x10 | 4 => 0x15 | 5 => 0x11 | 6 => 0x12 | 7 => 0x13 | 8 => 0x14
  | 9 => 0x16 | 10 => 0x00 | _ => 0x3F

/-- The tag that a store writes, and the width by which it is masked (R138). -/
def storeAs (f : VForm) : BitVec 6 × Nat := if chkOf f then (suffixTag f.et, 8) else (tagOfEt f.et, etBits f.et)

/-- The bytes of the active elements of a width. -/
def activeBytes (k : BitVec 32) (w : Nat) : BitVec 32 :=
  BitVec.ofNat 32 ((List.range 32).foldl (fun n b => if maskActive k w (b * 8 / w) then n + 2 ^ b else n) 0)

/-- The first and last set bits of a byte mask. -/
def firstByte (m : BitVec 32) : Nat := ((List.range 32).find? (m.getLsbD ·)).getD 0
def lastByte (m : BitVec 32) : Nat := (((List.range 32).reverse).find? (m.getLsbD ·)).getD 0

/-- The precise checks of a whole-granule access whose active bytes are given, the first active element ending at a byte
(R137): rights, the first element's limit, alignment, the other elements' limits, windows and locks. -/
def needVector (n : BitVec 3) (need : Need) (off firstEnd : Nat) (bytes : BitVec 32) : M (Seg × Nat) := do
  let g ← needSegUpTo n need off firstEnd
  let addr := g.addr off
  needAligned (off % 32 = 0 && addr % 32 = 0) off
  if !g.limitOk off (lastByte bytes + 1) then segTrap cSegmentLimit n (BitVec.ofNat 64 off)
  if g.kind = 2 then needOwn need.writes (addr + firstByte bytes) (lastByte bytes + 1 - firstByte bytes)
  return (g, addr)
where
  needSegUpTo (n : BitVec 3) (need : Need) (off last : Nat) : M Seg := needSeg n need off (last + 1)

/-- The last byte of the first active element. -/
def firstEnd (bytes : BitVec 32) (w : Nat) : Nat := firstByte bytes + (max w 8) / 8 - 1

/-! VLD and VST (R139, R140) -/

/-- The options of a vector memory instruction whose base is an x code. -/
def vmemOpts (i : Instr) (f : VForm) (long : Bool) (vregs : List Nat) : Opts :=
  { opts64 f.w i with long := long, vregs := vregs }

def execVld (f : VForm) (s : State) : Result :=
  let o := vmemOpts (.vld f) f true (vDest f.d)
  issue o
    (do
      needOperand o [.v] f.d 0
      needOperand o [.x] f.a f.ka)
    (fun pc => do
      let t ← getT
      let w := etBits f.et
      let bytes := activeBytes (t.getK f.mask) w
      let mask := byteMask bytes
      let fin : Finish := .vector (vNum f.d) mask (if f.z then ~~~mask else 0)
      let expect := if chkOf f then some (tagOfEt f.et) else none
      if bytes = 0 then load pc [] fin expect [destV (vNum f.d)] 0 false
      else
        let off := t.vOffset f
        let (g, addr) ← needVector (segmentOf f) .read off (firstEnd bytes w) bytes
        load pc [t.request (g.key addr) (ones 32)] fin expect [destV (vNum f.d)] 0 false) s

def execVst (f : VForm) (s : State) : Result :=
  let o := vmemOpts (.vst f) f false []
  issue o
    (do
      needOperand o [.v] f.d 0
      needOperand o [.x] f.a f.ka)
    (fun pc => do
      let t ← getT
      let (tag, w) := (storeAs f)
      let bytes := activeBytes (t.getK f.mask) w
      if bytes ≠ 0 then
        let off := t.vOffset f
        let (g, addr) ← needVector (segmentOf f) .write off (firstEnd bytes w) bytes
        roomFor pc [g.key addr]
        gateStore pc g addr (t.getV (vNum f.d)) bytes (some tag)) s

/-! VLDX (R141) -/

/-- The stream bit at which output k's field begins, from an offset in bits. -/
def fieldBit (p : Word) (k : Nat) : Nat := patBit p k

/-- The granules, from the first one of the stream position, that the fields of the active outputs touch. -/
def vldxGranules (p : Word) (active : Nat → Bool) : List Nat :=
  (((List.range (patCount p)).filter active).flatMap fun k =>
    [fieldBit p k / 256, (fieldBit p k + patW p - 1) / 256]).eraseDups

/-- The checks of one granule of an unpacking load, precise. -/
def needGranule (n : BitVec 3) (off : Nat) : M Unit := do
  let g ← needSeg n .read off 32
  needAligned (off % 32 = 0 && g.addr off % 32 = 0) off
  if g.kind = 2 then needOwn false (g.addr off) 32

def execVldx (f : VForm) (s : State) : Result :=
  let o := vmemOpts (.vldx f) f true (vDest f.d)
  issue o
    (do
      needOperand o [.v] f.d 0
      needOperand o [.x] f.a f.ka)
    (fun pc => do
      let t ← getT
      let pat := (← getTile).upat[f.et.toNat % 8]?.getD 0
      let w := patOut pat
      let bytes := activeBytes (t.getK f.mask) w
      let active := byteMask bytes
      let off := t.vOffset f
      let wanted := vldxGranules pat (maskActive (t.getK f.mask) w)
      let last := wanted.foldl max 0
      let needed := (List.range (last + 1)).filter (wanted.contains ·)
      needed.forM fun i => needGranule (segmentOf f) (off + 32 * i)
      let g := t.getSeg (segmentOf f)
      let reqs := (List.range (last + 1)).map fun i =>
        if needed.contains i then t.request (g.key (g.addr (off + 32 * i))) (ones 32)
        else { key := g.key (g.addr (off + 32 * i)), got := some 0 }
      let expect := if chkOf f then some (patTag pat) else none
      load pc reqs (.unpack (vNum f.d) pat 0 active (if f.z then ~~~active else 0)) expect [destV (vNum f.d)] 0 true) s

/-! Gathers and scatters (R142, R143) -/

/-- The active elements of an indexed access, each with its segment offset. -/
def Thread.indexed (t : Thread) (f : VForm) (index : Vec) : List (Nat × Nat) :=
  let w := etBits f.et
  ((List.range (256 / w)).filter (maskActive (t.getK f.mask) w)).map fun i => (i, t.vOffset f + elem index.toNat w i)

/-- The precise checks of one element of an indexed access: its address. -/
def needElement (n : BitVec 3) (need : Need) (size : Nat) (e : Nat × Nat) : M (Nat × Nat) := do
  let g ← needSeg n need e.2 size
  let addr := g.addr e.2
  needAligned (e.2 % size = 0 && addr % size = 0) e.2
  if g.kind = 2 then needOwn need.writes addr size
  return (e.1, addr)

def execVgath (f : VForm) (s : State) : Result :=
  let o := vmemOpts (.vgath f) f true (vDest f.d)
  issue o
    (do
      needOperand o [.v] f.d 0
      needOperand o [.x] f.a f.ka
      needOperand o [.v] f.b f.kb)
    (fun pc => do
      let w := etBits f.et
      let (_, index, _) ← readOperands pc w 0 f.d 424 0 f.b f.kb
      let t ← getT
      let g := t.getSeg (segmentOf f)
      let elems ← (t.indexed f index).mapM (needElement (segmentOf f) .read (w / 8))
      let keys := (elems.map fun e => g.key e.2).eraseDups
      let mask := byteMask (activeBytes (t.getK f.mask) w)
      let needed (k : GKey) : BitVec 32 :=
        elems.foldl (fun m e => if g.key e.2 = k then m ||| bytesAt (e.2 % 32) (w / 8) else m) 0
      let picks := elems.map fun e => (e.1, keys.findIdx (· = g.key e.2), e.2 % 32 * 8)
      let expect := if chkOf f then some (tagOfEt f.et) else none
      load pc (keys.map fun k => t.request k (needed k)) (.gather (vNum f.d) w picks (if f.z then ~~~mask else 0)) expect
        [destV (vNum f.d)] 0 false) s

/-- VSCAT; round[13] is accepted, and neither the mask nor the elements follow it (log 89). -/
def execVscat (f : VForm) (s : State) : Result :=
  let o := vmemOpts (.vscat f) f false []
  issue o
    (do
      needOperand o [.v] f.d 0
      needOperand o [.x] f.a f.ka
      needOperand o [.v] f.b f.kb)
    (fun pc => do
      let w := etBits f.et
      let (_, index, _) ← readOperands pc w 0 f.d 424 0 f.b f.kb
      let t ← getT
      let g := t.getSeg (segmentOf f)
      let elems ← (t.indexed f index).mapM (needElement (segmentOf f) .write (w / 8))
      roomFor pc (elems.map fun e => g.key e.2)
      let src := (t.getV (vNum f.d)).toNat
      elems.forM fun e =>
        gateStore pc g e.2 (BitVec.ofNat 256 (elem src w e.1 * 2 ^ (8 * (e.2 % 32)))) (bytesAt (e.2 % 32) (w / 8)) none) s

/-! VSTM (R144) -/

/-- A destination of a multicast that may not receive: a hole, or a timed-owned granule that no open window covers. -/
def multicastDenied (s : State) (tile off : Nat) : Bool := s.hole tile || !(s.tile tile).openGranule off

/-- The destination tiles that a mask names in a cluster. -/
def maskTiles (cluster : Nat) (m : BitVec 16) : List Nat :=
  ((List.range 16).filter (m.getLsbD ·)).map (clusterTile cluster)

/-- The mask of the destinations of which something holds. -/
def maskOf (cluster : Nat) (m : BitVec 16) (p : Nat → Bool) : Word :=
  BitVec.ofNat 64 (((List.range 16).filter fun i => m.getLsbD i && p (clusterTile cluster i)).foldl (fun n i => n + 2 ^ i) 0)

/-- The granule sent to each destination of a multicast. -/
def sendMulticast (tok : Nat) (off : Nat) (g : Granule) (s : State) (tiles : List Nat) : State :=
  tiles.foldl (fun s tile =>
    let (id, s) := s.fresh
    let t := s.thread s.cur
    let a : Access :=
      { id := id, who := s.cur, thread := (t.map (·.serial)).getD 0, key := .own off, kind := .multicast tok g
        loc := some (.sram tile off), launch := t.bind (·.launch) }
    { s with accs := s.accs ++ [a] }.scheduleFree phaseAccess (.vstmDestinationWrite id)) s

def execVstm (f : VForm) (s : State) : Result :=
  let o := { vmemOpts (.vstm f) f true [] with commits := true }
  issue o
    (do
      needOperand o [.v] f.d 0
      needOperand o [.x] f.a f.ka
      needOperand o [.x] f.b f.kb)
    (fun pc => do
      let t ← getT
      let off := t.vOffset f
      if (t.getSeg (segmentOf f)).kind ≠ 2 then segTrap cSegmentRights (segmentOf f) (BitVec.ofNat 64 off)
      let g ← needSeg (segmentOf f) .write off 32
      let addr := g.addr off
      needAligned (off % 32 = 0 && addr % 32 = 0) off
      let s ← get
      let cluster := clusterOf s.cur.tile
      let m : BitVec 16 := (t.getX (xReg f.b)).setWidth 16
      let tiles := maskTiles cluster m
      let locked (tile : Nat) : Bool := (s.tile tile).locked false true addr (addr + 31)
      if tiles.contains s.cur.tile && locked s.cur.tile then trapNow cRangeLocked (BitVec.ofNat 64 addr)
      if tiles.any locked then rollbackNow pc cRangeLocked 0 (BitVec.ofNat 64 addr)
      if tiles.any (multicastDenied s · addr) then
        rollbackNow pc cMulticastDenied 0 (maskOf cluster m (multicastDenied s · addr))
      if tiles.isEmpty then longResult pc 1 [] []
      else
        let tok ← addOutst fun tok => { tok := tok, pc := pc, fin := .ready [], lands := s.cycle }
        modS fun s => sendMulticast tok addr (sealed (t.getV (vNum f.d)) (storeAs f).1) s tiles) s

/-- VSTM_DESTINATION_WRITE: one destination writes its granule; with the last acknowledgement the instruction lands. -/
def execVstmDestinationWrite (id : Nat) (s : State) : Result :=
  match s.access id with
  | none => .next s
  | some a =>
    match a.kind, a.loc with
    | .multicast tok g, some (.sram tile off) =>
      if a.held.isNone && tile = a.who.tile && earlierOwn s a then .next (s.schedule (s.cycle + 1) phaseAccess (.vstmDestinationWrite id))
      else if s.portHolds a tile off then .next (holdAtPort a tile (.vstmDestinationWrite id) s)
      else
        let s := afterWrite (.sram tile off) 0 ((s.setGranule (.sram tile off) g).dropAccess id)
        .next (if s.accs.any (fun b => b.tok = some tok) then s else landAt a.who tok 1 s)
    | _, _ => .next s

/-! UPATW (R145) -/

/-- The tile belongs to a launch whose region flag is set. -/
def State.regionLaunch (s : State) (tile : Nat) : Bool :=
  match (s.tile tile).launch with
  | some l => (Tab.get {} s.launches l).region
  | none => false

def execUpatw (f : VForm) (s : State) : Result :=
  let o := { opts64 f.w (.upatw f) with long := true, commits := true }
  issue o
    (do
      let s ← get
      if s.regionLaunch s.cur.tile then needMode o 1
      needOperand o [.x] f.a 0)
    (fun pc => do
      let v := (← getT).getX (xReg f.a)
      needOk o (patOk v)
      longResult pc 4 [] [.upat (f.imm.toNat % 8) v]) s

end Sys2Proof.Machine
end

