-- ==== Sys2Proof/Machine/Dispatch.lean ====
section
/-! DEFINITION. The instructions of the opcode table, each to its meaning. -/

namespace Sys2Proof.Machine

def exec (i : Instr) (s : State) : Host.Outcome State Fault Refusal :=
  match i with
  | .add f => Sys2Proof.Machine.execAdd f s
  | .sub f => Sys2Proof.Machine.execSub f s
  | .and f => Sys2Proof.Machine.execAnd f s
  | .or f => Sys2Proof.Machine.execOr f s
  | .xor f => Sys2Proof.Machine.execXor f s
  | .andn f => Sys2Proof.Machine.execAndn f s
  | .sll f => Sys2Proof.Machine.execSll f s
  | .srl f => Sys2Proof.Machine.execSrl f s
  | .sra f => Sys2Proof.Machine.execSra f s
  | .slt f => Sys2Proof.Machine.execSlt f s
  | .sltc f => Sys2Proof.Machine.execSltc f s
  | .min f => Sys2Proof.Machine.execMin f s
  | .max f => Sys2Proof.Machine.execMax f s
  | .minc f => Sys2Proof.Machine.execMinc f s
  | .maxc f => Sys2Proof.Machine.execMaxc f s
  | .mul f => Sys2Proof.Machine.execMul f s
  | .mulh f => Sys2Proof.Machine.execMulh f s
  | .mulhc f => Sys2Proof.Machine.execMulhc f s
  | .div f => Sys2Proof.Machine.execDiv f s
  | .divc f => Sys2Proof.Machine.execDivc f s
  | .rem f => Sys2Proof.Machine.execRem f s
  | .remc f => Sys2Proof.Machine.execRemc f s
  | .clz w d a => Sys2Proof.Machine.execClz w d a s
  | .ctz w d a => Sys2Proof.Machine.execCtz w d a s
  | .cntb w d a => Sys2Proof.Machine.execCntb w d a s
  | .rev8 w d a => Sys2Proof.Machine.execRev8 w d a s
  | .bext f => Sys2Proof.Machine.execBext f s
  | .bextc f => Sys2Proof.Machine.execBextc f s
  | .bins f => Sys2Proof.Machine.execBins f s
  | .shapew w entry a b => Sys2Proof.Machine.execShapew w entry a b s
  | .addi f => Sys2Proof.Machine.execAddi f s
  | .andi f => Sys2Proof.Machine.execAndi f s
  | .ori f => Sys2Proof.Machine.execOri f s
  | .xori f => Sys2Proof.Machine.execXori f s
  | .slli w d a s1 => Sys2Proof.Machine.execSlli w d a s1 s
  | .srli w d a s1 => Sys2Proof.Machine.execSrli w d a s1 s
  | .srai w d a s1 => Sys2Proof.Machine.execSrai w d a s1 s
  | .slti f => Sys2Proof.Machine.execSlti f s
  | .sltci f => Sys2Proof.Machine.execSltci f s
  | .muli f => Sys2Proof.Machine.execMuli f s
  | .beq f => Sys2Proof.Machine.execBeq f s
  | .bne f => Sys2Proof.Machine.execBne f s
  | .blt f => Sys2Proof.Machine.execBlt f s
  | .bge f => Sys2Proof.Machine.execBge f s
  | .bltc f => Sys2Proof.Machine.execBltc f s
  | .bgec f => Sys2Proof.Machine.execBgec f s
  | .j w off => Sys2Proof.Machine.execJ w off s
  | .jal w off => Sys2Proof.Machine.execJal w off s
  | .jr f => Sys2Proof.Machine.execJr f s
  | .loop f => Sys2Proof.Machine.execLoop f s
  | .item w d off => Sys2Proof.Machine.execItem w d off s
  | .xit w kill => Sys2Proof.Machine.execXit w kill s
  | .rmark w => Sys2Proof.Machine.execRmark w s
  | .ld8 f => Sys2Proof.Machine.execLd8 f s
  | .ld16 f => Sys2Proof.Machine.execLd16 f s
  | .ld32 f => Sys2Proof.Machine.execLd32 f s
  | .ld64 f => Sys2Proof.Machine.execLd64 f s
  | .ldc8 f => Sys2Proof.Machine.execLdc8 f s
  | .ldc16 f => Sys2Proof.Machine.execLdc16 f s
  | .ldc32 f => Sys2Proof.Machine.execLdc32 f s
  | .st8 f => Sys2Proof.Machine.execSt8 f s
  | .st16 f => Sys2Proof.Machine.execSt16 f s
  | .st32 f => Sys2Proof.Machine.execSt32 f s
  | .st64 f => Sys2Proof.Machine.execSt64 f s
  | .ldbr w seg base off => Sys2Proof.Machine.execLdbr w seg base off s
  | .aadd64 f => Sys2Proof.Machine.execAadd64 f s
  | .aand64 f => Sys2Proof.Machine.execAand64 f s
  | .aor64 f => Sys2Proof.Machine.execAor64 f s
  | .axor64 f => Sys2Proof.Machine.execAxor64 f s
  | .amin64 f => Sys2Proof.Machine.execAmin64 f s
  | .amax64 f => Sys2Proof.Machine.execAmax64 f s
  | .aminc64 f => Sys2Proof.Machine.execAminc64 f s
  | .amaxc64 f => Sys2Proof.Machine.execAmaxc64 f s
  | .aswp64 f => Sys2Proof.Machine.execAswp64 f s
  | .aadd32 f => Sys2Proof.Machine.execAadd32 f s
  | .aand32 f => Sys2Proof.Machine.execAand32 f s
  | .aor32 f => Sys2Proof.Machine.execAor32 f s
  | .axor32 f => Sys2Proof.Machine.execAxor32 f s
  | .amin32 f => Sys2Proof.Machine.execAmin32 f s
  | .amax32 f => Sys2Proof.Machine.execAmax32 f s
  | .aminc32 f => Sys2Proof.Machine.execAminc32 f s
  | .amaxc32 f => Sys2Proof.Machine.execAmaxc32 f s
  | .aswp32 f => Sys2Proof.Machine.execAswp32 f s
  | .afadd f => Sys2Proof.Machine.execAfadd f s
  | .cas64 f => Sys2Proof.Machine.execCas64 f s
  | .cas32 f => Sys2Proof.Machine.execCas32 f s
  | .fence w kind scope => Sys2Proof.Machine.execFence w kind scope s
  | .drain w scope => Sys2Proof.Machine.execDrain w scope s
  | .barTile w a num => Sys2Proof.Machine.execBarTile w a num s
  | .barCluster w a num => Sys2Proof.Machine.execBarCluster w a num s
  | .post w s1 t p => Sys2Proof.Machine.execPost w s1 t p s
  | .postAll w s1 t p => Sys2Proof.Machine.execPostAll w s1 t p s
  | .spawn f slot => Sys2Proof.Machine.execSpawn f slot s
  | .spawnPort f port slot => Sys2Proof.Machine.execSpawnPort f port slot s
  | .spawnEvict f seg slot => Sys2Proof.Machine.execSpawnEvict f seg slot s
  | .fork w a ty => Sys2Proof.Machine.execFork w a ty s
  | .popc w off => Sys2Proof.Machine.execPopc w off s
  | .steal w d port => Sys2Proof.Machine.execSteal w d port s
  | .stealLocal w d => Sys2Proof.Machine.execStealLocal w d s
  | .arm f => Sys2Proof.Machine.execArm f s
  | .qcfgSet w a q => Sys2Proof.Machine.execQcfgSet w a q s
  | .qcfgGet w d q => Sys2Proof.Machine.execQcfgGet w d q s
  | .qcfgPort w a port => Sys2Proof.Machine.execQcfgPort w a port s
  | .scfgBind w a seg s1 => Sys2Proof.Machine.execScfgBind w a seg s1 s
  | .scfgFree w s1 => Sys2Proof.Machine.execScfgFree w s1 s
  | .fwd w mask => Sys2Proof.Machine.execFwd w mask s
  | .launch w d a seg => Sys2Proof.Machine.execLaunch w d a seg s
  | .tfence w => Sys2Proof.Machine.execTfence w s
  | .tfenceResume w => Sys2Proof.Machine.execTfenceResume w s
  | .tfenceAbort w => Sys2Proof.Machine.execTfenceAbort w s
  | .waitc f cond => Sys2Proof.Machine.execWaitc f cond s
  | .dbell w d a port => Sys2Proof.Machine.execDbell w d a port s
  | .cpy f => Sys2Proof.Machine.execCpy f s
  | .cpym f => Sys2Proof.Machine.execCpym f s
  | .cpyf f => Sys2Proof.Machine.execCpyf f s
  | .cmpr f => Sys2Proof.Machine.execCmpr f s
  | .dcmp f => Sys2Proof.Machine.execDcmp f s
  | .fill f => Sys2Proof.Machine.execFill f s
  | .rput f => Sys2Proof.Machine.execRput f s
  | .rget f => Sys2Proof.Machine.execRget f s
  | .walk f => Sys2Proof.Machine.execWalk f s
  | .stepDie w => Sys2Proof.Machine.execStepDie w s
  | .stepPackage w => Sys2Proof.Machine.execStepPackage w s
  | .rankw w a b => Sys2Proof.Machine.execRankw w a b s
  | .rankwInv w a => Sys2Proof.Machine.execRankwInv w a s
  | .crr w d r => Sys2Proof.Machine.execCrr w d r s
  | .crw w a r => Sys2Proof.Machine.execCrw w a r s
  | .tret w => Sys2Proof.Machine.execTret w s
  | .trap w imm => Sys2Proof.Machine.execTrap w imm s
  | .wfi w => Sys2Proof.Machine.execWfi w s
  | .trc w a b code => Sys2Proof.Machine.execTrc w a b code s
  | .pmcs w a b n => Sys2Proof.Machine.execPmcs w a b n s
  | .pmcr w d n => Sys2Proof.Machine.execPmcr w d n s
  | .rplyStart w d a => Sys2Proof.Machine.execRplyStart w d a s
  | .rplyRestore w d => Sys2Proof.Machine.execRplyRestore w d s
  | .rplyEnd w d => Sys2Proof.Machine.execRplyEnd w d s
  | .segw w a b seg => Sys2Proof.Machine.execSegw w a b seg s
  | .dstop w d a id => Sys2Proof.Machine.execDstop w d a id s
  | .dstopTrap w d a id => Sys2Proof.Machine.execDstopTrap w d a id s
  | .isld f => Sys2Proof.Machine.execIsld f s
  | .vaddFloat f => Sys2Proof.Machine.execVaddFloat f s
  | .vsubFloat f => Sys2Proof.Machine.execVsubFloat f s
  | .vmulFloat f => Sys2Proof.Machine.execVmulFloat f s
  | .vdiv f => Sys2Proof.Machine.execVdiv f s
  | .vfma f => Sys2Proof.Machine.execVfma f s
  | .vfms f => Sys2Proof.Machine.execVfms f s
  | .vfnma f => Sys2Proof.Machine.execVfnma f s
  | .vminFloat f => Sys2Proof.Machine.execVminFloat f s
  | .vmaxFloat f => Sys2Proof.Machine.execVmaxFloat f s
  | .vminn f => Sys2Proof.Machine.execVminn f s
  | .vmaxn f => Sys2Proof.Machine.execVmaxn f s
  | .vabs f => Sys2Proof.Machine.execVabs f s
  | .vneg f => Sys2Proof.Machine.execVneg f s
  | .vcmpFloat f => Sys2Proof.Machine.execVcmpFloat f s
  | .vdotFloat f => Sys2Proof.Machine.execVdotFloat f s
  | .vsqrt f => Sys2Proof.Machine.execVsqrt f s
  | .vaddInt f => Sys2Proof.Machine.execVaddInt f s
  | .vsubInt f => Sys2Proof.Machine.execVsubInt f s
  | .vmulInt f => Sys2Proof.Machine.execVmulInt f s
  | .vmulh f => Sys2Proof.Machine.execVmulh f s
  | .vmad f => Sys2Proof.Machine.execVmad f s
  | .vadds f => Sys2Proof.Machine.execVadds f s
  | .vsubs f => Sys2Proof.Machine.execVsubs f s
  | .vminInt f => Sys2Proof.Machine.execVminInt f s
  | .vmaxInt f => Sys2Proof.Machine.execVmaxInt f s
  | .vand f => Sys2Proof.Machine.execVand f s
  | .vor f => Sys2Proof.Machine.execVor f s
  | .vxor f => Sys2Proof.Machine.execVxor f s
  | .vandn f => Sys2Proof.Machine.execVandn f s
  | .vsll f => Sys2Proof.Machine.execVsll f s
  | .vsrl f => Sys2Proof.Machine.execVsrl f s
  | .vsra f => Sys2Proof.Machine.execVsra f s
  | .vcmpInt f => Sys2Proof.Machine.execVcmpInt f s
  | .vdotInt f => Sys2Proof.Machine.execVdotInt f s
  | .vmov f => Sys2Proof.Machine.execVmov f s
  | .vmovm f => Sys2Proof.Machine.execVmovm f s
  | .vperm f => Sys2Proof.Machine.execVperm f s
  | .vperm2 f => Sys2Proof.Machine.execVperm2 f s
  | .vslide f => Sys2Proof.Machine.execVslide f s
  | .vsel f => Sys2Proof.Machine.execVsel f s
  | .vred f => Sys2Proof.Machine.execVred f s
  | .vscan f => Sys2Proof.Machine.execVscan f s
  | .vbcast f => Sys2Proof.Machine.execVbcast f s
  | .kand f => Sys2Proof.Machine.execKand f s
  | .kor f => Sys2Proof.Machine.execKor f s
  | .kxor f => Sys2Proof.Machine.execKxor f s
  | .kandn f => Sys2Proof.Machine.execKandn f s
  | .knot f => Sys2Proof.Machine.execKnot f s
  | .kmov f => Sys2Proof.Machine.execKmov f s
  | .kfromx f => Sys2Proof.Machine.execKfromx f s
  | .ktox f => Sys2Proof.Machine.execKtox f s
  | .vmovx f => Sys2Proof.Machine.execVmovx f s
  | .vld f => Sys2Proof.Machine.execVld f s
  | .vst f => Sys2Proof.Machine.execVst f s
  | .vldx f => Sys2Proof.Machine.execVldx f s
  | .vgath f => Sys2Proof.Machine.execVgath f s
  | .vscat f => Sys2Proof.Machine.execVscat f s
  | .vstm f => Sys2Proof.Machine.execVstm f s
  | .vcvt f => Sys2Proof.Machine.execVcvt f s
  | .vcvtw f => Sys2Proof.Machine.execVcvtw f s
  | .vcvtn f => Sys2Proof.Machine.execVcvtn f s
  | .vmxq f => Sys2Proof.Machine.execVmxq f s
  | .vexp2 f => Sys2Proof.Machine.execVexp2 f s
  | .vlog2 f => Sys2Proof.Machine.execVlog2 f s
  | .vrcp f => Sys2Proof.Machine.execVrcp f s
  | .vrsq f => Sys2Proof.Machine.execVrsq f s
  | .vspk f => Sys2Proof.Machine.execVspk f s
  | .vupk f => Sys2Proof.Machine.execVupk f s
  | .tblwB f => Sys2Proof.Machine.execTblwB f s
  | .tblwS f => Sys2Proof.Machine.execTblwS f s
  | .upatw f => Sys2Proof.Machine.execUpatw f s
  | .li w d imm => Sys2Proof.Machine.execLi w d imm s
  | .liu w d imm => Sys2Proof.Machine.execLiu w d imm s
  | .decomp f => Sys2Proof.Machine.execDecomp f s
  | .scalar64Add f => Sys2Proof.Machine.execScalar64Add f s
  | .scalar64Sub f => Sys2Proof.Machine.execScalar64Sub f s
  | .scalar64And f => Sys2Proof.Machine.execScalar64And f s
  | .scalar64Or f => Sys2Proof.Machine.execScalar64Or f s
  | .scalar64Xor f => Sys2Proof.Machine.execScalar64Xor f s
  | .scalar64Andn f => Sys2Proof.Machine.execScalar64Andn f s
  | .scalar64Sll f => Sys2Proof.Machine.execScalar64Sll f s
  | .scalar64Srl f => Sys2Proof.Machine.execScalar64Srl f s
  | .scalar64Sra f => Sys2Proof.Machine.execScalar64Sra f s
  | .scalar64Slt f => Sys2Proof.Machine.execScalar64Slt f s
  | .scalar64Sltc f => Sys2Proof.Machine.execScalar64Sltc f s
  | .scalar64Min f => Sys2Proof.Machine.execScalar64Min f s
  | .scalar64Max f => Sys2Proof.Machine.execScalar64Max f s
  | .scalar64Minc f => Sys2Proof.Machine.execScalar64Minc f s
  | .scalar64Maxc f => Sys2Proof.Machine.execScalar64Maxc f s
  | .issue index rep => Sys2Proof.Machine.execIssue index rep s
  | .issuel index rep => Sys2Proof.Machine.execIssuel index rep s
  | .mark id => Sys2Proof.Machine.execMark id s
  | .streamEnd => Sys2Proof.Machine.execStreamEnd s
  | .align a => Sys2Proof.Machine.execAlign a s
  | .idle n => Sys2Proof.Machine.execIdle n s
  | .streamLoop c off => Sys2Proof.Machine.execStreamLoop c off s
  | .jump off => Sys2Proof.Machine.execJump off s
  | .brp cond p off => Sys2Proof.Machine.execBrp cond p off s
  | .mma acc ringa ringb fmt za zb s1 fresh sat => Sys2Proof.Machine.execMma acc ringa ringb fmt za zb s1 fresh sat s
  | .mmasp acc ringa ringb fmt fresh sat => Sys2Proof.Machine.execMmasp acc ringa ringb fmt fresh sat s
  | .mmat acc ringa ringb fresh sat => Sys2Proof.Machine.execMmat acc ringa ringb fresh sat s
  | .mzero acc => Sys2Proof.Machine.execMzero acc s
  | .mfy acc row y => Sys2Proof.Machine.execMfy acc row y s
  | .vtAdd f => Sys2Proof.Machine.execVtAdd f s
  | .vtSub f => Sys2Proof.Machine.execVtSub f s
  | .vtMul f => Sys2Proof.Machine.execVtMul f s
  | .vtFma f => Sys2Proof.Machine.execVtFma f s
  | .vtMax f => Sys2Proof.Machine.execVtMax f s
  | .vtMin f => Sys2Proof.Machine.execVtMin f s
  | .vtExp2 f => Sys2Proof.Machine.execVtExp2 f s
  | .vtCvt d a dst src part rnd => Sys2Proof.Machine.execVtCvt d a dst src part rnd s
  | .vtRmax f => Sys2Proof.Machine.execVtRmax f s
  | .vtRsum f => Sys2Proof.Machine.execVtRsum f s
  | .vtBcast d a e => Sys2Proof.Machine.execVtBcast d a e s
  | .yfa d acc row => Sys2Proof.Machine.execYfa d acc row s
  | .ldr lb g ring n => Sys2Proof.Machine.execLdr lb g ring n s
  | .ldy lb g y => Sys2Proof.Machine.execLdy lb g y s
  | .ldu lb g y pat => Sys2Proof.Machine.execLdu lb g y pat s
  | .sty lb g y tag => Sys2Proof.Machine.execSty lb g y tag s
  | .agset lb g granule => Sys2Proof.Machine.execAgset lb g granule s
  | .hld lb h l n lead => Sys2Proof.Machine.execHld lb h l n lead s
  | .hst lb h l n lead => Sys2Proof.Machine.execHst lb h l n lead s
  | .zld z g => Sys2Proof.Machine.execZld z g s
  | .zsplat z code => Sys2Proof.Machine.execZsplat z code s
  | .zfy z y => Sys2Proof.Machine.execZfy z y s
  | .lsend port g n => Sys2Proof.Machine.execLsend port g n s
  | .lrecv port g n => Sys2Proof.Machine.execLrecv port g n s
  | .lpass portI portO n => Sys2Proof.Machine.execLpass portI portO n s
  | .cset c value => Sys2Proof.Machine.execCset c value s
  | .cfp c p => Sys2Proof.Machine.execCfp c p s
  | .cfy c y e => Sys2Proof.Machine.execCfy c y e s
  | .wopen win granule => Sys2Proof.Machine.execWopen win granule s
  | .wcloseDefault win => Sys2Proof.Machine.execWcloseDefault win s
  | .wcloseStall win timeout => Sys2Proof.Machine.execWcloseStall win timeout s
  | .swaph cond p => Sys2Proof.Machine.execSwaph cond p s
  | .longResultLands who tok => Sys2Proof.Machine.execLongResultLands who tok s
  | .storeReleasePerforms id => Sys2Proof.Machine.execStoreReleasePerforms id s
  | .deferredArmPush tile => Sys2Proof.Machine.execDeferredArmPush tile s
  | .atomicAtOwner id => Sys2Proof.Machine.execAtomicAtOwner id s
  | .trapEntry who => Sys2Proof.Machine.execTrapEntry who s
  | .interrupt who => Sys2Proof.Machine.execInterrupt who s
  | .timerInterrupt who => Sys2Proof.Machine.execTimerInterrupt who s
  | .forwardingDelivery id => Sys2Proof.Machine.execForwardingDelivery id s
  | .itemAdvanceReport who => Sys2Proof.Machine.execItemAdvanceReport who s
  | .portSendArrival pkt => Sys2Proof.Machine.execPortSendArrival pkt s
  | .doorbellArrival pkt => Sys2Proof.Machine.execDoorbellArrival pkt s
  | .streamPrefetch tile s1 => Sys2Proof.Machine.execStreamPrefetch tile s1 s
  | .streamDrain tile s1 => Sys2Proof.Machine.execStreamDrain tile s1 s
  | .spawnStateArrival pkt => Sys2Proof.Machine.execSpawnStateArrival pkt s
  | .stealRequestArrival pkt => Sys2Proof.Machine.execStealRequestArrival pkt s
  | .victimRestore who => Sys2Proof.Machine.execVictimRestore who s
  | .barrierArrival cluster num serial => Sys2Proof.Machine.execBarrierArrival cluster num serial s
  | .waitcReread who => Sys2Proof.Machine.execWaitcReread who s
  | .waitcTimeout who => Sys2Proof.Machine.execWaitcTimeout who s
  | .rangeLockRetry cluster op => Sys2Proof.Machine.execRangeLockRetry cluster op s
  | .engineAccept cluster op => Sys2Proof.Machine.execEngineAccept cluster op s
  | .engineGranuleWrite cluster op => Sys2Proof.Machine.execEngineGranuleWrite cluster op s
  | .portAccess id => Sys2Proof.Machine.execPortAccess id s
  | .packetHop pkt => Sys2Proof.Machine.execPacketHop pkt s
  | .routeInvalidNotice pkt index => Sys2Proof.Machine.execRouteInvalidNotice pkt index s
  | .done launch tile => Sys2Proof.Machine.execDone launch tile s
  | .joinUpdate launch => Sys2Proof.Machine.execJoinUpdate launch s
  | .launchAbandon launch cls => Sys2Proof.Machine.execLaunchAbandon launch cls s
  | .regionStart region => Sys2Proof.Machine.execRegionStart region s
  | .timedResultLands tile id => Sys2Proof.Machine.execTimedResultLands tile id s
  | .hldDeadline tile id => Sys2Proof.Machine.execHldDeadline tile id s
  | .hbmBurstComplete id => Sys2Proof.Machine.execHbmBurstComplete id s
  | .hbmCommandSlot pc => Sys2Proof.Machine.execHbmCommandSlot pc s
  | .linkGranuleArrival tile port data sl damaged => Sys2Proof.Machine.execLinkGranuleArrival tile port data sl damaged s
  | .swapBoundary tile => Sys2Proof.Machine.execSwapBoundary tile s
  | .regionFault region tile cause sub info addr => Sys2Proof.Machine.execRegionFault region tile cause sub info addr s
  | .regionHalt region => Sys2Proof.Machine.execRegionHalt region s
  | .regionRollback region => Sys2Proof.Machine.execRegionRollback region s
  | .stewardRegionTrap region => Sys2Proof.Machine.execStewardRegionTrap region s
  | .freeze region => Sys2Proof.Machine.execFreeze region s
  | .freezeEnd region => Sys2Proof.Machine.execFreezeEnd region s
  | .postTimeout tile win => Sys2Proof.Machine.execPostTimeout tile win s
  | .postArrival id => Sys2Proof.Machine.execPostArrival id s
  | .tilePartDone tile => Sys2Proof.Machine.execTilePartDone tile s
  | .regionEnd region => Sys2Proof.Machine.execRegionEnd region s
  | .traceRingWrite die tile => Sys2Proof.Machine.execTraceRingWrite die tile s
  | .counterWrap tile n => Sys2Proof.Machine.execCounterWrap tile n s
  | .dump die => Sys2Proof.Machine.execDump die s
  | .watchdogWrite die n value => Sys2Proof.Machine.execWatchdogWrite die n value s
  | .watchdogExpiry die n => Sys2Proof.Machine.execWatchdogExpiry die n s
  | .hostWrite addr bytes => Sys2Proof.Machine.execHostWrite addr bytes s
  | .hostRead place size => Sys2Proof.Machine.execHostRead place size s
  | .hostDoorbell tile slot => Sys2Proof.Machine.execHostDoorbell tile slot s
  | .jobRecordTake => Sys2Proof.Machine.execJobRecordTake s
  | .endJob => Sys2Proof.Machine.execEndJob s
  | .trainPort p trained => Sys2Proof.Machine.execTrainPort p trained s
  | .formGroup reached others tdepth tparent tchild => Sys2Proof.Machine.execFormGroup reached others tdepth tparent tchild s
  | .leaveGroup => Sys2Proof.Machine.execLeaveGroup s
  | .attestReport => Sys2Proof.Machine.execAttestReport s
  | .attestCertificate => Sys2Proof.Machine.execAttestCertificate s
  | .packagePageWrite off value => Sys2Proof.Machine.execPackagePageWrite off value s
  | .boot => Sys2Proof.Machine.execBoot s
  | .functionReady bit ok => Sys2Proof.Machine.execFunctionReady bit ok s
  | .powerSample milliwatts => Sys2Proof.Machine.execPowerSample milliwatts s
  | .portLossOfLock p => Sys2Proof.Machine.execPortLossOfLock p s
  | .tokenArrival t => Sys2Proof.Machine.execTokenArrival t s
  | .groupClockChange m => Sys2Proof.Machine.execGroupClockChange m s
  | .remoteRequest src tile slot va op => Sys2Proof.Machine.execRemoteRequest src tile slot va op s
  | .fabricTimeout id => Sys2Proof.Machine.execFabricTimeout id s
  | .pageMove => Sys2Proof.Machine.execPageMove s
  | .ueReceive mode src va op => Sys2Proof.Machine.execUeReceive mode src va op s
  | .debugStopSlot who id => Sys2Proof.Machine.execDebugStopSlot who id s
  | .debugResume who => Sys2Proof.Machine.execDebugResume who s
  | .debugRegisterWrite who r value => Sys2Proof.Machine.execDebugRegisterWrite who r value s
  | .debugRegisterRead who r => Sys2Proof.Machine.execDebugRegisterRead who r s
  | .debugLockTableRead tile entry => Sys2Proof.Machine.execDebugLockTableRead tile entry s
  | .debugRegionHalt region => Sys2Proof.Machine.execDebugRegionHalt region s
  | .debugRegionResume region => Sys2Proof.Machine.execDebugRegionResume region s
  | .tfenceValidationLanding who => Sys2Proof.Machine.execTfenceValidationLanding who s
  | .vstmDestinationWrite id => Sys2Proof.Machine.execVstmDestinationWrite id s
  | .remoteReplyArrival id ans => Sys2Proof.Machine.execRemoteReplyArrival id ans s
  | .clockStopEnd => Sys2Proof.Machine.execClockStopEnd s
  | .coolantTemperatureLimit => Sys2Proof.Machine.execCoolantTemperatureLimit s
  | .bootFlashRecoveryWrite copy image => Sys2Proof.Machine.execBootFlashRecoveryWrite copy image s
  | .laneFailure l => Sys2Proof.Machine.execLaneFailure l s

end Sys2Proof.Machine
end

