-- ==== Sys2Proof/Machine/Run.lean ====
section
/-! DEFINITION. The steps that the machine itself holds: bundle slot operations and events, each to its meaning. -/

namespace Sys2Proof.Machine

/-- A slot operation of an issuing bundle, run by the present tile's sequencer. -/
def runSlot (o : SlotOp) (s : State) : Host.Outcome State Fault Refusal :=
  match o with
  | .mma acc ringa ringb fmt za zb s1 fresh sat => execMma acc ringa ringb fmt za zb s1 fresh sat s
  | .mmasp acc ringa ringb fmt fresh sat => execMmasp acc ringa ringb fmt fresh sat s
  | .mmat acc ringa ringb fresh sat => execMmat acc ringa ringb fresh sat s
  | .mzero acc => execMzero acc s
  | .mfy acc row y => execMfy acc row y s
  | .vtAdd f => execVtAdd f s
  | .vtSub f => execVtSub f s
  | .vtMul f => execVtMul f s
  | .vtFma f => execVtFma f s
  | .vtMax f => execVtMax f s
  | .vtMin f => execVtMin f s
  | .vtExp2 f => execVtExp2 f s
  | .vtCvt d a dst src part rnd => execVtCvt d a dst src part rnd s
  | .vtRmax f => execVtRmax f s
  | .vtRsum f => execVtRsum f s
  | .vtBcast d a e => execVtBcast d a e s
  | .yfa d acc row => execYfa d acc row s
  | .ldr lb g ring n => execLdr lb g ring n s
  | .ldy lb g y => execLdy lb g y s
  | .ldu lb g y pat => execLdu lb g y pat s
  | .sty lb g y tag => execSty lb g y tag s
  | .agset lb g granule => execAgset lb g granule s
  | .hld lb h l n lead => execHld lb h l n lead s
  | .hst lb h l n lead => execHst lb h l n lead s
  | .zld z g => execZld z g s
  | .zsplat z code => execZsplat z code s
  | .zfy z y => execZfy z y s
  | .lsend port g n => execLsend port g n s
  | .lrecv port g n => execLrecv port g n s
  | .lpass portI portO n => execLpass portI portO n s
  | .cset c value => execCset c value s
  | .cfp c p => execCfp c p s
  | .cfy c y e => execCfy c y e s
  | .wopen win granule => execWopen win granule s
  | .wcloseDefault win => execWcloseDefault win s
  | .wcloseStall win timeout => execWcloseStall win timeout s
  | .swaph cond p => execSwaph cond p s

/-- A pending event that has fallen due. -/
def runEvent (e : Event) (s : State) : Host.Outcome State Fault Refusal :=
  match e with
  | .longResultLands who tok => execLongResultLands who tok s
  | .storeReleasePerforms id => execStoreReleasePerforms id s
  | .deferredArmPush tile => execDeferredArmPush tile s
  | .atomicAtOwner id => execAtomicAtOwner id s
  | .trapEntry who => execTrapEntry who s
  | .interrupt who => execInterrupt who s
  | .timerInterrupt who => execTimerInterrupt who s
  | .forwardingDelivery id => execForwardingDelivery id s
  | .itemAdvanceReport who => execItemAdvanceReport who s
  | .portSendArrival pkt => execPortSendArrival pkt s
  | .doorbellArrival pkt => execDoorbellArrival pkt s
  | .streamPrefetch tile s1 => execStreamPrefetch tile s1 s
  | .streamDrain tile s1 => execStreamDrain tile s1 s
  | .spawnStateArrival pkt => execSpawnStateArrival pkt s
  | .stealRequestArrival pkt => execStealRequestArrival pkt s
  | .victimRestore who => execVictimRestore who s
  | .barrierArrival cluster num serial => execBarrierArrival cluster num serial s
  | .waitcReread who => execWaitcReread who s
  | .waitcTimeout who => execWaitcTimeout who s
  | .rangeLockRetry cluster op => execRangeLockRetry cluster op s
  | .engineAccept cluster op => execEngineAccept cluster op s
  | .engineGranuleWrite cluster op => execEngineGranuleWrite cluster op s
  | .portAccess id => execPortAccess id s
  | .packetHop pkt => execPacketHop pkt s
  | .routeInvalidNotice pkt index => execRouteInvalidNotice pkt index s
  | .done launch tile => execDone launch tile s
  | .joinUpdate launch => execJoinUpdate launch s
  | .launchAbandon launch cls => execLaunchAbandon launch cls s
  | .regionStart region => execRegionStart region s
  | .timedResultLands tile id => execTimedResultLands tile id s
  | .hldDeadline tile id => execHldDeadline tile id s
  | .hbmBurstComplete id => execHbmBurstComplete id s
  | .hbmCommandSlot pc => execHbmCommandSlot pc s
  | .linkGranuleArrival tile port data sl damaged => execLinkGranuleArrival tile port data sl damaged s
  | .swapBoundary tile => execSwapBoundary tile s
  | .regionFault region tile cause sub info addr => execRegionFault region tile cause sub info addr s
  | .regionHalt region => execRegionHalt region s
  | .regionRollback region => execRegionRollback region s
  | .stewardRegionTrap region => execStewardRegionTrap region s
  | .freeze region => execFreeze region s
  | .freezeEnd region => execFreezeEnd region s
  | .postTimeout tile win => execPostTimeout tile win s
  | .postArrival id => execPostArrival id s
  | .tilePartDone tile => execTilePartDone tile s
  | .regionEnd region => execRegionEnd region s
  | .traceRingWrite die tile => execTraceRingWrite die tile s
  | .counterWrap tile n => execCounterWrap tile n s
  | .dump die => execDump die s
  | .watchdogWrite die n value => execWatchdogWrite die n value s
  | .watchdogExpiry die n => execWatchdogExpiry die n s
  | .hostWrite addr bytes => execHostWrite addr bytes s
  | .hostRead place size => execHostRead place size s
  | .hostDoorbell tile slot => execHostDoorbell tile slot s
  | .jobRecordTake => execJobRecordTake s
  | .endJob => execEndJob s
  | .trainPort p trained => execTrainPort p trained s
  | .formGroup reached others tdepth tparent tchild => execFormGroup reached others tdepth tparent tchild s
  | .leaveGroup => execLeaveGroup s
  | .attestReport => execAttestReport s
  | .attestCertificate => execAttestCertificate s
  | .packagePageWrite off value => execPackagePageWrite off value s
  | .boot => execBoot s
  | .functionReady bit ok => execFunctionReady bit ok s
  | .powerSample milliwatts => execPowerSample milliwatts s
  | .portLossOfLock p => execPortLossOfLock p s
  | .tokenArrival t => execTokenArrival t s
  | .groupClockChange m => execGroupClockChange m s
  | .remoteRequest src tile slot va op => execRemoteRequest src tile slot va op s
  | .fabricTimeout id => execFabricTimeout id s
  | .pageMove => execPageMove s
  | .ueReceive mode src va op => execUeReceive mode src va op s
  | .debugStopSlot who id => execDebugStopSlot who id s
  | .debugResume who => execDebugResume who s
  | .debugRegisterWrite who r value => execDebugRegisterWrite who r value s
  | .debugRegisterRead who r => execDebugRegisterRead who r s
  | .debugLockTableRead tile entry => execDebugLockTableRead tile entry s
  | .debugRegionHalt region => execDebugRegionHalt region s
  | .debugRegionResume region => execDebugRegionResume region s
  | .tfenceValidationLanding who => execTfenceValidationLanding who s
  | .vstmDestinationWrite id => execVstmDestinationWrite id s
  | .remoteReplyArrival id ans => execRemoteReplyArrival id ans s
  | .clockStopEnd => execClockStopEnd s
  | .coolantTemperatureLimit => execCoolantTemperatureLimit s
  | .bootFlashRecoveryWrite copy image => execBootFlashRecoveryWrite copy image s
  | .laneFailure l => execLaneFailure l s
  | .bankAccess id => execBankAccess id s
  | .threadFatal who => execThreadFatal who s
  | .dispatch => execDispatch s
  | .hostServe => execHostServe s
  | .mapPublished => execMapPublished s

end Sys2Proof.Machine
end

