-- ==== Sys2Proof/Machine/Turn.lean ====
section
/-! DEFINITION. Whose turn it is on a cycle, what a thread's and a sequencer's turn does, fetching, and the passing of a cycle
(00 R11, 03 R76 to R84, 07 R166, R167, 08 R204). -/

namespace Sys2Proof.Machine

/-! Fetching -/

/-- The eight instruction-store bytes from an address up, which wraps at 32,768 (02 R36). -/
def fetchBytes (tile : Tile) (pc : BitVec 15) : List Byte :=
  (List.range 8).map fun i => tile.istore.read ((pc.toNat + i) % 32768)

/-- The instruction at the head of some bytes as a 64-bit value, for cr.info (02 R35, R49). -/
def instrValue : List Byte → Word
  | b0 :: b1 :: b2 :: b3 :: c0 :: c1 :: c2 :: c3 :: _ =>
    if (wordOf b0 b1 b2 b3).getLsbD 30 then wordOf b0 b1 b2 b3 ++ wordOf c0 c1 c2 c3 else (wordOf b0 b1 b2 b3).setWidth 64
  | _ => 0

/-! A thread's turn -/

/-- The instruction at a thread's program counter runs; an encoding that R49 rejects is ILLEGAL_OPCODE. -/
def runFetched (w : Who) (t : Thread) (s : State) : Result :=
  match decode (fetchBytes (s.tile w.tile) t.pc) with
  | .ok (i, _) => exec i s
  | .error _ => afterStop s (.trap cIllegalOpcode 0 (instrValue (fetchBytes (s.tile w.tile) t.pc)) false)

/-- Whether a turn has begun a precise trap, which comes before a pending interrupt (03 R76). -/
def beganPrecise (w : Who) : Result → Bool
  | .next s =>
    match s.thread w with
    | none => false
    | some t =>
      t.fatal.isSome ||
        match t.entering with
        | some tr => !tr.rollback
        | none =>
          t.status.inh && s.cycle < t.resumeAt &&
            match t.taken with
            | some tr => !tr.rollback
            | none => false
  | _ => true

/-- A turn that a trap takes without an issue. -/
def trapTurn (w : Who) (s : State) : State := (turnTaken s).tallySlot w evBubbles

/-- A pending interrupt taken at the boundary. -/
def interruptTurn (w : Who) (t : Thread) (s : State) : State :=
  trapTurn w (raiseAsync w cInterrupt (BitVec.ofNat 64 t.input) s)

/-- A thread at an instruction boundary: an enabled interrupt, unless the instruction there traps at issue, or the instruction. -/
def boundaryTurn (w : Who) (t : Thread) (s : State) : Result :=
  if t.interruptible then
    if beganPrecise w (runFetched w t s) then runFetched w t s else .next (interruptTurn w t s)
  else runFetched w t s

/-- A thread that may wait: WFI ends when an enabled input is pending (04 R111); other waits end by what they wait for. -/
def waitTurn (w : Who) (t : Thread) (s : State) : Result :=
  match t.wait with
  | none => boundaryTurn w t s
  | some .wfi =>
    if t.ipend &&& t.ienable = 0 then .next (parkedTurn s)
    else boundaryTurn w { t with wait := none } (s.setThread w { t with wait := none })
  | some _ => if t.interruptible then .next (interruptTurn w t s) else .next (parkedTurn s)

/-- A committing instruction's second mark, once its result has landed (03 R82); an interrupt takes the thread from that park
too (R76, R80). -/
def markTurn (w : Who) (t : Thread) (s : State) : Result :=
  if !t.committing then waitTurn w t s
  else if !t.outst.isEmpty || t.wait.isSome then
    .next (if t.interruptible then interruptTurn w t s else parkedTurn s)
  else
    let s := ((takeMark w t.pc s).modThread w fun t => { t with committing := false }).tallySlot w evMarks
    match s.thread w with
    | some t => waitTurn w t s
    | none => .fault .noThread

/-- The addresses that an asynchronous trap reports: a POST's own address for its WINDOW_VIOLATION (03 R84). -/
def Trap.atBoundary (tr : Trap) (pc : BitVec 15) : Trap :=
  { tr with epc := pc, fpc := if tr.code = cWindowViolation then tr.fpc else pc, rollback := false, async := true }

/-- A thread's turn: an asynchronous trap that waits is taken at the first boundary with cr.status.inh = 0 (08 R230, 13 R332,
14 R349, R354); it does not precede a pending interrupt (03 R76). -/
def threadTurn (w : Who) (s : State) : Result :=
  match s.thread w with
  | none => .fault .noThread
  | some t =>
    match t.asyncs with
    | tr :: rest =>
      if t.status.inh || t.interruptible then markTurn w t s
      else .next (trapTurn w (raise w (tr.atBoundary t.pc) (s.setThread w { t with asyncs := rest, wait := none })))
    | [] => markTurn w t s

/-- The slot that owns this cycle holds a thread that acts on it (07 R166, R167). -/
def Slot.acts (sl : Slot) (cycle : Nat) : Bool :=
  sl.turn ≤ cycle && sl.evict.isNone &&
    match sl.thread with
    | some t => t.entering.isNone && t.fatal.isNone && t.halted.isNone && t.resumeAt ≤ cycle
    | none => false

/-! A sequencer's turn (08 R203, R204) -/

/-- The region of a tile issues on this cycle. -/
def tileIssues (s : State) (tile : Nat) : Bool :=
  match s.tileRegion tile with
  | some (_, r) => r.issues
  | none => false

/-- The region of a tile has not halted. -/
def tileGoes (s : State) (tile : Nat) : Bool :=
  match s.tileRegion tile with
  | some (_, r) => r.started && !r.halted
  | none => false

/-- A tile's sequencer acts on this cycle. -/
def sequencerActs (s : State) (tile : Nat) (t : Timed) : Bool :=
  t.turn ≤ s.cycle &&
    match t.seqr with
    | .reported => false
    | .ended => t.partDone && tileGoes s tile
    | _ => tileIssues s tile

/-- The word at the pointer: a swap that waits is served first, and a ninth control word gives way to an empty cycle. -/
def streamTurn (tile : Nat) (t : Timed) (s : State) : Result :=
  if t.swap then .next { s with todo := [.event (.swapBoundary tile)] }
  else
    match decodeStream (t.word t.files.ptr) (t.word (t.files.ptr + 1)) with
    | none => .next (emptyCycle tile .word s)
    | some i =>
      if isControl i && maxControls ≤ t.controls then .next (emptyCycle tile .word s) else exec i { s with cur := ⟨tile, 0⟩ }

/-- One act of a tile's sequencer. -/
def sequencerTurn (tile : Nat) (s : State) : Result :=
  let t := (s.tile tile).timed
  match t.seqr with
  | .word => streamTurn tile t s
  | .issuing index left addr => .next (issueCycle tile index left addr s)
  | .empty n => .next (emptyCycle tile (if n ≤ 1 then .word else .empty (n - 1)) s)
  | .aligning a =>
    let cycle := match s.tileRegion tile with
      | some (_, r) => r.cycle
      | none => 0
    if cycle % 2 ^ a = 0 then .next (s.modTimed tile fun t => { t with seqr := .word }) else .next (emptyCycle tile (.aligning a) s)
  | .ended => .next { s with todo := [.event (.tilePartDone tile)] }
  | .reported => .next s

/-! Who is next -/

/-- An agent of a cycle. -/
inductive Agent where
  | sequencer (tile : Nat)
  | thread (w : Who)
  deriving DecidableEq, Repr

/-- The agent of a tile whose turn of this cycle is still to come: its sequencer before the slot that owns the cycle. -/
def tileAgent (s : State) (n : Nat) (t : Tile) : Option Agent :=
  if sequencerActs s n t.timed then some (.sequencer n)
  else
    let k := s.cycle % t.width
    if (t.slot k).acts s.cycle && s.pkg.dispatcher ≠ some ⟨n, k⟩ then some (.thread ⟨n, k⟩) else none

/-- The next agent, by tile id (log 5). -/
def nextAgent (s : State) : Option Agent := s.tiles.findSome? fun p => tileAgent s p.1 p.2

/-- An agent's turn. -/
def agentTurn (s : State) : Agent → Result
  | .sequencer tile => sequencerTurn tile s
  | .thread w => threadTurn w { s with cur := w }

/-- An act of an outside party that is due. -/
def nextInput (s : State) : Option (Event × State) :=
  match s.inputs with
  | (c, ev) :: rest => if c ≤ s.cycle then some (ev, { s with inputs := rest }) else none
  | [] => none

/-- A completion that is due. -/
def nextDue (s : State) : Option (Event × State) :=
  match s.pend with
  | d :: rest => if d.due ≤ s.cycle then some (d.ev, { s with pend := rest }) else none
  | [] => none

/-! The passing of a cycle -/

/-- A tile whose counters count nothing and are not read. -/
def Tile.uncounted (t : Tile) : Bool := t.pmcSel.toList.all (· = 0) && t.pmcNext.isEmpty && t.pmcReads.isEmpty

/-- What a tile's counters count as a cycle ends: the cycle, the bubble of a slot that had no turn, and the empty cycle of a
tile whose region stands still (14 R343, 07 R167). -/
def tileTick (s : State) (p : Nat × Tile) : State :=
  if p.2.uncounted then s
  else
    let n := p.1
    let t := s.tile n
    let k := s.cycle % t.width
    let idle := (t.slot k).turn ≤ s.cycle
    let still : Bool := match s.tileRegion n with
      | some (_, r) => r.started && r.still && t.timed.seqr ≠ .ended && t.timed.seqr ≠ .reported
      | none => false
    let s := s.tally n evCycles none 1
    let s := if idle then s.tallySlot ⟨n, k⟩ evBubbles else s
    let s := if still then s.tally n evEmpty none 1 else s
    s.modTile n Tile.endCounters

/-- A freeze after a cycle that its region has spent (13 R326). -/
def Freeze.pass (r : Region) (f : Freeze) : Freeze :=
  let here : Bool := f.point ≤ r.cycle
  { f with
    count := if r.stopped.isSome || (r.frozen && !here) then f.count else f.count + 1
    elapsed := if r.frozen && here && r.stopped.isNone then f.elapsed + 1 else f.elapsed }

/-- A region after a cycle (13 R318). -/
def Region.pass (r : Region) : Region :=
  { r with cycle := if r.issues then r.cycle + 1 else r.cycle, freezes := r.freezes.map (Freeze.pass r) }

/-- The checks that fall due on a region's cycle: deadlines that it has just reached (08 R220). -/
def deadlines (id cycle : Nat) (s : State) (tile : Nat) : State :=
  (s.tile tile).timed.transfers.foldl (fun s x =>
    if x.checked && x.region = id && x.deadline = cycle then s.schedule s.cycle phaseLand (.hldDeadline tile x.id) else s) s

/-- The timeout of a freeze (13 R328). -/
def timeouts (s : State) (f : Freeze) : State :=
  match f.close with
  | some (tile, w) =>
    if f.timeout ≠ 0 && f.count = f.timeout && f.length.isNone then s.schedule s.cycle phaseEnd (.postTimeout tile w) else s
  | none => s

/-- What a region does on a cycle of its own accord: resumption (08 R231), its deadlines, a freeze's point and end, a timeout, a
halt, and the end of a steward whose trap waits (R230). -/
def regionDue (id : Nat) (advanced : Bool) (s : State) : State :=
  match s.region id with
  | none => s
  | some r =>
    if r.rolled && (match r.resumeAt with
      | some c => c ≤ s.cycle
      | none => false) then resumeRegion id s
    else if r.rolled && r.fault.isSome && !stewardLives s r then fatalRegion id s
    else
      let s := if advanced then r.tiles.foldl (deadlines id r.cycle) s else s
      let point : Bool := (!r.frozen && r.freezes.any (·.point ≤ r.cycle)) ||
        match r.debugAt with
        | some p => p ≤ r.cycle
        | none => false
      let s := if point && r.started && !r.halted then s.schedule s.cycle phaseLand (.freeze id) else s
      let ended := (r.freezes.filter (·.point ≤ r.cycle)).all (·.over (s.pkg.gtime + s.cycle))
      let s := if r.frozen && ended then s.schedule s.cycle phaseLand (.freezeEnd id) else s
      let halt : Bool := match r.haltAt with
        | some p => p ≤ r.cycle && !r.halted
        | none => false
      let s := if halt then s.schedule s.cycle phaseLand (.regionHalt id) else s
      r.freezes.foldl timeouts s

/-- A region passes into the next cycle. -/
def regionTick (s : State) (p : Nat × Region) : State :=
  regionDue p.1 p.2.issues (s.modRegion p.1 Region.pass)

/-- The timer inputs of a tile's threads (03 R75). -/
def timerTick (s : State) (p : Nat × Tile) : State :=
  (List.range 8).foldl (fun s k =>
    match (p.2.slot k).thread with
    | some t =>
      if t.timecmp.toNat ≤ s.cycle && !t.ipend.getLsbD 1 then s.schedule s.cycle phaseLand (.timerInterrupt ⟨p.1, k⟩) else s
    | none => s) s

/-- A watchdog's count after a cycle. -/
def Watchdog.pass (w : Watchdog) : Watchdog := if w.on then { w with count := w.count + 1 } else w

/-- The watchdogs of a die (14 R354). -/
def dogTick (s : State) (p : Nat × Die) : State :=
  let s := s.modDie p.1 fun d => { d with dogs := d.dogs.map Watchdog.pass }
  (List.range 8).foldl (fun s n =>
    let w := (s.die p.1).dog n
    if w.on && w.limit ≤ w.count then { s with todo := s.todo ++ [.event (.watchdogExpiry p.1 n)] } else s) s

/-- The records of a tile's slots enter its trace buffer after those of its timed plane, in the order of the slots (14 R342). -/
def traceTick (s : State) (p : Nat × Tile) : State :=
  if p.2.traced.isEmpty then s
  else
    let s := s.modTile p.1 fun t => { t with traced := [] }
    (List.range 8).foldl (fun s k => (p.2.traced.filter (·.1 = k)).foldl (fun s r => enterTrace p.1 r.2 s) s) s

/-- A cycle passes. -/
def tick (s : State) : State :=
  let s := s.tiles.foldl traceTick s
  let s := s.tiles.foldl tileTick s
  let s : State := { s with cycle := s.cycle + 1 }
  let s := s.regions.foldl regionTick s
  let s := s.tiles.foldl timerTick s
  s.dies.foldl dogTick s

end Sys2Proof.Machine
end

