-- ==== Sys2Proof/Machine/Step.lean ====
section
/-! DEFINITION. One step of the machine, and the placing of an instruction where the next step fetches it. -/

namespace Sys2Proof.Machine

/-- One step: an act already fixed for this cycle, else an act of an outside party that is due, else a completion that is due,
else the turn of the next agent, else the passing of the cycle (logs 4, 5). -/
def step (s : State) : Host.Outcome State Fault Refusal :=
  match s.todo with
  | .slot tile op :: rest => runSlot op { s with todo := rest, cur := ⟨tile, 0⟩ }
  | .event ev :: rest => runEvent ev { s with todo := rest }
  | [] =>
    match nextInput s with
    | some (ev, s') => runEvent ev s'
    | none =>
      match nextDue s with
      | some (ev, s') => runEvent ev s'
      | none =>
        match nextAgent s with
        | some a => agentTurn s a
        | none => .next (tick s)

/-- A machine whose next step runs a threaded instruction of these bytes: a firmware-mode thread in tile 0, slot 0, at address
0 of the instruction store. -/
def State.withThreaded (s : State) (bytes : List Byte) : State :=
  let ist : Memory := (bytes.mapIdx fun i b => (i, b)).foldl (fun m p => m.write p.1 p.2) []
  { s.modTile 0 (fun t => { (t.setSlot 0 { thread := some (Thread.born 0 0 3 48) }) with istore := ist }) with
    todo := [], pend := [], inputs := [], regions := [], cycle := 0 }

/-- A machine whose next step runs a stream word, with the word after it: tile 0's sequencer at word 0 of its active half, in a
region that issues. -/
def State.withStream (s : State) (first second : BitVec 16) : State :=
  { s.modTile 0 (fun t =>
      { t with timed := { h0 := Tab.putD 0 (Tab.putD 0 [] 0 first) 1 second, seqr := .word, region := some 0 } }) with
    todo := [], pend := [], inputs := [], regions := [(0, { tiles := [0], started := true })], cycle := 0 }

/-- A machine whose next step runs the instruction whose bits are w, as the opcode table numbers them. -/
def State.withFetchWord (s : State) (nbits w : Nat) : State :=
  if nbits ≤ 16 then s.withStream (BitVec.ofNat 16 w) 0
  else if nbits ≤ 32 then
    if (BitVec.ofNat 32 w).getLsbD 30 then
      s.withStream ((BitVec.ofNat 32 w).extractLsb' 16 16) ((BitVec.ofNat 32 w).extractLsb' 0 16)
    else s.withThreaded (bytes32 (BitVec.ofNat 32 w))
  else s.withThreaded (bytes64 (BitVec.ofNat 64 w))

end Sys2Proof.Machine
end

