-- ==== Sys2Proof/Safety.lean ====
section
/-! DEFINITION. The terms that claims use: what counts as a safe run, when an instruction may issue, the state in which its
own effect begins and the state after it, and what a step leaves alone. -/

namespace Sys2Proof.Machine

/-- An outcome that goes on. -/
def Goes (r : Host.Outcome State Fault Refusal) : Prop := ∃ s', r = .next s'

/-- Every one of the next n steps goes on. -/
def SafeFor : Nat → State → Prop
  | 0, _ => True
  | n + 1, s => ∃ s', step s = .next s' ∧ SafeFor n s'

/-! Issue (02 R37, 03 R78, R80, R82) -/

/-- An instruction that takes an implicit mark before it: a committing one, or one that would make more than 32 vector
registers written since the mark (03 R82). -/
def marksFirst (o : Opts) (t : Thread) : Bool := o.commits || t.overfull o.vregs

/-- Nothing keeps a thread from issuing an instruction: with the wait marker, and before an implicit mark, nothing is
outstanding; a long operation finds fewer than 32 outstanding results. -/
def MayIssue (o : Opts) (t : Thread) : Prop :=
  (o.w = true → t.outst = []) ∧ (o.long = true → t.outst.length < 32) ∧ (marksFirst o t = true → t.outst = [])

/-- The implicit mark before an instruction, where it takes one. -/
def markedFirst (o : Opts) (t : Thread) (s : State) : State :=
  if marksFirst o t then (takeMark s.cur t.pc s).tallySlot s.cur evMarks else s

/-- A thread with its program counter at the next instruction. -/
def Thread.stepped (t : Thread) (len : BitVec 15) : Thread := { t with pc := t.pc + len, popped := [], late := [] }

/-- The state in which an issued instruction's own effect begins: its mark is taken, and the program counter stands at the next
instruction. -/
def begun (o : Opts) (t : Thread) (s : State) : State :=
  (markedFirst o t s).modThread s.cur fun t => (o.vregs.foldl Thread.touchV t).stepped o.len

/-- One more result of the present thread outstanding: it takes the machine's next number. -/
def addResult (s : State) (o : Nat → Outst) : State :=
  s.fresh.2.modThread s.cur fun t => { t with outst := t.outst ++ [o s.serial] }

/-- A committing instruction is over: its second mark is still to come (03 R82). -/
def committing (s : State) : State := s.modThread s.cur fun t => { t with committing := true }

/-- An instruction's turn is over: a committing one's second mark is still to come. -/
def ended (o : Opts) (s : State) : State :=
  (turnTaken (if o.commits then s.modThread s.cur fun t => { t with committing := true } else s)).tallySlot s.cur evIssued

/-- An instruction as the 64-bit value that cr.info takes (02 R49). -/
def codeOf (i : Instr) : Word :=
  match encode32 i with
  | some v => v.setWidth 64
  | none => (encode64 i).getD 0

/-- An instruction takes a precise trap of this cause, subtype and cr.info: its thread stops with cr.epc and cr.fpc to be its
own address, and nothing of its own effect has happened (03 R83, R84). -/
def Traps (i : Instr) (s : State) (t : Thread) (code : BitVec 8) (sub : BitVec 4) (info : Word) : Prop :=
  exec i s = .next (turnTaken (raise s.cur { code := code, sub := sub, info := info, epc := t.pc, fpc := t.pc } s))

/-! What a step leaves alone -/

/-- Two states that differ at most in event counters of the trace unit and in the wraps that these announce (14 R343). -/
structure Counts (s s' : State) : Prop where
  rest : { s' with tiles := s.tiles, pend := s.pend } = s
  tiles : ∀ n, { s'.tile n with pmc := (s.tile n).pmc } = s.tile n
  kept : ∀ d ∈ s.pend, d ∈ s'.pend
  wraps : ∀ d ∈ s'.pend, d ∈ s.pend ∨ ∃ n k, d.ev = .counterWrap n k

/-- s' is s1, an instruction's effect, with the slot's turn taken, but for event counters: all that s1 holds beside is in s'. -/
def Did (s1 s' : State) : Prop := Counts (turnTaken s1) s'

/-- Every byte of memory, and every seal, is as it was. -/
def SameMemory (s s' : State) : Prop := (∀ a, s'.byte a = s.byte a) ∧ s'.seals = s.seals

end Sys2Proof.Machine
end

