-- ==== Sys2Proof/Certificates/Slice0/Obligations.lean ====
section
/-! DEFINITION. The statements for the provers. Each says what an instruction or the machine does, in the words of the rule that
its docstring names; the tables before them give the rules' formulas for the instructions of one shape. -/

namespace Sys2Proof.Claims

open Sys2Proof.Machine

/-! Scalar formulas (04 R86 to R90) -/

/-- 1 where a comparison holds, else 0 (R86). -/
def flag (p : Prop) [Decidable p] : Word := if p then 1 else 0

/-- A shift amount: bits 5 to 0 (R86). -/
def amount (b : Word) : Nat := b.toNat % 64

/-- What R86 computes from x[a] and x[b], by func value. -/
def alu (func : Nat) (a b : Word) : Word :=
  match func with
  | 0x00 => BitVec.ofNat 64 (a.toNat + b.toNat)
  | 0x01 => BitVec.ofInt 64 (a.toNat - b.toNat)
  | 0x02 => a &&& b
  | 0x03 => a ||| b
  | 0x04 => a ^^^ b
  | 0x05 => a &&& ~~~b
  | 0x06 => BitVec.ofNat 64 (a.toNat * 2 ^ amount b)
  | 0x07 => BitVec.ofNat 64 (a.toNat / 2 ^ amount b)
  | 0x08 => BitVec.ofInt 64 (a.toInt / 2 ^ amount b)
  | 0x09 => flag (a.toInt < b.toInt)
  | 0x0A => flag (a.toNat < b.toNat)
  | 0x0B => BitVec.ofInt 64 (min a.toInt b.toInt)
  | 0x0C => BitVec.ofInt 64 (max a.toInt b.toInt)
  | 0x0D => BitVec.ofNat 64 (min a.toNat b.toNat)
  | 0x0E => BitVec.ofNat 64 (max a.toNat b.toNat)
  | _ => 0

/-- The instructions of R86 with their func values. -/
def aluForm : Instr → Option (Nat × AForm)
  | .add f => some (0x00, f) | .sub f => some (0x01, f) | .and f => some (0x02, f) | .or f => some (0x03, f)
  | .xor f => some (0x04, f) | .andn f => some (0x05, f) | .sll f => some (0x06, f) | .srl f => some (0x07, f)
  | .sra f => some (0x08, f) | .slt f => some (0x09, f) | .sltc f => some (0x0A, f) | .min f => some (0x0B, f)
  | .max f => some (0x0C, f) | .minc f => some (0x0D, f) | .maxc f => some (0x0E, f)
  | _ => none

/-- The instructions of R87 with the func value of R86 whose operation they are, their immediates extended. -/
def immForm : Instr → Option (Nat × Bool × Reg × Reg × Word)
  | .addi f => some (0x00, f.w, f.d, f.a, f.imm.signExtend 64) | .andi f => some (0x02, f.w, f.d, f.a, f.imm.signExtend 64)
  | .ori f => some (0x03, f.w, f.d, f.a, f.imm.signExtend 64) | .xori f => some (0x04, f.w, f.d, f.a, f.imm.signExtend 64)
  | .slli w d a n => some (0x06, w, d, a, n.setWidth 64) | .srli w d a n => some (0x07, w, d, a, n.setWidth 64)
  | .srai w d a n => some (0x08, w, d, a, n.setWidth 64)
  | .slti f => some (0x09, f.w, f.d, f.a, f.imm.signExtend 64) | .sltci f => some (0x0A, f.w, f.d, f.a, f.imm.signExtend 64)
  | _ => none

/-- The short products of R88, and MULI of R87: the destination, the factors' value in a thread, and the product's 64 bits. -/
def product (t : Thread) : Instr → Option (Bool × Reg × Word)
  | .mul f => some (f.w, f.d, BitVec.ofInt 64 ((t.getX f.a).toInt * (t.getX f.b).toInt))
  | .mulh f => some (f.w, f.d, BitVec.ofInt 64 ((t.getX f.a).toInt * (t.getX f.b).toInt / 2 ^ 64))
  | .mulhc f => some (f.w, f.d, BitVec.ofNat 64 ((t.getX f.a).toNat * (t.getX f.b).toNat / 2 ^ 64))
  | .muli f => some (f.w, f.d, BitVec.ofInt 64 ((t.getX f.a).toInt * f.imm.toInt))
  | _ => none

/-- The quotients and remainders of R88. -/
def quotient : Instr → Option (AForm × (Word → Word → Word))
  | .div f => some (f, fun a b => if b = 0 then -1 else BitVec.ofInt 64 (a.toInt.tdiv b.toInt))
  | .divc f => some (f, fun a b => if b = 0 then -1 else BitVec.ofNat 64 (a.toNat / b.toNat))
  | .rem f => some (f, fun a b => if b = 0 then a else BitVec.ofInt 64 (a.toInt.tmod b.toInt))
  | .remc f => some (f, fun a b => if b = 0 then a else BitVec.ofNat 64 (a.toNat % b.toNat))
  | _ => none

/-- The field that x[b] describes in R89: its lowest bit, and its width cut short at bit 63. -/
def fieldAt (b : Word) : Nat := b.toNat % 64
def fieldBits (b : Word) : Nat := min (b.toNat / 256 % 64 + 1) (64 - fieldAt b)

/-- What R89 says of an operation's result v, from x[d], x[a] and x[b] before it. -/
def BitResult (v d a b : Word) : Instr → Prop
  | .clz .. => v.toNat ≤ 64 ∧ (∀ i < v.toNat, a.getLsbD (63 - i) = false) ∧ (v.toNat < 64 → a.getLsbD (63 - v.toNat) = true)
  | .ctz .. => v.toNat ≤ 64 ∧ (∀ i < v.toNat, a.getLsbD i = false) ∧ (v.toNat < 64 → a.getLsbD v.toNat = true)
  | .cntb .. => v.toNat = (List.range 64).countP (fun i => a.getLsbD i)
  | .rev8 .. => ∀ i < 64, v.getLsbD i = a.getLsbD (8 * (7 - i / 8) + i % 8)
  | .bext _ => ∀ i < 64, v.getLsbD i = a.getLsbD (fieldAt b + min i (fieldBits b - 1))
  | .bextc _ => ∀ i < 64, v.getLsbD i = (decide (i < fieldBits b) && a.getLsbD (fieldAt b + i))
  | .bins _ => ∀ i < 64, v.getLsbD i =
      if fieldAt b ≤ i ∧ i < fieldAt b + fieldBits b then a.getLsbD (i - fieldAt b) else d.getLsbD i
  | _ => False

/-- The operands of the instructions of R89; those with one source name x0 for the other. -/
def bitForm : Instr → Option AForm
  | .clz w d a => some ⟨w, d, a, 0⟩ | .ctz w d a => some ⟨w, d, a, 0⟩ | .cntb w d a => some ⟨w, d, a, 0⟩
  | .rev8 w d a => some ⟨w, d, a, 0⟩ | .bext f => some f | .bextc f => some f | .bins f => some f
  | _ => none

/-- The 64-bit forms of R90 with their func values. -/
def alu64Form : Instr → Option (Nat × VForm)
  | .scalar64Add f => some (0x00, f) | .scalar64Sub f => some (0x01, f) | .scalar64And f => some (0x02, f)
  | .scalar64Or f => some (0x03, f) | .scalar64Xor f => some (0x04, f) | .scalar64Andn f => some (0x05, f)
  | .scalar64Sll f => some (0x06, f) | .scalar64Srl f => some (0x07, f) | .scalar64Sra f => some (0x08, f)
  | .scalar64Slt f => some (0x09, f) | .scalar64Sltc f => some (0x0A, f) | .scalar64Min f => some (0x0B, f)
  | .scalar64Max f => some (0x0C, f) | .scalar64Minc f => some (0x0D, f) | .scalar64Maxc f => some (0x0E, f)
  | _ => none

/-- The conditions of R93. -/
def branchForm : Instr → Option (BForm × (Word → Word → Bool))
  | .beq f => some (f, fun a b => decide (a.toNat = b.toNat)) | .bne f => some (f, fun a b => decide (a.toNat ≠ b.toNat))
  | .blt f => some (f, fun a b => decide (a.toInt < b.toInt)) | .bge f => some (f, fun a b => decide (b.toInt ≤ a.toInt))
  | .bltc f => some (f, fun a b => decide (a.toNat < b.toNat)) | .bgec f => some (f, fun a b => decide (b.toNat ≤ a.toNat))
  | _ => none

/-- A jump from an instruction's address over a signed count of words, modulo 32,768 (R93, R94). -/
def jumpTo (pc : BitVec 15) (words : Int) : BitVec 15 := BitVec.ofInt 15 (pc.toNat + 4 * words)

/-- An x operand code (02 R41). -/
def IsX (c : OpCode) : Prop := 424 ≤ c.toNat ∧ c.toNat < 456
/-- The register that an x code names. -/
def xOf (c : OpCode) : Reg := BitVec.ofNat 5 (c.toNat - 424)

/-- Coordinate j of an index q under extents, of c in all (R92). -/
def coordinate (e : Nat → Nat) (c q j : Nat) : Nat :=
  let rest := q / ((List.range j).map e).prod
  if j + 1 < c then rest % e j else rest

/-- The extent e j of a thread's shape entry (R91). -/
def extent (t : Thread) (entry : BitVec 3) (j : Nat) : Nat := ((t.shape[entry.toNat]?.getD (Vector.replicate 4 1))[j]?.getD 0).toNat

/-! Control registers (03 R70 to R72) -/

/-- The lowest mode that reads a control register, and what it reads, by number (R70, R71, R80). -/
def crValue (s : State) (w : Who) (t : Thread) : Nat → Option (Nat × Word)
  | 0x000 => some (0, BitVec.ofNat 64 (t.status.mode.toNat + 4 * t.status.pmode.toNat + 16 * t.status.ie.toNat +
      32 * t.status.pie.toNat + 64 * t.status.inh.toNat + 128 * t.status.spt.toNat))
  | 0x001 => some (1, t.cause.setWidth 64) | 0x002 => some (1, t.info) | 0x003 => some (1, t.epc) | 0x004 => some (1, t.fpc)
  | 0x005 => some (1, t.tvec) | 0x006 => some (3, t.ftvec) | 0x007 => some (1, t.ienable.setWidth 64)
  | 0x008 => some (1, t.ipend.setWidth 64) | 0x009 => some (1, t.scratch)
  | 0x010 => some (0, t.fflags.setWidth 64) | 0x011 => some (0, t.fmode.setWidth 64) | 0x012 => some (0, t.srseed.setWidth 64)
  | 0x020 => some (0, t.item.setWidth 64) | 0x021 => some (0, BitVec.ofNat 64 w.slot) | 0x022 => some (0, BitVec.ofNat 64 w.tile)
  | 0x023 => some (0, BitVec.ofNat 64 t.outst.length) | 0x024 => some (0, BitVec.ofNat 64 s.cycle)
  | 0x025 => some (1, t.timecmp)
  | 0x026 => some (0, BitVec.ofNat 64 (t.mpc.toNat + 2 ^ 32 * (t.vwritten % 64) + 2 ^ 40 * (t.gated.length % 128)))
  | 0x027 => some (0, t.ttab.setWidth 64)
  | _ => none

/-- The lowest mode that writes a control register, and the thread with a value written, by number; reserved bits are dropped, and
the low two bits of an address too (R70 to R72, R75). -/
def crWritten (t : Thread) (v : Word) : Nat → Option (Nat × Thread)
  | 0x000 => some (1, { t with status := { t.status with
      spt := v.getLsbD 7, inh := v.getLsbD 6, pie := v.getLsbD 5, ie := v.getLsbD 4, pmode := BitVec.ofNat 2 (v.toNat / 4) } })
  | 0x001 => some (1, { t with cause := BitVec.ofNat 12 v.toNat }) | 0x002 => some (1, { t with info := v })
  | 0x003 => some (1, { t with epc := BitVec.ofNat 64 (v.toNat / 4 * 4) }) | 0x004 => some (1, { t with fpc := v })
  | 0x005 => some (1, { t with tvec := BitVec.ofNat 64 (v.toNat / 4 * 4) }) | 0x006 => some (3, { t with ftvec := v })
  | 0x007 => some (1, { t with ienable := BitVec.ofNat 8 v.toNat }) | 0x008 => some (1, { t with ipend := BitVec.ofNat 8 v.toNat })
  | 0x009 => some (1, { t with scratch := v })
  | 0x010 => some (0, { t with fflags := BitVec.ofNat 7 v.toNat })
  | 0x011 => some (0, { t with fmode := if v.toNat % 8 < 6 then BitVec.ofNat 3 v.toNat else 0 })
  | 0x012 => some (0, { t with srseed := BitVec.ofNat 32 v.toNat, gen := seedGens (BitVec.ofNat 32 v.toNat) })
  | 0x025 => some (1, { t with timecmp := v })
  | _ => none

/-- The control registers whose CRW is not committing (03 R82). -/
def plainCr (r : Nat) : Prop := r = 0x008 ∨ r = 0x010 ∨ r = 0x011 ∨ r = 0x012

/-- The kernel-mode instructions of R50 but CRR and CRW, and SPAWN with eviction (07 R189). -/
def kernelOnly : Instr → Prop
  | .tret _ | .segw .. | .launch .. | .rankw .. | .rankwInv .. | .pmcs .. | .rplyStart .. | .rplyRestore .. | .rplyEnd ..
  | .dstop .. | .dstopTrap .. | .spawnEvict .. => True
  | _ => False

/-- The value of a segment register that SEGW writes from its two words (03 R73, 04 R112). -/
def segValue (lo hi : Word) : Seg :=
  { kind := BitVec.ofNat 4 (hi.toNat / 2 ^ 60), rights := BitVec.ofNat 5 (hi.toNat / 2 ^ 55)
    limit := BitVec.ofNat 48 hi.toNat, base := BitVec.ofNat 56 lo.toNat }

/-- The segment values that R73 accepts: kinds 0 to 2, reserved bits zero, and SRAM segments inside the data SRAM. -/
def SegLegal (lo hi : Word) : Prop :=
  hi.toNat / 2 ^ 60 ≤ 2 ∧ hi.toNat / 2 ^ 48 % 128 = 0 ∧ lo.toNat < 2 ^ 56 ∧
    (hi.toNat / 2 ^ 60 = 2 → lo.toNat + hi.toNat % 2 ^ 48 ≤ 393215)

/-! Loads, stores and atomics (04 R98 to R105) -/

/-- Size, sign extension and operands of the scalar loads (R98). -/
def loadForm : Instr → Option (Nat × Bool × MForm)
  | .ld8 f => some (1, true, f) | .ld16 f => some (2, true, f) | .ld32 f => some (4, true, f) | .ld64 f => some (8, true, f)
  | .ldc8 f => some (1, false, f) | .ldc16 f => some (2, false, f) | .ldc32 f => some (4, false, f)
  | _ => none

/-- Size and operands of the scalar stores (R98). -/
def storeForm : Instr → Option (Nat × MForm)
  | .st8 f => some (1, f) | .st16 f => some (2, f) | .st32 f => some (4, f) | .st64 f => some (8, f)
  | _ => none

/-- The operation code, the width and the operands of the atomics and of CAS, whose code is 0x1F (R102, R104). -/
def atomicForm : Instr → Option (Nat × Bool × AtForm)
  | .aadd64 f => some (0, true, f) | .aand64 f => some (1, true, f) | .aor64 f => some (2, true, f) | .axor64 f => some (3, true, f)
  | .amin64 f => some (4, true, f) | .amax64 f => some (5, true, f) | .aminc64 f => some (6, true, f)
  | .amaxc64 f => some (7, true, f) | .aswp64 f => some (8, true, f)
  | .aadd32 f => some (0, false, f) | .aand32 f => some (1, false, f) | .aor32 f => some (2, false, f)
  | .axor32 f => some (3, false, f) | .amin32 f => some (4, false, f) | .amax32 f => some (5, false, f)
  | .aminc32 f => some (6, false, f) | .amaxc32 f => some (7, false, f) | .aswp32 f => some (8, false, f)
  | .afadd f => some (9, false, f) | .cas64 f => some (0x1F, true, f) | .cas32 f => some (0x1F, false, f)
  | _ => none

/-- What an access of the M-format loads and stores and of the atomics does: its right, its segment, the segment offset x[base] +
offset, its size, and the wait marker (R98, R102). -/
def pieceForm (t : Thread) (i : Instr) : Option (Need × BitVec 3 × Nat × Nat × Bool) :=
  match loadForm i, storeForm i, atomicForm i with
  | some (n, _, f), _, _ => some (.read, f.seg, (t.getX f.base).toNat + f.off.toNat * n, n, f.w)
  | _, some (n, f), _ => some (.write, f.seg, (t.getX f.base).toNat + f.off.toNat * n, n, f.w)
  | _, _, some (_, wide, f) => some (.atomic, f.seg, (t.getX f.a).toNat, if wide then 8 else 4, f.w)
  | _, _, _ => none

/-- The segment gives the right, and the remote right for an address of another rank (03 R73, R74). -/
def RightsOk (s : State) (g : Seg) (need : Need) (off : Nat) : Prop :=
  (g.kind = 1 ∨ g.kind = 2) ∧ g.rights.getLsbD need.bit = true ∧
    (g.kind = 1 → g.addr off / 2 ^ 44 % 4096 = s.pkg.rank ∨ g.rights.getLsbD 4 = true)

/-- A range of the present tile's own SRAM that no closed bank and no lock keeps threads from (07 R168, R175). -/
def OwnOpen (s : State) (need : Need) (first size : Nat) : Prop :=
  (s.tile s.cur.tile).shutGranule first size = none ∧ (s.tile s.cur.tile).locked false need.writes first (first + size - 1) = false

/-- All checks of an access of one piece pass (03 R74, 04 R98). -/
def PieceOk (s : State) (g : Seg) (need : Need) (off size : Nat) : Prop :=
  RightsOk s g need off ∧ off + size ≤ g.limit.toNat + 1 ∧ g.addr off % size = 0 ∧
    (g.kind = 2 → OwnOpen s need (g.addr off) size)

/-- The bits of size bytes from a byte of a granule. -/
def byteBits (byte size : Nat) : BitVec 32 := BitVec.ofNat 32 ((2 ^ size - 1) * 2 ^ byte)

/-- The new value that an atomic writes over an old one of w bits, none where CAS does not store (R102, R104). -/
def atomicValue (op w old operand expected : Nat) : Option Nat :=
  let int (n : Nat) : Int := (BitVec.ofNat w n).toInt
  match op with
  | 0 => some ((old + operand) % 2 ^ w)
  | 1 => some (old &&& operand) | 2 => some (old ||| operand) | 3 => some (old ^^^ operand)
  | 4 => some (if int operand < int old then operand else old)
  | 5 => some (if int old < int operand then operand else old)
  | 6 => some (if operand < old then operand else old)
  | 7 => some (if old < operand then operand else old)
  | 8 => some operand
  | 9 => some (addF32 .rne old operand).1
  | _ => if old = expected then some operand else none

/-! Vector formulas (05 R114 to R136) -/

/-- How a vector instruction makes each element of its result from its sources taken whole: the element's width, the width to which
an x source is broadcast, the tag a queue or stream source carries, whether it has no b, whether d is a source too, whether it
rounds under its round field (and then whether to a narrow type), its fixed latency where it is long, which elements it computes
under a mask, and the element itself from the mask, a, b, d, its number and the rounding mode. -/
structure Lane where
  f : VForm
  w : Nat
  sw : Nat
  tag : BitVec 6
  unary : Bool := false
  three : Bool := false
  rounds : Option Bool := none
  latency : Option Nat := none
  active : BitVec 32 → Nat → Bool
  out : BitVec 32 → Nat → Nat → Nat → Nat → Mode → Nat × Flags

/-- An instruction that works element by element on its etype (R114). -/
def perElement (f : VForm) (g : Nat → Nat → Nat → Mode → Nat × Flags) : Lane :=
  let w := etBits f.et
  { f := f, w := w, sw := w, tag := tagOfEt f.et, active := fun k j => k.getLsbD (j * w / 8)
    out := fun _ a b d j m => g (elem a w j) (elem b w j) (elem d w j) m }

/-- A floating instruction that rounds. -/
def floating (f : VForm) (g : Fmt → Nat → Nat → Nat → Mode → Nat × Flags) : Lane :=
  { perElement f (g (fmtOf f.et)) with rounds := some (narrowType f.et) }

/-- An SFU operation: 16 cycles (R126). -/
def sfuLane (f : VForm) (g : Machine.Num → Machine.Num × Flags) : Lane :=
  { floating f fun F a _ _ m => rounded F m (g (.ofBits F a)) with unary := true, latency := some 16 }

/-- An integer instruction on the etype's values, its exact result wrapped (R123). -/
def wrapping (f : VForm) (g : Int → Int → Int → Int) : Lane :=
  perElement f fun a b d _ => ((g (elemInt f.et a) (elemInt f.et b) (elemInt f.et d) % 2 ^ etBits f.et).toNat, {})

/-- An integer instruction whose exact result is held within the type's range, setting saturate beyond it (R123). -/
def clamping (f : VForm) (g : Int → Int → Int) : Lane :=
  perElement f fun a b _ _ =>
    let x := g (elemInt f.et a) (elemInt f.et b)
    let lo : Int := if etSigned f.et then -(2 ^ (etBits f.et - 1)) else 0
    let hi : Int := if etSigned f.et then 2 ^ (etBits f.et - 1) - 1 else 2 ^ etBits f.et - 1
    ((max lo (min hi x) % 2 ^ etBits f.et).toNat, if x < lo ∨ hi < x then flagSaturate else {})

/-- An instruction that picks its elements from the whole sources (R132). -/
def pickLane (f : VForm) (g : BitVec 32 → Nat → Nat → Nat → Nat) : Lane :=
  { perElement f fun _ _ _ _ => (0, {}) with out := fun k a b _ j _ => (g k a b j, {}) }

/-- The instructions of R118 to R132 that write one register's elements. -/
def laneForm : Instr → Option Lane
  | .vaddFloat f => some (floating f fun F a b _ m => fAdd F a b m)
  | .vsubFloat f => some (floating f fun F a b _ m => fSub F a b m)
  | .vmulFloat f => some (floating f fun F a b _ m => fMul F a b m)
  | .vdiv f => some { floating f fun F a b _ m => fDiv F a b m with latency := some 38 }
  | .vfma f => some { floating f fun F a b d m => fFma F false false a b d m with three := true }
  | .vfms f => some { floating f fun F a b d m => fFma F false true a b d m with three := true }
  | .vfnma f => some { floating f fun F a b d m => fFma F true false a b d m with three := true }
  | .vsqrt f => some { floating f fun F a _ _ m => rounded F m (sqrtNum (.ofBits F a)) with unary := true, latency := some 38 }
  | .vminFloat f => some (perElement f fun a b _ _ => minMax (fmtOf f.et) false false a b)
  | .vmaxFloat f => some (perElement f fun a b _ _ => minMax (fmtOf f.et) true false a b)
  | .vminn f => some (perElement f fun a b _ _ => minMax (fmtOf f.et) false true a b)
  | .vmaxn f => some (perElement f fun a b _ _ => minMax (fmtOf f.et) true true a b)
  | .vabs f => some { perElement f fun a _ _ _ => (a % 2 ^ (etBits f.et - 1), {}) with unary := true }
  | .vneg f => some { perElement f fun a _ _ _ => (a ^^^ 2 ^ (etBits f.et - 1), {}) with unary := true }
  | .vexp2 f => some (sfuLane f exp2Num) | .vlog2 f => some (sfuLane f log2Num)
  | .vrcp f => some (sfuLane f rcpNum) | .vrsq f => some (sfuLane f rsqNum)
  | .vaddInt f => some (wrapping f fun a b _ => a + b) | .vsubInt f => some (wrapping f fun a b _ => a - b)
  | .vmulInt f => some (wrapping f fun a b _ => a * b) | .vmulh f => some (wrapping f fun a b _ => a * b / 2 ^ etBits f.et)
  | .vmad f => some { wrapping f fun a b d => d + a * b with three := true }
  | .vadds f => some (clamping f fun a b => a + b) | .vsubs f => some (clamping f fun a b => a - b)
  | .vminInt f => some (wrapping f fun a b _ => if a < b then a else b)
  | .vmaxInt f => some (wrapping f fun a b _ => if a < b then b else a)
  | .vand f => some (perElement f fun a b _ _ => (a &&& b, {})) | .vor f => some (perElement f fun a b _ _ => (a ||| b, {}))
  | .vxor f => some (perElement f fun a b _ _ => (a ^^^ b, {}))
  | .vandn f => some (perElement f fun a b _ _ => (a &&& (2 ^ etBits f.et - 1 - b), {}))
  | .vsll f => some (perElement f fun a b _ _ => (a * 2 ^ (b % etBits f.et), {}))
  | .vsrl f => some (perElement f fun a b _ _ => (a / 2 ^ (b % etBits f.et), {}))
  | .vsra f => some (perElement f fun a b _ _ =>
      (((intOf true (etBits f.et) a / 2 ^ (b % etBits f.et)) % 2 ^ etBits f.et).toNat, {}))
  | .vdotFloat f => some
      { perElement f fun _ _ _ _ => (0, {}) with
        w := 32, three := true, rounds := some false, active := fun k j => k.getLsbD (4 * j)
        out := fun _ a b d j m => dotFloat (fmtOf f.et) (elem a 32 j) (elem b 32 j) (elem d 32 j) m }
  | .vdotInt f => some
      { perElement f fun _ _ _ _ => (0, {}) with
        w := 32, three := true, active := fun k j => k.getLsbD (4 * j)
        out := fun _ a b d j _ =>
          let p (i : Nat) : Int := elemInt f.et (elem (elem a 32 j) (etBits f.et) i) * elemInt f.et (elem (elem b 32 j) (etBits f.et) i)
          ((((List.range (32 / etBits f.et)).map p).sum + elem d 32 j : Int) % 2 ^ 32 |>.toNat, {}) }
  | .vcvt f => some
      { perElement f fun a _ _ m => convert f.et f.srcType m a with
        unary := true, rounds := if f.cvtExact then none else some (narrowType f.et), tag := srcTag f.srcType }
  | .vmov f => some { perElement f fun a _ _ _ => (a, {}) with unary := true }
  | .vperm f => some (pickLane f fun _ a b j =>
      let w := etBits f.et
      if elem b w j < 256 / w then elem a w (elem b w j) else 0)
  | .vslide f => some (pickLane f fun _ a b j =>
      let w := etBits f.et
      let n := f.imm.toNat % 128
      if j + n < 256 / w then elem a w (j + n) else if j + n < 512 / w then elem b w (j + n - 256 / w) else 0)
  | .vsel f => some
      { pickLane f fun k a b j => if k.getLsbD (j * etBits f.et / 8) then elem a (etBits f.et) j else elem b (etBits f.et) j with
        active := fun _ _ => true }
  | .vbcast f => some { pickLane f fun _ a _ _ => elem a (etBits f.et) (f.imm.toNat % 128) with unary := true }
  | _ => none

/-- The second source of an instruction, x0 where it has none. -/
def Lane.b (l : Lane) : OpCode := if l.unary then 424 else l.f.b
def Lane.kb (l : Lane) : BitVec 2 := if l.unary then 0 else l.f.kb

/-- What the issue of such an instruction depends on. -/
def Lane.opts (l : Lane) : Opts :=
  { w := l.f.w, len := 8, long := l.latency.isSome || slowSource l.f.a || slowSource l.b, commits := commitsBy l.f.d l.f.a l.b
    vregs := vDest l.f.d }

/-- The operand kinds and windows of R41 to R43 hold; a broadcast's index names an element, 0 for an x source (R132). -/
def Lane.Legal (l : Lane) (t : Thread) (i : Instr) : Prop :=
  operandOk t (if l.three then [.v] else dstKinds) l.f.d 0 = true ∧ operandOk t srcKinds l.f.a l.f.ka = true ∧
    operandOk t srcKinds l.b l.kb = true ∧
    match i with
    | .vbcast f => f.imm.toNat % 128 < 256 / etBits f.et ∧ (f.imm.toNat % 128 = 0 ∨ ¬ IsX f.a)
    | _ => True

/-- n steps of a generator (01 R26). -/
def genSteps : Nat → BitVec 32 → BitVec 32
  | 0, g => g
  | n + 1, g => genSteps n (genStep g)

/-- The round field, or cr.fmode where it says so (01 R25). -/
def Lane.code (l : Lane) (t : Thread) : Nat := if l.f.round = 6 then t.fmode.toNat else l.f.round.toNat

/-- The instruction draws: it rounds to a narrow type under SR. -/
def Lane.draws (l : Lane) (t : Thread) : Bool := l.rounds == some true && l.code t == 5

/-- The computed elements below n whose lowest bit stands in a 32-bit lane. -/
def Lane.drawn (l : Lane) (k : BitVec 32) (lane n : Nat) : Nat :=
  ((List.range n).filter fun i => l.active k i && i * l.w / 32 == lane).length

/-- The rounding mode of element j (01 R25, R26). -/
def Lane.mode (l : Lane) (t : Thread) (k : BitVec 32) (j : Nat) : Mode :=
  if l.draws t then
    .sr ((genSteps (l.drawn k (j * l.w / 32) (j + 1)) (t.gen[j * l.w / 32]?.getD 0)).extractLsb' 8 24)
  else if l.rounds.isNone then .rne
  else match l.code t with
    | 1 => .rtz | 2 => .rup | 3 => .rdn | 4 => .rna | _ => .rne

/-- Element j of the result, with its flags. -/
def Lane.result (l : Lane) (t : Thread) (a b d : Vec) (j : Nat) : Nat × Flags :=
  l.out (t.getK l.f.mask) a.toNat b.toNat d.toNat j (l.mode t (t.getK l.f.mask) j)

/-- The flags of the computed elements together. -/
def Lane.flags (l : Lane) (t : Thread) (a b d : Vec) : BitVec 7 :=
  (List.range (256 / l.w)).foldl (fun x j =>
    if l.active (t.getK l.f.mask) j then x ||| (l.result t a b d j).2.toBits else x) 0

/-- The generators after the instruction. -/
def Lane.gen (l : Lane) (t : Thread) : Vector (BitVec 32) 8 :=
  Vector.ofFn fun i => if l.draws t then genSteps (l.drawn (t.getK l.f.mask) i (256 / l.w)) t.gen[i] else t.gen[i]

/-- The bits that an instruction computes and which they are: every computed element, and no other. -/
def Lane.Makes (l : Lane) (t : Thread) (a b d value mask : Vec) : Prop :=
  ∀ j < 256 / l.w,
    if l.active (t.getK l.f.mask) j then
      elem value.toNat l.w j = (l.result t a b d j).1 % 2 ^ l.w ∧ elem mask.toNat l.w j = 2 ^ l.w - 1
    else elem value.toNat l.w j = 0 ∧ elem mask.toNat l.w j = 0

/-- A v or x source at distance 0 as a register form reads it (02 R42). -/
def regSource (t : Thread) (sw : Nat) (c : OpCode) : Vec :=
  if c.toNat < 384 then t.getV c.toNat else broadcast sw (t.getX (xOf c))

/-- A v code within the window, or an x code, at distance 0. -/
def IsReg (t : Thread) (c : OpCode) (dist : BitVec 2) : Prop := dist = 0 ∧ (c.toNat < 384 ∧ c.toNat < t.window ∨ IsX c)

/-! Steps that the machine holds as data (00 R11) -/

/-- An instruction is the row of the opcode table that a slot operation is. -/
def IsSlot (i : Instr) : SlotOp → Prop
  | .mma acc ringa ringb fmt za zb s fresh sat => i = .mma acc ringa ringb fmt za zb s fresh sat
  | .mmasp acc ringa ringb fmt fresh sat => i = .mmasp acc ringa ringb fmt fresh sat
  | .mmat acc ringa ringb fresh sat => i = .mmat acc ringa ringb fresh sat | .mzero acc => i = .mzero acc
  | .mfy acc row y => i = .mfy acc row y | .vtAdd f => i = .vtAdd f | .vtSub f => i = .vtSub f | .vtMul f => i = .vtMul f
  | .vtFma f => i = .vtFma f | .vtMax f => i = .vtMax f | .vtMin f => i = .vtMin f | .vtExp2 f => i = .vtExp2 f
  | .vtCvt d a dst src part rnd => i = .vtCvt d a dst src part rnd | .vtRmax f => i = .vtRmax f | .vtRsum f => i = .vtRsum f
  | .vtBcast d a e => i = .vtBcast d a e | .yfa d acc row => i = .yfa d acc row | .ldr lb g ring n => i = .ldr lb g ring n
  | .ldy lb g y => i = .ldy lb g y | .ldu lb g y pat => i = .ldu lb g y pat | .sty lb g y tag => i = .sty lb g y tag
  | .agset lb g granule => i = .agset lb g granule | .hld lb h l n lead => i = .hld lb h l n lead
  | .hst lb h l n lead => i = .hst lb h l n lead | .zld z g => i = .zld z g | .zsplat z code => i = .zsplat z code
  | .zfy z y => i = .zfy z y
  | .lsend port g n => i = .lsend port g n | .lrecv port g n => i = .lrecv port g n
  | .lpass portI portO n => i = .lpass portI portO n
  | .cset c value => i = .cset c value | .cfp c p => i = .cfp c p | .cfy c y e => i = .cfy c y e
  | .wopen win granule => i = .wopen win granule
  | .wcloseDefault win => i = .wcloseDefault win | .wcloseStall win timeout => i = .wcloseStall win timeout
  | .swaph cond p => i = .swaph cond p

/-- An instruction is the row of the opcode table that an event is; the model's own sub-steps are no rows. -/
def IsEvent (i : Instr) : Event → Prop
  | .longResultLands who tok => i = .longResultLands who tok | .storeReleasePerforms id => i = .storeReleasePerforms id
  | .deferredArmPush tile => i = .deferredArmPush tile | .atomicAtOwner id => i = .atomicAtOwner id
  | .trapEntry who => i = .trapEntry who | .interrupt who => i = .interrupt who
  | .timerInterrupt who => i = .timerInterrupt who | .forwardingDelivery id => i = .forwardingDelivery id
  | .itemAdvanceReport who => i = .itemAdvanceReport who | .portSendArrival pkt => i = .portSendArrival pkt
  | .doorbellArrival pkt => i = .doorbellArrival pkt | .streamPrefetch tile s => i = .streamPrefetch tile s
  | .streamDrain tile s => i = .streamDrain tile s | .spawnStateArrival pkt => i = .spawnStateArrival pkt
  | .stealRequestArrival pkt => i = .stealRequestArrival pkt | .victimRestore who => i = .victimRestore who
  | .barrierArrival cluster num serial => i = .barrierArrival cluster num serial
  | .waitcReread who => i = .waitcReread who | .waitcTimeout who => i = .waitcTimeout who
  | .rangeLockRetry cluster op => i = .rangeLockRetry cluster op
  | .engineAccept cluster op => i = .engineAccept cluster op
  | .engineGranuleWrite cluster op => i = .engineGranuleWrite cluster op | .portAccess id => i = .portAccess id
  | .packetHop pkt => i = .packetHop pkt | .routeInvalidNotice pkt index => i = .routeInvalidNotice pkt index
  | .done launch tile => i = .done launch tile | .joinUpdate launch => i = .joinUpdate launch
  | .launchAbandon launch cls => i = .launchAbandon launch cls | .regionStart region => i = .regionStart region
  | .timedResultLands tile id => i = .timedResultLands tile id | .hldDeadline tile id => i = .hldDeadline tile id
  | .hbmBurstComplete id => i = .hbmBurstComplete id | .hbmCommandSlot pc => i = .hbmCommandSlot pc
  | .linkGranuleArrival tile port data sl damaged => i = .linkGranuleArrival tile port data sl damaged
  | .swapBoundary tile => i = .swapBoundary tile
  | .regionFault region tile cause sub info addr => i = .regionFault region tile cause sub info addr
  | .regionHalt region => i = .regionHalt region | .regionRollback region => i = .regionRollback region
  | .stewardRegionTrap region => i = .stewardRegionTrap region | .freeze region => i = .freeze region
  | .freezeEnd region => i = .freezeEnd region | .postTimeout tile win => i = .postTimeout tile win
  | .postArrival id => i = .postArrival id | .tilePartDone tile => i = .tilePartDone tile
  | .regionEnd region => i = .regionEnd region | .traceRingWrite die tile => i = .traceRingWrite die tile
  | .counterWrap tile n => i = .counterWrap tile n | .dump die => i = .dump die
  | .watchdogWrite die n value => i = .watchdogWrite die n value | .watchdogExpiry die n => i = .watchdogExpiry die n
  | .hostWrite addr bytes => i = .hostWrite addr bytes | .hostRead place size => i = .hostRead place size
  | .hostDoorbell tile slot => i = .hostDoorbell tile slot | .jobRecordTake => i = .jobRecordTake | .endJob => i = .endJob
  | .trainPort p trained => i = .trainPort p trained
  | .formGroup reached others tdepth tparent tchild => i = .formGroup reached others tdepth tparent tchild
  | .leaveGroup => i = .leaveGroup | .attestReport => i = .attestReport | .attestCertificate => i = .attestCertificate
  | .packagePageWrite off value => i = .packagePageWrite off value | .boot => i = .boot
  | .functionReady bit ok => i = .functionReady bit ok | .powerSample milliwatts => i = .powerSample milliwatts
  | .portLossOfLock p => i = .portLossOfLock p | .tokenArrival t => i = .tokenArrival t
  | .groupClockChange m => i = .groupClockChange m
  | .remoteRequest src tile slot va op => i = .remoteRequest src tile slot va op
  | .fabricTimeout id => i = .fabricTimeout id | .pageMove => i = .pageMove
  | .ueReceive mode src va op => i = .ueReceive mode src va op
  | .debugStopSlot who id => i = .debugStopSlot who id
  | .debugResume who => i = .debugResume who | .debugRegisterWrite who r value => i = .debugRegisterWrite who r value
  | .debugRegisterRead who r => i = .debugRegisterRead who r
  | .debugLockTableRead tile entry => i = .debugLockTableRead tile entry
  | .debugRegionHalt region => i = .debugRegionHalt region | .debugRegionResume region => i = .debugRegionResume region
  | .tfenceValidationLanding who => i = .tfenceValidationLanding who
  | .vstmDestinationWrite id => i = .vstmDestinationWrite id
  | .remoteReplyArrival id ans => i = .remoteReplyArrival id ans | .clockStopEnd => i = .clockStopEnd
  | .coolantTemperatureLimit => i = .coolantTemperatureLimit
  | .bootFlashRecoveryWrite copy image => i = .bootFlashRecoveryWrite copy image | .laneFailure l => i = .laneFailure l
  | .bankAccess _ | .threadFatal _ | .dispatch | .hostServe | .mapPublished => False


/-- The state of the instruction memories and of the one memory is in its canonical form: addresses strictly rising, and no entry
equal to what an unlisted one reads as. -/
def MemoryCanonical (s : State) : Prop :=
  s.mem.wf ∧ (s.seals.Pairwise (fun a b => a.1 < b.1) ∧ ∀ p ∈ s.seals, p.2 ≠ sealZero) ∧ ∀ p ∈ s.tiles, p.2.istore.wf

/-- Nothing but a turn of a thread is due on this step: no act fixed already, no act of an outside party, no completion. -/
def TurnOf (s : State) (w : Who) (t : Thread) : Prop :=
  s.todo = [] ∧ (∀ c ∈ s.inputs.head?, s.cycle < c.1) ∧ (∀ d ∈ s.pend.head?, s.cycle < d.due) ∧ nextAgent s = some (.thread w) ∧
    s.thread w = some t

/-! Comparisons, masks, reductions, scans and groups (05 R116, R120, R124, R129 to R136, 09 R252, R253) -/

/-- A vector comparison's predicate on two elements' codes (R120, R124). -/
def compareForm : Instr → Option (VForm × (Nat → Nat → Bool × Flags))
  | .vcmpFloat f => some (f, fun a b =>
      let x := Num.ofBits (fmtOf f.et) a
      let y := Num.ofBits (fmtOf f.et) b
      let nan := x.isNan || y.isNan
      let quiet : Flags := if x.isSig || y.isSig then flagInvalid else {}
      let loud : Flags := if nan then flagInvalid else {}
      match f.imm.toNat % 8 with
      | 0 => (x.eq y, quiet) | 1 => (!x.eq y, quiet)
      | 2 => (!nan && x.lt y, loud) | 3 => (!nan && (x.lt y || x.eq y), loud)
      | 4 => (!nan && y.lt x, loud) | 5 => (!nan && (y.lt x || x.eq y), loud)
      | 6 => (nan, quiet) | _ => (!nan, quiet))
  | .vcmpInt f => some (f, fun a b =>
      let x := elemInt f.et a
      let y := elemInt f.et b
      (match f.imm.toNat % 8 with
      | 0 => decide (x = y) | 1 => decide (x ≠ y) | 2 => decide (x < y) | 3 => decide (x ≤ y) | 4 => decide (y < x)
      | _ => decide (y ≤ x), {}))
  | _ => none

/-- The operations on masks, with whether they have one source only (R135). -/
def maskForm : Instr → Option (VForm × Bool × (BitVec 32 → BitVec 32 → BitVec 32))
  | .kand f => some (f, false, fun a b => a &&& b) | .kor f => some (f, false, fun a b => a ||| b)
  | .kxor f => some (f, false, fun a b => a ^^^ b) | .kandn f => some (f, false, fun a b => a &&& ~~~b)
  | .knot f => some (f, true, fun a _ => ~~~a) | .kmov f => some (f, true, fun a _ => a)
  | _ => none

/-- The active elements' codes of a source, in ascending order (02 R44). -/
def activeElems (w : Nat) (k : BitVec 32) (v : Nat) : List Nat :=
  ((List.range (256 / w)).filter fun j => k.getLsbD (j * w / 8)).map (elem v w)

/-- An integer reduction (R133). -/
def intRed (op : Nat) (et : BitVec 4) (cs : List Nat) : Word :=
  let w := etBits et
  let lo : Int := if etSigned et then -(2 ^ (w - 1)) else 0
  let hi : Int := if etSigned et then 2 ^ (w - 1) - 1 else 2 ^ w - 1
  match op with
  | 0 => BitVec.ofInt 64 (cs.map (elemInt et)).sum
  | 1 => BitVec.ofInt 64 ((cs.map (elemInt et)).foldr min hi)
  | 2 => BitVec.ofInt 64 ((cs.map (elemInt et)).foldr max lo)
  | 5 => BitVec.ofNat 64 (cs.foldr (· &&& ·) (2 ^ w - 1))
  | 6 => BitVec.ofNat 64 (cs.foldr (· ||| ·) 0)
  | _ => BitVec.ofNat 64 (cs.foldr (· ^^^ ·) 0)

/-- A balanced tree over 2 ^ n leaves from leaf i * 2 ^ n up, adjacent pairs first, with the flags of all its steps (R133). -/
def pairTree (g : Nat → Nat → Nat × Flags) (leaf : Nat → Nat) : Nat → Nat → Nat × BitVec 7
  | 0, i => (leaf i, 0)
  | n + 1, i =>
    let a := pairTree g leaf n (2 * i)
    let b := pairTree g leaf n (2 * i + 1)
    let r := g a.1 b.1
    (r.1, a.2 ||| b.2 ||| r.2.toBits)

/-- The value and the flags of a reduction (R133): a floating one widens to FP32, with the identity for inactive elements. -/
def redValue (op : Nat) (et : BitVec 4) (k : BitVec 32) (v : Nat) : Word × BitVec 7 :=
  let w := etBits et
  if etFloat et then
    let r := pairTree (floatCombine op) (fun j => if k.getLsbD (j * w / 8) then widen (fmtOf et) (elem v w j) else floatIdentity op)
      (256 / w).log2 0
    (BitVec.ofNat 64 r.1, r.2)
  else (intRed op et (activeElems w k v), 0)

/-- A scan as an element-wise instruction: only a floating sum rounds (R134). -/
def scanLane (f : VForm) : Lane :=
  { perElement f (fun _ _ _ _ => (0, {})) with
    unary := true, rounds := if etFloat f.et && f.imm.toNat % 8 == 0 then some (narrowType f.et) else none }

/-- The running value after the elements below n, none before the first active one, and the flags so far (R134). -/
def scanTo (f : VForm) (k : BitVec 32) (v : Nat) (m : Nat → Mode) : Nat → Option Nat × BitVec 7
  | 0 => (none, 0)
  | n + 1 =>
    let p := scanTo f k v m n
    if k.getLsbD (n * etBits f.et / 8) then
      let r := scanStep (f.imm.toNat % 8) f.et p.1 (elem v (etBits f.et) n) (m n)
      (some r.1, p.2 ||| r.2.toBits)
    else p

/-- An instruction on groups of whole registers: the elements of its result, their width, its destination and source registers,
which elements it computes, whether it rounds to a narrow type or at all, the elements themselves from the bits of its source
groups, and for VMXQ the word for x[b]. -/
structure Group where
  f : VForm
  n : Nat
  w : Nat
  regs : Nat
  src : Nat
  bsrc : Nat := 0
  rounds : Option Bool := none
  active : BitVec 32 → Nat → Bool := fun _ _ => true
  out : Nat → Nat → Nat → Mode → Nat × Flags
  scales : Option (Nat → Word) := none

/-- The instructions on groups (R116, R129 to R132, 09 R252, R253). -/
def groupForm : Instr → Option Group
  | .vcvtw f => some
      { f := f, n := 256 / f.srcWidth, w := etBits f.et, regs := etBits f.et / f.srcWidth, src := 1
        rounds := some (narrowType f.et && !f.cvtExact), active := fun k j => k.getLsbD (j * f.srcWidth / 8)
        out := fun a _ j m => convert f.et f.srcType m (elem a f.srcWidth j) }
  | .vcvtn f => some
      { f := f, n := 256 / etBits f.et, w := etBits f.et, regs := 1, src := f.srcWidth / etBits f.et
        rounds := some (narrowType f.et && !f.cvtExact), active := fun k j => k.getLsbD (j * etBits f.et / 8)
        out := fun a _ j m => convert f.et f.srcType m (elem a f.srcWidth j) }
  | .vmovm f => some
      { f := f, n := f.imm.toNat % 8 + 1, w := 256, regs := f.imm.toNat % 8 + 1, src := f.imm.toNat % 8 + 1
        out := fun a _ j _ => (elem a 256 j, {}) }
  | .vperm2 f => some
      { f := f, n := 512 / etBits f.et, w := etBits f.et, regs := 2, src := 2, bsrc := 2
        out := fun a b j _ =>
          let x := elem b (etBits f.et) j
          (if x < 512 / etBits f.et then elem a (etBits f.et) x else 0, {}) }
  | .vmxq f =>
      let F := (mxFormat (f.imm.toNat % 4)).1
      let blocks := (mxFormat (f.imm.toNat % 4)).2
      let block (a k : Nat) : List Nat := (List.range 32).map fun j => elem a 32 (32 * k + j)
      some
      { f := f, n := 32 * blocks, w := F.width, regs := 1, src := 4 * blocks, rounds := some true
        out := fun a _ j m => match mxScale F (block a (j / 32)) with
          | some x => mxElement F m x (elem a 32 j)
          | none => (0, {})
        scales := some fun a => BitVec.ofNat 64 (((List.range blocks).map fun k => (mxScale F (block a k)).getD 0xFF * 2 ^ (8 * k)).sum) }
  | .vspk f => some
      { f := f, n := 4, w := 256, regs := 4, src := 6
        out := fun a _ j _ =>
          let r := sparsePack f.et (if etBits f.et = 16 then 24 else 48) a
          (if j = 0 then r.1 else elem r.2 256 (j - 1), {}) }
  | .vupk f => some
      { f := f, n := 6, w := 256, regs := 6, src := 4
        out := fun a _ j _ =>
          let r := sparseUnpack f.et (if etBits f.et = 16 then 24 else 48) (a % 2 ^ 256) (a / 2 ^ 256)
          (elem r.1 256 j, if r.2 then flagInvalid else {}) }
  | _ => none

/-- A group of v registers at distance 0 within the window (R116). -/
def IsGroup (t : Thread) (c : OpCode) (dist : BitVec 2) (count : Nat) : Prop :=
  c.toNat < 384 ∧ dist = 0 ∧ c.toNat + count ≤ t.window

/-- The bits of a group, its first register lowest. -/
def bitsOf (t : Thread) (c : OpCode) (count : Nat) : Nat :=
  ((List.range count).map fun j => (t.getV (c.toNat + j)).toNat * 2 ^ (256 * j)).sum

def Group.regsOf (g : Group) : List Nat := (List.range g.regs).map (g.f.d.toNat + ·)
def Group.opts (g : Group) : Opts := { w := g.f.w, len := 8, vregs := g.regsOf }

def Group.draws (g : Group) (t : Thread) : Bool :=
  g.rounds == some true && (if g.f.round = 6 then t.fmode.toNat else g.f.round.toNat) == 5

/-- The computed elements below n whose lowest bit stands in a 32-bit lane of its register (01 R26). -/
def Group.drawn (g : Group) (k : BitVec 32) (lane n : Nat) : Nat :=
  ((List.range n).filter fun i => g.active k i && i * g.w % 256 / 32 == lane).length

def Group.mode (g : Group) (t : Thread) (j : Nat) : Mode :=
  let lane := j * g.w % 256 / 32
  if g.draws t then .sr ((genSteps (g.drawn (t.getK g.f.mask) lane (j + 1)) (t.gen[lane]?.getD 0)).extractLsb' 8 24)
  else if g.rounds.isNone then .rne
  else match (if g.f.round = 6 then t.fmode.toNat else g.f.round.toNat) with
    | 1 => .rtz | 2 => .rup | 3 => .rdn | 4 => .rna | _ => .rne

/-- Element j of the result, with its flags. -/
def Group.result (g : Group) (t : Thread) (j : Nat) : Nat × Flags :=
  g.out (bitsOf t g.f.a g.src) (bitsOf t g.f.b g.bsrc) j (g.mode t j)

/-! Vector memory (05 R137 to R145) -/

/-- A result outstanding with its granule requests, from the own tile's SRAM for 8 cycles at least, with spread one more for each
granule beyond the first: where the store buffer holds all it needs it is due then, else its accesses are on their way (04 R99, 05
R117). -/
def loading (o : Nat → Outst) (size byte : Nat) (spread : Bool) (s : State) : State :=
  let reqs := (o s.serial).reqs
  let due := s.cycle + 8 + if spread then reqs.length - 1 else 0
  let s' := addResult s fun tok => { o tok with lands := if reqs.all (·.key.isOwn) then due else s.cycle }
  if reqs.all (·.got.isSome) then s'.schedule due phaseLand (.longResultLands s.cur s.serial)
  else startRequests s.serial byte size spread s' 0 reqs

/-- The base of a vector memory instruction, and its segment (02 R47). -/
def vSegment (f : VForm) : BitVec 3 := f.imm.extractLsb' 10 3
def vOffset (t : Thread) (f : VForm) : Nat := (t.getX (xOf f.a)).toNat + f.imm.toNat % 1024 * 32

/-- The checks of an access of the granule at a segment offset whose bytes from first to last are used (05 R137, 03 R74). -/
def GranuleOk (s : State) (g : Seg) (need : Need) (off first last : Nat) : Prop :=
  RightsOk s g need off ∧ off + last < g.limit.toNat + 1 ∧ off % 32 = 0 ∧ g.addr off % 32 = 0 ∧
    (g.kind = 2 → OwnOpen s need (g.addr off + first) (last + 1 - first))

/-- The bytes of the active elements of a width (02 R44): byte b belongs to element 8 b / w. -/
def BytesOf (k : BitVec 32) (w : Nat) (bytes : BitVec 32) : Prop := ∀ b < 32, bytes.getLsbD b = k.getLsbD (b * 8 / w * w / 8)

/-- The first and the last byte of a mask that is not empty. -/
def Spans (bytes : BitVec 32) (first last : Nat) : Prop :=
  first ≤ last ∧ last < 32 ∧ bytes.getLsbD first = true ∧ bytes.getLsbD last = true ∧
    (∀ b < first, bytes.getLsbD b = false) ∧ ∀ b, last < b → b < 32 → bytes.getLsbD b = false

/-- One piece of a store held in the store buffer; one to a segment of kind 1 sends its translation, an outstanding result (03
R82). -/
def gating (pc : BitVec 15) (g : Seg) (addr : Nat) (data : Vec) (mask : BitVec 32) (tag : Option (BitVec 6)) (s : State) : State :=
  if g.kind = 2 then s.modThread s.cur fun u => u.gate (.own (addr / 32 * 32)) (some (.sram s.cur.tile (addr / 32 * 32))) data mask tag
  else
    startAccess (.virt (addr / 32 * 32)) ((List.range 32).findIdx (mask.getLsbD ·))
      (if tag.isSome then 32 else ((List.range 32).filter (mask.getLsbD ·)).length) 0 (.probe s.serial true)
      (addResult (s.modThread s.cur fun u => u.gate (.virt (addr / 32 * 32)) none data mask tag) fun tok =>
        { tok := tok, pc := pc, fin := .probe (.virt (addr / 32 * 32)), lands := s.cycle })

/-! The tile: queues, streams, tasks, packets, barriers (07) -/

/-- A result with its writes known, outstanding until a number of cycles after issue; where a granule that it pops waits for its bank,
after the cycle on which the last of them is read (07 R170). -/
def landing (pc : BitVec 15) (n : Nat) (dests : List (Nat × Nat)) (ws : List Write) (s : State) : State :=
  landsLater s.serial n phaseLand
    (addResult s fun tok => { tok := tok, pc := pc, fin := .ready ws, lands := s.cycle + n, dests := dests })

/-- A packet sent along a port's string, its instruction's result outstanding until the reply (11 R284, R285). -/
def sending (pc : BitVec 15) (desc : Vec) (d : Reg) (load : Payload) (s : State) : State :=
  inject s.serial pc desc load 0
    (addResult s fun tok => { tok := tok, pc := pc, fin := .ready [], lands := s.cycle, dests := [destX d] })

/-- Every earlier store and atomic of the thread to its own tile's SRAM has performed (04 R100). -/
def Settled (s : State) (t : Thread) : Prop :=
  ∀ a ∈ s.accs, a.who = s.cur → a.thread = t.serial → a.stores = true → ∃ l, a.loc = some l ∧ ∀ off, l ≠ .sram s.cur.tile off

/-- The granule at an offset of the present tile's SRAM passes its check with this content, needing no correction (01 R34). -/
def OwnGranule (s : State) (off : Nat) (v : Vec) : Prop :=
  sealCheck (s.granule (.sram s.cur.tile off)) none = .ok (v, false)

/-- The descriptor granules of an instruction of 07 R176 can be read: aligned, within thread-owned banks, with nothing on its way. -/
def DescriptorAt (s : State) (t : Thread) (off : Nat) (vs : List Vec) : Prop :=
  off % 32 = 0 ∧ (s.tile s.cur.tile).threadOwned off (32 * vs.length) = true ∧ Settled s t ∧
    (∀ i < vs.length, s.portTaken s.cur.tile (off + 32 * i) = false) ∧ ∀ i (h : i < vs.length), OwnGranule s (off + 32 * i) vs[i]

/-- What R184 asks of a binding. -/
def BindOk (s : State) (g : Seg) (st : Stream) (d0 d1 : Vec) : Prop :=
  d0.toNat < 2 ^ 209 ∧ d1 = 0 ∧ (∀ c ∈ st.count.toList, c ≠ 0) ∧ st.base.toNat % 32 = 0 ∧ (∀ x ∈ st.stride.toList, x.toNat % 32 = 0) ∧
    g.base.toNat % 32 = 0 ∧ 0 ≤ st.extent.1 ∧ RightsOk s g (if st.write then .write else .read) st.extent.1.toNat ∧
    st.extent.2 + 31 ≤ g.limit.toNat

/-- A queue configuration word that R179 accepts. -/
def QueueLegal (tile : Tile) (v : Word) : Prop :=
  let n := v.toNat / 2 ^ 24 % 16
  v.toNat / 2 ^ 49 = 0 ∧ v.toNat / 2 ^ 28 % 16 = 0 ∧ v.toNat / 2 ^ 19 % 32 = 0 ∧ v.toNat % 32 = 0 ∧ n ≤ 8 ∧
    (n ≠ 0 → tile.threadOwned (v.toNat / 2 ^ 5 % 2 ^ 14 * 32) (2 ^ n * 32) = true)

/-- A copy descriptor of SPAWN that the parent's window allows (R187). -/
def CopyLegal (t : Thread) (v : Word) : Prop :=
  let vf := v.toNat % 512
  let vc := v.toNat / 2 ^ 9 % 64
  let xf := v.toNat / 2 ^ 15 % 32
  let xc := v.toNat / 2 ^ 20 % 16
  v.toNat < 2 ^ 24 ∧ vc ≤ 32 ∧ xc ≤ 8 ∧ (vc ≠ 0 → vf + vc ≤ t.window) ∧ (xc ≠ 0 → xf + xc ≤ 32)

/-- The tile's live windows (R187). -/
def liveWindows (tile : Tile) : Nat := (tile.slots.toList.map fun sl => (sl.thread.map (·.window)).getD 0).sum

/-- A plain SPAWN's status for a slot of a tile (R187). -/
def spawnStatusOf (tile : Tile) (own slot window : Nat) : Nat :=
  if tile.width ≤ slot then 2
  else if slot = own ∨ (tile.slot slot).thread.isSome ∨ (tile.slot slot).victim.isSome ∨ (tile.slot slot).evict.isSome then 1
  else if 1536 < liveWindows tile + window then 4
  else 0

/-- The arm entry on a word, and the lowest entry that is free (R196). -/
def ArmedOn (tile : Tile) (off : Nat) (i : Option Nat) : Prop :=
  let on (k : Nat) : Prop := ∃ a, tile.armed[k]?.getD none = some a ∧ a.off = off ∧ a.fired = false
  match i with
  | some i => i < 16 ∧ on i ∧ ∀ k < i, ¬ on k
  | none => ∀ k < 16, ¬ on k

/-- No store or atomic of a thread is still to perform, and none is held back (03 R80, 12 R302). -/
def Quiet (s : State) (t : Thread) : Prop :=
  t.gated = [] ∧ ∀ a ∈ s.accs, a.who = s.cur → a.thread = t.serial → a.stores = false

/-- A BAR up to its arrival: its one mark, whose address is the next instruction's (R198). -/
def barMarked (t : Thread) (s : State) : State := takeMark s.cur (t.pc + 4) (s.setThread s.cur (t.stepped 4))

/-- The registers that an item sends, in order: those of a mask that it declares and has not sent (06 R153). -/
def sends (t : Thread) (mask : BitVec 8) : List Nat :=
  if t.item = ones 40 then [] else (List.range t.fregs.length).filter fun j => mask.getLsbD j && !t.sent.getLsbD j

/-- A result with its writes known that lands a free latency after issue. -/
def landingLater (pc : BitVec 15) (dests : List (Nat × Nat)) (ws : List Write) (s : State) : State :=
  (addResult s fun tok => { tok := tok, pc := pc, fin := .ready ws, lands := s.cycle, dests := dests }).scheduleFree phaseLand
    (.longResultLands s.cur s.serial)

/-! Launches, the copy engine and the fabric (10, 11, 16) -/

/-- The segment checks of a range (03 R74, 10 R266): rights, limit, alignment to a granule, and for the tile's own SRAM that every
bank may be reached. -/
def RangeOk (s : State) (r : Reach) (need : Need) : Prop :=
  RightsOk s r.seg need r.off ∧ r.off + r.size ≤ r.seg.limit.toNat + 1 ∧ r.off % 32 = 0 ∧ r.addr % 32 = 0 ∧
    (r.seg.kind = 2 → (s.tile s.cur.tile).shutGranule r.addr r.size = none)

/-- Two ranges share no byte (10 R266). -/
def Apart (a b : Reach) : Prop :=
  (a.seg.kind = 2 ↔ b.seg.kind = 2) → a.addr + a.size ≤ b.addr ∨ b.addr + b.size ≤ a.addr

/-- A ticket that R266 accepts; its granules and its completion word. -/
def lengthOf (tick : Word) : Nat := tick.toNat % 2 ^ 24
def wordOf (tile : Nat) (tick : Word) : Option (Nat × Nat) :=
  if tick.toNat / 2 ^ 24 % 65536 = 65535 then none else some (tile, 8 * (tick.toNat / 2 ^ 24 % 65536))
def TicketOk (s : State) (tick : Word) : Prop :=
  lengthOf tick ≠ 0 ∧ (tick.toNat / 2 ^ 24 % 65536 = 65535 ∨
    (s.tile s.cur.tile).threadOwned (8 * (tick.toNat / 2 ^ 24 % 65536)) 8 = true)

/-- An operation of the copy engine issued: its result is outstanding until it is accepted, each range's entry is made where its
table has room, and acceptance or the next try is due on the next cycle (07 R174, 10 R266, R267). -/
def submitted (t : Thread) (op : EngOp) (regs : Nat → List Registration) (s : State) : State :=
  let s1 := addResult s fun tok => { tok := tok, pc := t.pc, fin := .ready [], lands := s.cycle }
  let id := s1.serial
  let r := registerAll { op with id := id, who := s.cur, thread := t.serial, tok := s.serial, launch := t.launch, asks := regs id }
    s1.fresh.2
  (r.2.modCluster (clusterOf s.cur.tile) fun k => { k with engine := k.engine ++ [r.1] }).schedule (s.cycle + 1) phaseAccess
    (if r.1.asks = [] then .engineAccept (clusterOf s.cur.tile) id else .rangeLockRetry (clusterOf s.cur.tile) id)

/-- An operation before it has its numbers. -/
def engine (kind : EngKind) (length : Nat) (src : Option Span) (dests : List Dest) (left : List (Nat × Nat)) : EngOp :=
  { id := 0, who := ⟨0, 0⟩, thread := 0, tok := 0, launch := none, kind := kind, length := length, src := src, dests := dests
    left := left }

/-- The lock entries of a transfer from one range to another (07 R174). -/
def transferLocks (tile : Nat) (ss : Span) (m : Nat) (ds : Span) (n id : Nat) : List Registration :=
  ss.registrations tile m 1 0 id none ++ ds.registrations tile n 2 0 id (some 0)

/-! The timed plane and the tensor engine (08, 09) -/

/-- The present tile's timed plane put in place of what it was. -/
def timedAs (s : State) (u : Timed) : State := s.modTimed s.cur.tile fun _ => u

/-- A timed result on its way, in flight from now and due a number of cycles on in a phase (08 R215). -/
def inFlight (slot delay phase : Nat) (flags : BitVec 8) (eff : Effect) (s : State) : State :=
  let r : TimedRes :=
    { id := s.serial, due := s.cycle + delay, phase := phase, slot := slot, flags := flags
      addr := (s.tile s.cur.tile).timed.addr, eff := eff }
  (s.fresh.2.modTimed s.cur.tile fun u => { u with results := u.results ++ [r] }).schedule (s.cycle + delay) phase
    (.timedResultLands s.cur.tile s.serial)

/-- A generator of the present tile after it has given its address (08 R211). -/
def stepped (lb : Bool) (g : BitVec 3) (s : State) : State :=
  s.modTimed s.cur.tile fun u => { u with files := u.files.setGen lb g.toNat (u.files.gen lb g).step }

/-- The granules from an address on, in the SRAM. -/
def granulesFrom (addr n : Nat) : List Nat := (List.range n).map fun i => (addr + 32 * i) % 2 ^ 56 % 393216

/-- A signed element of w bits. -/
def signedElem (v w i : Nat) : Int := (BitVec.ofNat w (elem v w i)).toInt

/-- The rings of A and B of an array operation, and what it takes: granules of A, codes, granules of B (09 R239, R243, R244). -/
def arrayUses : SlotOp → Nat × Nat × Nat × Nat × Nat
  | .mma _ ra rb _ _ _ _ _ _ => (ra.toNat, rb.toNat, 4, 0, 4)
  | .mmasp _ ra rb fmt _ _ => (ra.toNat, rb.toNat, 4, if fmt = 0 then 32 else 64, 8)
  | .mmat _ ra rb _ _ => (ra.toNat, rb.toNat, 16, 0, 4)
  | _ => (0, 0, 0, 0, 0)

/-- The group sum of element (i, j) of an integer form of MMA, MMASP and MMAT (09 R242 to R244), and whether a code of its operands is
invalid. -/
def intTotal (op : SlotOp) (a b : Nat) (codes : List (BitVec 4)) (i j : Nat) : Int :=
  match op with
  | .mma _ _ _ fmt _ _ _ _ _ =>
    let w := if fmt = 11 then 4 else 8
    let k := if fmt = 11 then 32 else 16
    ((List.range k).map fun q => signedElem a w (i * k + q) * signedElem b w (j * k + q)).sum
  | .mmasp .. =>
    ((List.range 8).map fun g =>
      match posCode (codes[8 * i + g]?.getD 0).toNat with
      | some (lo, hi) => signedElem a 8 (16 * i + 2 * g) * signedElem b 8 (32 * j + 4 * g + lo) +
          signedElem a 8 (16 * i + 2 * g + 1) * signedElem b 8 (32 * j + 4 * g + hi)
      | none => 0).sum
  | .mmat .. =>
    ((List.range 64).map fun k => match elem b 2 (64 * j + k) with
      | 1 => signedElem a 8 (64 * i + k) | 3 => -signedElem a 8 (64 * i + k) | _ => 0).sum
  | _ => 0

/-- The FP32 group sum of element (i, j) of a floating form: the tree of the exact products, scaled where the form has scales (09
R240, R241, R243). -/
def floatTotal (op : SlotOp) (a b : Nat) (codes : List (BitVec 4)) (za zb : Vec) (i j : Nat) : Nat :=
  match op with
  | .mma _ _ _ fmt _ _ _ _ _ =>
    let F := mmaFormats fmt
    let k := mmaK fmt
    let scales := if fmt = 6 ∨ fmt = 7 ∨ fmt = 9 then some ((za.toNat / 2 ^ (8 * i) % 256), (zb.toNat / 2 ^ (8 * j) % 256)) else none
    (floatSum ((List.range k).map fun q => scaledProduct F.1 F.2 scales (elem a F.1.width (i * k + q)) (elem b F.2.width (j * k + q)))).1
  | .mmasp _ _ _ fmt _ _ =>
    let F := mmaFormats fmt
    let k := mmaK fmt
    let term (x y : Nat) : Machine.Num × Flags := scaledProduct F.1 F.2 none (elem a F.1.width x) (elem b F.2.width y)
    (floatSum ((List.range (k / 2)).flatMap fun g =>
      let n := i * (k / 2) + g
      match posCode (codes[n]?.getD 0).toNat with
      | some (lo, hi) => [term (2 * n) (2 * k * j + 4 * g + lo), term (2 * n + 1) (2 * k * j + 4 * g + hi)]
      | none => [(.fin false 0 0 false, {}), (.fin false 0 0 false, {})])).1
  | _ => 0

/-- An accumulator element after a group sum (09 R240, R242). -/
def accumulated (fresh sat integer : Bool) (old : Nat) (g : Int) : Nat :=
  if integer then
    let x := if fresh then g else (BitVec.ofNat 32 old).toInt + g
    ((if sat && !fresh then max (-2 ^ 31) (min (2 ^ 31 - 1) x) else x) % 2 ^ 32).toNat
  else if fresh then g.toNat else (addF32 .rne old g.toNat).1

/-- The VT operations on lanes: operands, latency, and a lane of the result from those of a, b and d (09 R247 to R249). -/
def laneVt : Instr → Option (VtForm × Nat × (Nat → Nat → Nat → Nat × Flags))
  | .vtAdd f => some (f, 4, fun a b _ => if f.int then ((a + b) % 2 ^ 32, {}) else fAdd .f32 a b (if f.rnd then .rtz else .rne))
  | .vtSub f => some (f, 4, fun a b _ =>
      if f.int then ((((a : Int) - b) % 2 ^ 32).toNat, {}) else fSub .f32 a b (if f.rnd then .rtz else .rne))
  | .vtMul f => some (f, 4, fun a b _ => if f.int then (a * b % 2 ^ 32, {}) else fMul .f32 a b (if f.rnd then .rtz else .rne))
  | .vtFma f => some (f, 4, fun a b d =>
      if f.int then ((d + a * b) % 2 ^ 32, {}) else fFma .f32 false false a b d (if f.rnd then .rtz else .rne))
  | .vtMax f => some (f, 4, fun a b _ =>
      if f.int then (if (BitVec.ofNat 32 a).toInt < (BitVec.ofNat 32 b).toInt then b else a, {}) else minMax .f32 true false a b)
  | .vtMin f => some (f, 4, fun a b _ =>
      if f.int then (if (BitVec.ofNat 32 a).toInt < (BitVec.ofNat 32 b).toInt then a else b, {}) else minMax .f32 false false a b)
  | .vtExp2 f => some (f, 8, fun a _ _ => exp2Lane a)
  | _ => none

/-- The flags of some results, as timed flags (09 R246). -/
def laneFlags (n : Nat) (g : Nat → Flags) : BitVec 8 := (List.range n).foldl (fun x e => x ||| (g e).toBits.setWidth 8) 0

/-- What CVT computes of a y register: for a narrower type one part of it, the rest kept; else from one part of the source (09
R250). -/
def CvtMakes (dst src : BitVec 4) (part : Nat) (m : Mode) (a value mask : Vec) (flags : BitVec 8) : Prop :=
  let sw := etBits src
  let dw := etBits dst
  if dw < sw then
    let n := 256 / sw
    flags = laneFlags n (fun i => (convert dst src.toNat m (elem a.toNat sw i)).2) ∧
    ∀ j < 256 / dw, if part * n ≤ j ∧ j < part * n + n then
        elem value.toNat dw j = (convert dst src.toNat m (elem a.toNat sw (j - part * n))).1 % 2 ^ dw ∧ elem mask.toNat dw j = 2 ^ dw - 1
      else elem value.toNat dw j = 0 ∧ elem mask.toNat dw j = 0
  else
    let n := 256 / dw
    flags = laneFlags n (fun i => (convert dst src.toNat m (elem a.toNat sw (part * n + i))).2) ∧ mask = ones 256 ∧
    ∀ j < n, elem value.toNat dw j = (convert dst src.toNat m (elem a.toNat sw (part * n + j))).1 % 2 ^ dw

/-! Completions (00 R11) -/

/-- Memory is as it was but for the size bytes from a place on. -/
def OnlyAt (s s' : State) (loc : Loc) (size : Nat) : Prop :=
  ∀ a, (a < loc.addr ∨ loc.addr + size ≤ a) → s'.byte a = s.byte a

/-- A write of a thread's own register. -/
def OnRegister : Write → Prop
  | .x .. | .v .. | .k .. | .seg .. | .flags _ | .fold .. => True
  | _ => False

/-- An earlier outstanding result writes one of the same registers (03 R78). -/
def Blocked (t : Thread) (o : Outst) : Prop :=
  ∃ e ∈ t.outst.takeWhile (·.tok ≠ o.tok), ∃ d ∈ e.dests, d ∈ o.dests

/-- Byte i of a granule request: the store buffer's where it holds it (04 R99). -/
def Req.byte (r : Req) (i : Nat) : BitVec 8 :=
  if r.ownMask.getLsbD i then r.own.extractLsb' (8 * i) 8 else (r.got.getD 0).extractLsb' (8 * i) 8

/-- The bytes from an address on, as a number, the first lowest. -/
def Holds (s : State) (a n v : Nat) : Prop := ∀ i < n, s.byte (a + i) = BitVec.ofNat 8 (v / 256 ^ i)

/-- A granule passes its check with these data and needs no correction. -/
def Sound (s : State) (loc : Loc) (v : Vec) : Prop := sealCheck (s.granule loc) none = .ok (v, false)

/-- The doubleword of a granule that a place names. -/
def doubleword (loc : Loc) (v : Vec) : Nat := v.toNat / 2 ^ (8 * (loc.addr % 32)) % 2 ^ 64

/-- An event is pending, on this cycle or a later one. -/
def Pending (s s' : State) (e : Event) : Prop := ∃ d ∈ s'.pend, d.ev = e ∧ s.cycle ≤ d.due

end Sys2Proof.Claims

open Sys2Proof Sys2Proof.Machine Sys2Proof.Claims

/-- O1. (04 R86) a register operation completes with its result in x[d], and nothing else of the machine changes but the program counter
and event counters. (04 R87) an immediate operation completes as the register form does, on its extended immediate. (04 R88, R87) the
short products. (04 R88) a division issues with its result outstanding, due exactly 34 cycles after issue, on any values. (04 R89) the bit
operations. (04 R90) a 64-bit scalar operation on x registers. -/
def Obligations.ScalarArithmeticWritesItsResult : Prop :=
  (∀ (i : Instr) (s : State) (t : Thread) (func : Nat) (f : AForm),
    s.thread s.cur = some t → aluForm i = some (func, f) → (f.w = true → t.outst = []) →
    ∃ s', exec i s = .next s' ∧
      Did (s.setThread s.cur ((t.stepped 4).setX f.d (alu func (t.getX f.a) (t.getX f.b)))) s') ∧
  (∀ (i : Instr) (s : State) (t : Thread) (func : Nat) (w : Bool) (d a : Reg) (imm : Word),
    s.thread s.cur = some t → immForm i = some (func, w, d, a, imm) → (w = true → t.outst = []) →
    ∃ s', exec i s = .next s' ∧ Did (s.setThread s.cur ((t.stepped 4).setX d (alu func (t.getX a) imm))) s') ∧
  (∀ (i : Instr) (s : State) (t : Thread) (w : Bool) (d : Reg) (v : Word),
    s.thread s.cur = some t → product t i = some (w, d, v) → (w = true → t.outst = []) →
    ∃ s', exec i s = .next s' ∧ Did (s.setThread s.cur ((t.stepped 4).setX d v)) s') ∧
  (∀ (i : Instr) (s : State) (t : Thread) (f : AForm) (g : Word → Word → Word),
    s.thread s.cur = some t → quotient i = some (f, g) → (f.w = true → t.outst = []) → t.outst.length < 32 →
    ∃ s', exec i s = .next s' ∧
      Did ((addResult (s.setThread s.cur (t.stepped 4)) fun tok =>
          { tok := tok, pc := t.pc, fin := .ready [.x f.d (g (t.getX f.a) (t.getX f.b))], lands := s.cycle + 34
            dests := [destX f.d] }).schedule (s.cycle + 34) phaseLand (.longResultLands s.cur s.serial)) s') ∧
  (∀ (i : Instr) (s : State) (t : Thread) (f : AForm),
    s.thread s.cur = some t → bitForm i = some f → (f.w = true → t.outst = []) →
    ∃ v, BitResult v (t.getX f.d) (t.getX f.a) (t.getX f.b) i ∧
      ∃ s', exec i s = .next s' ∧ Did (s.setThread s.cur ((t.stepped 4).setX f.d v)) s') ∧
  (∀ (i : Instr) (s : State) (t : Thread) (func : Nat) (f : VForm),
    s.thread s.cur = some t → alu64Form i = some (func, f) → (f.w = true → t.outst = []) → IsX f.d → IsX f.a → IsX f.b →
    ∃ s', exec i s = .next s' ∧
      Did (s.setThread s.cur ((t.stepped 8).setX (xOf f.d) (alu func (t.getX (xOf f.a)) (t.getX (xOf f.b))))) s')

/-- O2. (04 R91) SHAPEW writes its entry's four extents, and with an extent of zero it is ILLEGAL_OPERAND. (04 R92) DECOMP writes the
coordinates of x[a][39:0] into x[d] up, and nothing else. (02 R48) LI writes a sign-extended constant, LIU bits 63 to 46. -/
def Obligations.ShapesAndConstants : Prop :=
  (∀ (s : State) (t : Thread) (w : Bool) (entry : BitVec 3) (a b : Reg),
    s.thread s.cur = some t → (w = true → t.outst = []) →
    let e : Vector (BitVec 32) 4 := #v[(t.getX a).extractLsb' 0 32, (t.getX a).extractLsb' 32 32,
      (t.getX b).extractLsb' 0 32, (t.getX b).extractLsb' 32 32]
    (0 ∉ e.toList → ∃ s', exec (.shapew w entry a b) s = .next s' ∧
      Did (s.setThread s.cur { t.stepped 4 with shape := t.shape.setIfInBounds entry.toNat e }) s') ∧
    (0 ∈ e.toList → Traps (.shapew w entry a b) s t cIllegalOperand 0 (codeOf (.shapew w entry a b)))) ∧
  (∀ (s : State) (t : Thread) (f : VForm),
    let c := (f.imm.extractLsb' 3 3).toNat
    s.thread s.cur = some t → (f.w = true → t.outst = []) → IsX f.d → IsX f.a → 1 ≤ c → c ≤ 5 → (xOf f.d).toNat + c ≤ 32 →
    ∃ s' t', exec (.decomp f) s = .next s' ∧ Did (s.setThread s.cur t') s' ∧ { t' with x := t.x } = t.stepped 8 ∧
      ∀ r : Reg, t'.getX r =
        if r ≠ 0 ∧ (xOf f.d).toNat ≤ r.toNat ∧ r.toNat < (xOf f.d).toNat + c then
          BitVec.ofNat 64 (coordinate (extent t (f.imm.extractLsb' 0 3)) c ((t.getX (xOf f.a)).toNat % 2 ^ 40)
            (r.toNat - (xOf f.d).toNat))
        else t.getX r) ∧
  (∀ (s : State) (t : Thread) (w : Bool) (d : OpCode) (imm : BitVec 46) (top : BitVec 18),
    s.thread s.cur = some t → (w = true → t.outst = []) → IsX d →
    (∃ s', exec (.li w d imm) s = .next s' ∧ Did (s.setThread s.cur ((t.stepped 8).setX (xOf d) (BitVec.ofInt 64 imm.toInt))) s') ∧
    (∃ s', exec (.liu w d top) s = .next s' ∧ Did (s.setThread s.cur ((t.stepped 8).setX (xOf d)
      (BitVec.ofNat 64 (top.toNat * 2 ^ 46 + (t.getX (xOf d)).toNat % 2 ^ 46)))) s'))

/-- O3. (04 R93, 14 R347) a conditional branch, which folds whether it is taken into the path hash. (04 R94) J, JAL and JR; a JR target
that is not a multiple of 4 is MISALIGNED. (04 R95) LOOP counts down and branches while its count was above 1. (04 R97, 03 R80) RMARK
takes a mark whose address is the next instruction's, once nothing is outstanding; until then its thread parks, with only its slot's turn
gone. -/
def Obligations.ControlFlowGoesWhereItSays : Prop :=
  (∀ (i : Instr) (s : State) (t : Thread) (f : BForm) (c : Word → Word → Bool),
    s.thread s.cur = some t → branchForm i = some (f, c) → (f.w = true → t.outst = []) →
    ∃ s', exec i s = .next s' ∧
      Did (s.setThread s.cur { t.stepped 4 with
        pc := if c (t.getX f.a) (t.getX f.b) then jumpTo t.pc f.off.toInt else jumpTo t.pc 1
        hash := crc64Fold 1 t.hash (if c (t.getX f.a) (t.getX f.b) then 1 else 0) }) s') ∧
  (∀ (s : State) (t : Thread) (w : Bool) (off : BitVec 23) (f : IForm),
    s.thread s.cur = some t →
    ((w = true → t.outst = []) →
      (∃ s', exec (.j w off) s = .next s' ∧ Did (s.setThread s.cur { t.stepped 4 with pc := jumpTo t.pc off.toInt }) s') ∧
      (∃ s', exec (.jal w off) s = .next s' ∧
        Did (s.setThread s.cur { (t.stepped 4).setX 31 ((jumpTo t.pc 1).setWidth 64) with pc := jumpTo t.pc off.toInt }) s')) ∧
    ((f.w = true → t.outst = []) →
      let dest := BitVec.ofInt 15 ((t.getX f.a).toInt + f.imm.toInt)
      (dest.toNat % 4 = 0 → ∃ s', exec (.jr f) s = .next s' ∧
        Did (s.setThread s.cur { (t.stepped 4).setX f.d ((jumpTo t.pc 1).setWidth 64) with pc := dest }) s') ∧
      (dest.toNat % 4 ≠ 0 → Traps (.jr f) s t cMisaligned 0 (dest.setWidth 64)))) ∧
  (∀ (s : State) (t : Thread) (f : IForm),
    s.thread s.cur = some t → (f.w = true → t.outst = []) →
    ∃ s', exec (.loop f) s = .next s' ∧
      Did (s.setThread s.cur (
        if 1 < (t.getX f.a).toNat then
          { (t.stepped 4).setX f.d (BitVec.ofNat 64 ((t.getX f.a).toNat - 1)) with
            pc := jumpTo t.pc f.imm.toInt, hash := crc64Fold 1 t.hash 1 }
        else { (t.stepped 4).setX f.d 0 with hash := crc64Fold 1 t.hash 0 })) s') ∧
  (∀ (s : State) (t : Thread) (w : Bool),
    s.thread s.cur = some t →
    (t.outst = [] → ∃ s', exec (.rmark w) s = .next s' ∧
      Did (takeMark s.cur (jumpTo t.pc 1) (s.setThread s.cur (t.stepped 4))) s') ∧
    (t.outst ≠ [] → ∃ s', exec (.rmark w) s = .next s' ∧ Did s s'))

/-- O4. (03 R80, R81) a mark of a thread sets its mark address and shadow, empties its store buffer, and puts the gated stores whose
places are known in flight, in program order, each to be performed later; memory is as it was. (03 R81, R82) where a committing
instruction's own effect begins, its thread has its first mark at the instruction's address, and nothing else of the thread has changed
but its program counter. -/
def Obligations.MarksReleaseAndComeBeforeCommits : Prop :=
  (∀ (s : State) (w : Who) (t : Thread) (addr : BitVec 15), s.thread w = some t →
    let s' := takeMark w addr s
    s'.thread w = some { t with gated := [], mpc := addr, shadow :=
      { x := t.x, k := t.k, fflags := t.fflags, fmode := t.fmode, srseed := t.srseed, gen := t.gen, v := []
        spos := streamPositions (s.tile w.tile) w.slot t.serial } } ∧
    (∀ v, v ≠ w → s'.thread v = s.thread v) ∧ SameMemory s s' ∧
    ∃ new, s'.accs = s.accs ++ new ∧
      new.map (fun a => (a.who, a.key, a.kind, a.loc)) =
        (t.gated.filter (·.loc.isSome)).map (fun g => (w, g.key, .release g.data g.mask g.tag, g.loc)) ∧
      ∀ a ∈ new, ∃ d ∈ s'.pend, d.ev = .storeReleasePerforms a.id ∧ s.cycle < d.due) ∧
  (∀ (s : State) (t : Thread) (len : BitVec 15), s.thread s.cur = some t →
    let s1 := begun { len := len, commits := true } t s
    s1.thread s.cur = some { t.stepped len with gated := [], mpc := t.pc, shadow :=
      { x := t.x, k := t.k, fflags := t.fflags, fmode := t.fmode, srseed := t.srseed, gen := t.gen, v := []
        spos := streamPositions (s.tile s.cur.tile) s.cur.slot t.serial } } ∧
    (∀ v, v ≠ s.cur → s1.thread v = s.thread v) ∧ SameMemory s s1 ∧ s1.cycle = s.cycle ∧ s1.pkg = s.pkg ∧
    s1.packets = s.packets ∧ s1.posts = s.posts)

/-- O5. (03 R83, R84) entry into a handler, once every result has landed and no fault has been collected: of the trap found, or of the
one whose entry has begun before it. A rollback trap restores the shadowed state and returns to the mark; any other keeps it; an
asynchronous one is found at the next instruction not yet issued. -/
def Obligations.TrapEntrySavesAndGoesToTheHandler : Prop :=
  ∀ (s : State) (w : Who) (t : Thread) (found : Trap),
    s.thread w = some t → t.outst = [] → t.faults = [] → t.status.inh = false →
    let s' := raise w found s
    let tr := t.entering.getD found
    let here := if tr.rollback then t.mpc else t.pc
    let mode : BitVec 2 := if tr.code = cWatchdog ∨ t.status.mode = 3 then 3 else 1
    let pc : BitVec 15 := BitVec.ofNat 15 ((if mode = 3 then t.ftvec else t.tvec).toNat / 4 * 4)
    ∃ t', s'.thread w = some t' ∧
      t'.cause = tr.sub ++ tr.code ∧ t'.info = tr.info ∧
      t'.fpc = (if tr.async ∧ tr.code ≠ cWindowViolation then here else tr.fpc).setWidth 64 ∧
      t'.epc = (if tr.rollback ∨ tr.async then here else tr.epc).setWidth 64 ∧
      t'.status = { t.status with pmode := t.status.mode, pie := t.status.ie, ie := false, inh := true, mode := mode } ∧
      t'.pc = pc ∧ t'.mpc = pc ∧ t'.gated = [] ∧ t'.entering = none ∧ t'.fatal = t.fatal ∧ t'.resumeAt = s.cycle + 4 ∧
      (tr.rollback = false → t'.x = t.x ∧ t'.k = t.k ∧ t'.v = t.v ∧ t'.fflags = t.fflags ∧ t'.fmode = t.fmode ∧
        t'.srseed = t.srseed ∧ t'.gen = t.gen) ∧
      (tr.rollback = true → t'.x = t.shadow.x ∧ t'.k = t.shadow.k ∧ t'.fflags = t.shadow.fflags ∧ t'.fmode = t.shadow.fmode ∧
        t'.srseed = t.shadow.srseed ∧ t'.gen = t.shadow.gen ∧
        ∀ n, t'.getV n = if t.shadow.v.any (fun p => p.1 = n) then Tab.get 0 t.shadow.v n else t.getV n) ∧
      t'.seg = t.seg ∧ t'.shape = t.shape ∧ t'.tvec = t.tvec ∧ t'.ftvec = t.ftvec ∧ t'.ienable = t.ienable ∧
      t'.ipend = t.ipend ∧ t'.scratch = t.scratch ∧ t'.timecmp = t.timecmp ∧ t'.item = t.item ∧ t'.ttab = t.ttab ∧
      (∀ v, v ≠ w → s'.thread v = s.thread v) ∧ SameMemory s s'

/-- O6. (03 R83) of the faults collected while results drain, the one of the instruction earliest in program order is taken. (03 R83, 06
R160) a trap in a handler makes the thread fatal and asks for its dump; no register of it changes. (03 R83) a trap found while results are
outstanding stops its thread and waits for them; one whose entry has begun stays the one that is taken. -/
def Obligations.FaultsAreCollectedAndTrapsWait : Prop :=
  (∀ (s : State) (w : Who) (t : Thread) (first : Trap) (n : Nat) (tr : Trap),
    s.thread w = some t → t.entering = some first → t.status.inh = false → (n, tr) ∈ t.faults → tr.rollback = true → tr.async = false →
    (∀ p ∈ t.faults, p ≠ (n, tr) → n < p.1) →
    ∃ t', (trapEnter w s).thread w = some t' ∧ t'.cause = tr.sub ++ tr.code ∧ t'.info = tr.info ∧ t'.faults = [] ∧
      t'.epc = t.mpc.setWidth 64 ∧ t'.fpc = tr.fpc.setWidth 64 ∧ t'.x = t.shadow.x) ∧
  (∀ (s : State) (w : Who) (t : Thread) (tr : Trap),
    s.thread w = some t → t.outst = [] → t.faults = [] → t.status.inh = true →
    let s' := raise w tr s
    s'.thread w =
      some { t with entering := none, faults := [], fatal := some (t.entering.getD tr), faultClass := max t.faultClass 3 } ∧
    (∃ d ∈ s'.pend, d.ev = .threadFatal w) ∧ (∃ d ∈ s'.pend, d.ev = .dump (w.tile / 5120)) ∧ SameMemory s s') ∧
  (∀ (s : State) (w : Who) (t : Thread) (tr : Trap),
    s.thread w = some t → t.outst ≠ [] → raise w tr s = s.setThread w { t with entering := some (t.entering.getD tr) })

/-- O7. (04 R109, 03 R85) TRET takes a mark at cr.epc and returns there with the saved mode and interrupt enable. (04 R110, 03 R84) TRAP
stops its thread with cause 0x13, cr.epc the next instruction and cr.fpc its own address. (02 R49, R50) below kernel mode a kernel
instruction is PRIVILEGE, with nothing of its effect. -/
def Obligations.TrapsPrivilegeAndReturn : Prop :=
  (∀ (s : State) (t : Thread) (w : Bool),
    s.thread s.cur = some t → t.outst = [] → 1 ≤ t.status.mode.toNat →
    ∃ s' c, exec (.tret w) s = .next s' ∧ t.faultClass ≤ c ∧
      Did ((takeMark s.cur (BitVec.ofNat 15 (t.epc.toNat / 4 * 4)) (s.setThread s.cur (t.stepped 4))).modThread s.cur fun u =>
        { u with
          status := { t.status with mode := t.status.pmode, ie := t.status.pie, inh := false }
          pc := BitVec.ofNat 15 (t.epc.toNat / 4 * 4), faultClass := c }) s') ∧
  (∀ (s : State) (t : Thread) (w : Bool) (imm : BitVec 13),
    s.thread s.cur = some t → (w = true → t.outst = []) →
    exec (.trap w imm) s = .next (turnTaken (raise s.cur
      { code := 0x13, sub := 0, info := BitVec.ofInt 64 imm.toInt, epc := jumpTo t.pc 1, fpc := t.pc } s))) ∧
  (∀ (i : Instr) (s : State) (t : Thread),
    s.thread s.cur = some t → kernelOnly i → t.status.mode = 0 → Traps i s t cPrivilege 0 (codeOf i))

/-- O8. (04 R108) CRR reads a control register that its thread's mode may read; below that mode it is PRIVILEGE, and a number that names
no register is ILLEGAL_OPERAND. -/
def Obligations.CrrReadsTheRegister : Prop :=
  ∀ (s : State) (t : Thread) (w : Bool) (d : Reg) (r : BitVec 12),
    s.thread s.cur = some t →
    (∀ m v, crValue s s.cur t r.toNat = some (m, v) →
      (m ≤ t.status.mode.toNat → (w = true → t.outst = []) →
        ∃ s', exec (.crr w d r) s = .next s' ∧ Did (s.setThread s.cur ((t.stepped 4).setX d v)) s') ∧
      (t.status.mode.toNat < m → Traps (.crr w d r) s t cPrivilege 0 (codeOf (.crr w d r)))) ∧
    (crValue s s.cur t r.toNat = none → Traps (.crr w d r) s t cIllegalOperand 0 (codeOf (.crr w d r)))

/-- O9. (04 R108, 03 R71, R82) CRW writes a control register that its thread's mode may write; all but cr.fflags, cr.fmode, cr.srseed and
cr.ipend commit. A read-only register is PRIVILEGE in any mode, a pmode of 2 ILLEGAL_OPERAND, and a pmode of 3 outside firmware mode
PRIVILEGE. -/
def Obligations.CrwWritesTheRegister : Prop :=
  ∀ (s : State) (t : Thread) (w : Bool) (a : Reg) (r : BitVec 12),
    s.thread s.cur = some t →
    let pm := (t.getX a).toNat / 4 % 4
    (∀ m t', crWritten (t.stepped 4) (t.getX a) r.toNat = some (m, t') → m ≤ t.status.mode.toNat →
      (r = 0 → pm ≠ 2 ∧ (pm = 3 → t.status.mode = 3)) →
      (plainCr r.toNat → (w = true → t.outst = []) →
        ∃ s', exec (.crw w a r) s = .next s' ∧ Did (s.setThread s.cur t') s') ∧
      (¬ plainCr r.toNat → t.outst = [] →
        ∃ s' t1, exec (.crw w a r) s = .next s' ∧ (begun { commits := true } t s).thread s.cur = some t1 ∧
          ∃ t2, crWritten t1 (t.getX a) r.toNat = some (m, t2) ∧
            Did ((begun { commits := true } t s).setThread s.cur { t2 with committing := true }) s')) ∧
    (∀ m t', crWritten t (t.getX a) r.toNat = some (m, t') → t.status.mode.toNat < m →
      Traps (.crw w a r) s t cPrivilege 0 (codeOf (.crw w a r))) ∧
    (crWritten t (t.getX a) r.toNat = none → crValue s s.cur t r.toNat ≠ none →
      Traps (.crw w a r) s t cPrivilege 0 (codeOf (.crw w a r))) ∧
    (crValue s s.cur t r.toNat = none → Traps (.crw w a r) s t cIllegalOperand 0 (codeOf (.crw w a r))) ∧
    (r = 0 → 1 ≤ t.status.mode.toNat → t.outst = [] → pm = 2 → Traps (.crw w a r) s t cIllegalOperand 0 (codeOf (.crw w a r))) ∧
    (r = 0 → 1 ≤ t.status.mode.toNat → t.outst = [] → pm = 3 → t.status.mode ≠ 3 →
      Traps (.crw w a r) s t cPrivilege 0 (codeOf (.crw w a r)))

/-- O10. (04 R111) WFI ends at once where an enabled input is pending, and else leaves its thread waiting for one. (04 R112, 03 R73) SEGW
writes a segment register in kernel mode, from a legal value; any other is ILLEGAL_OPERAND. -/
def Obligations.WfiWaitsAndSegwWrites : Prop :=
  (∀ (s : State) (t : Thread) (w : Bool),
    s.thread s.cur = some t → (w = true → t.outst = []) →
    ∃ s', exec (.wfi w) s = .next s' ∧
      Did (s.setThread s.cur (if t.ipend &&& t.ienable = 0 then { t.stepped 4 with wait := some .wfi } else t.stepped 4)) s') ∧
  (∀ (s : State) (t : Thread) (w : Bool) (a b : Reg) (n : BitVec 3),
    s.thread s.cur = some t → 1 ≤ t.status.mode.toNat → t.outst = [] →
    (SegLegal (t.getX a) (t.getX b) →
      ∃ s', exec (.segw w a b n) s = .next s' ∧
        Did ((begun { commits := true } t s).modThread s.cur fun u =>
          { u with seg := u.seg.setIfInBounds n.toNat (segValue (t.getX a) (t.getX b)), committing := true }) s') ∧
    (¬ SegLegal (t.getX a) (t.getX b) → Traps (.segw w a b n) s t cIllegalOperand 0 (codeOf (.segw w a b n))))

/-- O11. (03 R74, R84, 04 R98, R102, 07 R168, R175) the precise faults of an access of one piece, in their order: rights, limit,
alignment, and for the tile's own SRAM windows and range locks. -/
def Obligations.ScalarAccessTraps : Prop :=
  ∀ (i : Instr) (s : State) (t : Thread) (need : Need) (n : BitVec 3) (off size : Nat) (w : Bool),
    s.thread s.cur = some t → pieceForm t i = some (need, n, off, size, w) → t.outst = [] → t.gated = [] →
    let g := t.getSeg n
    (¬ RightsOk s g need off → Traps i s t cSegmentRights (n.setWidth 4) (BitVec.ofNat 64 off)) ∧
    (RightsOk s g need off →
      (g.limit.toNat + 1 < off + size → Traps i s t cSegmentLimit (n.setWidth 4) (BitVec.ofNat 64 off)) ∧
      (off + size ≤ g.limit.toNat + 1 →
        (g.addr off % size ≠ 0 → Traps i s t cMisaligned 0 (BitVec.ofNat 64 off)) ∧
        (g.addr off % size = 0 → g.kind = 2 →
          ((s.tile s.cur.tile).shutGranule (g.addr off) size ≠ none →
            Traps i s t cWindowViolation 0 (BitVec.ofNat 64 (g.addr off))) ∧
          ((s.tile s.cur.tile).shutGranule (g.addr off) size = none →
            (s.tile s.cur.tile).locked false need.writes (g.addr off) (g.addr off + size - 1) = true →
            Traps i s t cRangeLocked 0 (BitVec.ofNat 64 (g.addr off))))))

/-- O12. (04 R98, R99) a scalar load whose checks pass is outstanding from its issue. Where the store buffer holds all its bytes of the
tile's own SRAM it is due 8 cycles later; else its access is on its way. No byte of memory changes. (04 R98, R100, 03 R82) a scalar store
whose checks pass is held in the store buffer, and no byte of memory changes; one to a segment of kind 1 sends its translation, an
outstanding result. A store that would need a 65th granule takes a mark first. (03 R82, 04 R99) the store buffer holds the latest bytes of
its stores, and no other granule's change. -/
def Obligations.ScalarLoadsAndStoresIssue : Prop :=
  (∀ (i : Instr) (s : State) (t : Thread) (size : Nat) (signed : Bool) (f : MForm),
    s.thread s.cur = some t → loadForm i = some (size, signed, f) → (f.w = true → t.outst = []) → t.outst.length < 32 →
    let g := t.getSeg f.seg
    let off := (t.getX f.base).toNat + f.off.toNat * size
    let addr := g.addr off
    PieceOk s g .read off size →
    let r := t.request (g.key addr) (byteBits (addr % 32) size)
    ∃ s', exec i s = .next s' ∧ SameMemory s s' ∧
      Did (loading (fun tok =>
        { tok := tok, pc := t.pc, reqs := [r], fin := .scalar f.d (addr % 32) size signed, lands := s.cycle, dests := [destX f.d] })
        size (addr % 32) false (s.setThread s.cur (t.stepped 4))) s') ∧
  (∀ (i : Instr) (s : State) (t : Thread) (size : Nat) (f : MForm),
    s.thread s.cur = some t → storeForm i = some (size, f) → (f.w = true → t.outst = []) →
    let g := t.getSeg f.seg
    let off := (t.getX f.base).toNat + f.off.toNat * size
    let addr := g.addr off
    PieceOk s g .write off size →
    let full := t.gated.length = 64 ∧ t.gated.all (fun e => e.key ≠ g.key addr)
    (full → t.outst = []) → (t.gated.length ≤ 64) → (g.kind = 1 → t.outst.length < 32) →
    let s0 := s.setThread s.cur (t.stepped 4)
    let data : Vec := BitVec.ofNat 256 ((t.getX f.d).toNat % 2 ^ (8 * size) * 2 ^ (8 * (addr % 32)))
    let mask := byteBits (addr % 32) size
    ∃ s1 s', (¬ full → s1 = s0) ∧ (full → Counts (takeMark s.cur t.pc s0) s1) ∧ exec i s = .next s' ∧ SameMemory s s' ∧
      (g.kind = 2 → Did (s1.modThread s.cur fun u =>
        u.gate (.own (addr / 32 * 32)) (some (.sram s.cur.tile (addr / 32 * 32))) data mask none) s') ∧
      (g.kind = 1 → Did (startAccess (.virt (addr / 32 * 32)) (addr % 32) size 0 (.probe s1.serial true)
        (addResult (s1.modThread s.cur fun u => u.gate (.virt (addr / 32 * 32)) none data mask none) fun tok =>
          { tok := tok, pc := t.pc, fin := .probe (.virt (addr / 32 * 32)), lands := s.cycle })) s')) ∧
  (∀ (t : Thread) (key : GKey) (loc : Option Loc) (data : Vec) (mask : BitVec 32) (tag : Option (BitVec 6)),
    let t' := t.gate key loc data mask tag
    { t' with gated := t.gated } = t ∧
    (t'.gatedAt key).2 = (t.gatedAt key).2 ||| mask ∧
    (∀ i < 32, ((t'.gatedAt key).1.extractLsb' (8 * i) 8) =
      if mask.getLsbD i then data.extractLsb' (8 * i) 8
      else if t.gated.any (fun e => e.key = key) then (t.gatedAt key).1.extractLsb' (8 * i) 8 else 0) ∧
    ∀ k, k ≠ key → t'.gatedAt k = t.gatedAt k)

/-- O13. (04 R101, R113) LDBR and ISLD whose checks pass are outstanding, with a request for each granule; ISLD commits. (04 R102 to R105,
03 R82) an atomic or CAS whose checks pass has taken a mark, its result is outstanding and its access is on its way; it commits. -/
def Obligations.BufferLoadsAndAtomicsIssue : Prop :=
  (∀ (s : State) (t : Thread) (w : Bool),
    s.thread s.cur = some t → t.outst = [] →
    (∀ (n : BitVec 3) (base : Reg) (imm : BitVec 10),
      let g := t.getSeg 7
      let off := (t.getX base).toNat + imm.toNat * 32
      let addr := g.addr off
      n ≠ 7 → PieceOk s g .read off 32 → off % 32 = 0 →
      ∃ s', exec (.ldbr w n base imm) s = .next s' ∧
        Did (loading (fun tok =>
          { tok := tok, pc := t.pc, reqs := [t.request (g.key addr) (ones 32)], fin := .segment n, lands := s.cycle, dests := [destSeg n] })
          32 0 false (s.setThread s.cur (t.stepped 4))) s') ∧
    (∀ (base : Reg) (imm : BitVec 10), Traps (.ldbr w 7 base imm) s t cIllegalOperand 0 (codeOf (.ldbr w 7 base imm))) ∧
    (∀ f : AtForm,
      let g := t.getSeg f.seg
      let count := (t.getX f.d).toNat
      let off := (t.getX f.a).toNat
      let dst := (t.getX f.b).toNat % 32768
      1 ≤ count → count ≤ 1024 → RightsOk s g .execute off → off + 32 * count ≤ g.limit.toNat + 1 → off % 32 = 0 →
      dst % 32 = 0 → g.addr off % 32 = 0 → (g.kind = 2 → OwnOpen s .execute (g.addr off) (32 * count)) →
      let o : Nat → Outst := fun tok =>
        { tok := tok, pc := t.pc, lands := s.cycle, fin := .istore dst 0
          reqs := (List.range count).map fun i => { key := g.key (g.addr (off + 32 * i)) } }
      ∃ s', exec (.isld f) s = .next s' ∧ Did (committing (loading o 32 0 true (begun { commits := true } t s))) s')) ∧
  (∀ (i : Instr) (s : State) (t : Thread) (op : Nat) (wide : Bool) (f : AtForm),
    s.thread s.cur = some t → atomicForm i = some (op, wide, f) → t.outst = [] →
    let g := t.getSeg f.seg
    let off := (t.getX f.a).toNat
    PieceOk s g .atomic off (if wide then 8 else 4) →
    let addr := g.addr off
    let s1 := begun { commits := true } t s
    ∃ s', exec i s = .next s' ∧
      Did (committing (startAccess (g.key addr) (addr % 32) (if wide then 8 else 4) 0
        (.atomic s1.serial op wide (t.getX f.b) (t.getX f.d) f.d)
        (addResult s1 fun tok => { tok := tok, pc := t.pc, fin := .reply, lands := s.cycle, dests := [destX f.d] }))) s')

/-- O14. (04 R106, R107, 12 R302) FENCE and DRAIN end once the thread's earlier stores and atomics have performed within the scope, those
that their mark has released among them, at once where there are none; until then the thread parks. An acquire at cluster scope empties the tile's read cache, from
package scope the cluster's translation cache too. -/
def Obligations.FenceAndDrainWait : Prop :=
  ∀ (s : State) (t : Thread) (w : Bool) (kind : BitVec 2) (scope : BitVec 3),
    s.thread s.cur = some t → t.outst = [] →
    let s0 := markedFirst { commits := true } t s
    let s1 := begun { commits := true } t s
    let waits := pendingWithin s1 s.cur t.serial scope.toNat
    (Quiet s t → ∀ i, i = .drain w scope ∨ i = .fence w kind scope → ∃ s' t', exec i s = .next s' ∧ s'.thread s.cur = some t' ∧
      t'.pc = t.pc + 4 ∧ t'.committing = true ∧ t'.x = t.x ∧ t'.v = t.v ∧ t'.k = t.k ∧ SameMemory s s') ∧
    (waits = false →
      (∃ s', exec (.drain w scope) s = .next s' ∧ Did (committing s1) s') ∧
      (kind = 2 → ∃ s', exec (.fence w kind scope) s = .next s' ∧ Did (committing s1) s')) ∧
    (kind = 1 ∨ kind = 3 ∧ waits = false →
      ∃ s2 s', exec (.fence w kind scope) s = .next s' ∧ Did (committing s2) s' ∧
        (2 ≤ scope.toNat → ((s2.tile s.cur.tile).cache.toList.all (·.isEmpty)) = true) ∧
        (4 ≤ scope.toNat → (s2.cluster (clusterOf s.cur.tile)).cache = []) ∧ (scope.toNat < 2 → s2 = s1) ∧ SameMemory s s2) ∧
    (waits = true →
      (∃ s', exec (.drain w scope) s = .next s' ∧ Did s0 s') ∧
      (kind.getLsbD 1 = true → ∃ s', exec (.fence w kind scope) s = .next s' ∧ Did s0 s'))

/-- O15. (05 R114 to R132, 01 R25, R26, 02 R44) an element-wise vector instruction on registers completes. A short one writes its computed
elements (with z the others too, as zero), its flags and its generators, and no other state of the thread; a long one's result is
outstanding with exactly those writes, due after its fixed latency. -/
def Obligations.VectorInstructionOnRegisters : Prop :=
  ∀ (i : Instr) (s : State) (t t1 : Thread) (l : Lane),
    s.thread s.cur = some t → laneForm i = some l → l.Legal t i → l.f.d.toNat < 384 → IsReg t l.f.a l.f.ka → IsReg t l.b l.kb →
    MayIssue l.opts t → (begun l.opts t s).thread s.cur = some t1 →
    let a := regSource t l.sw l.f.a
    let b := regSource t l.sw l.b
    let d := t.getV l.f.d.toNat
    ∃ s' value mask, exec i s = .next s' ∧ l.Makes t a b d value mask ∧
      let ws : List Write := [.v l.f.d.toNat value (if l.f.z then fullMask else mask), .flags (l.flags t a b d)]
      match l.latency with
      | none => ∃ t', Did ((begun l.opts t s).setThread s.cur t') s' ∧
          { t' with v := t1.v, fflags := t1.fflags, gen := t1.gen } = t1 ∧
          t'.fflags = t.fflags ||| l.flags t a b d ∧ t'.gen = l.gen t ∧
          ∀ r, t'.getV r = if r = l.f.d.toNat then blend d value (if l.f.z then fullMask else mask) else t.getV r
      | some n =>
          Did ((addResult ((begun l.opts t s).setThread s.cur { t1 with gen := l.gen t }) fun tok =>
            { tok := tok, pc := t.pc, fin := .ready ws, lands := s.cycle + n, dests := [destV l.f.d.toNat] }).schedule
              (s.cycle + n) phaseLand (.longResultLands s.cur (begun l.opts t s).serial)) s'

/-- O16. (02 R42, R43, 05 R114, R117) the same on every operand form: with its sources read and consumed, and its destination's room
found, it does what putVector does with exactly those elements. (04 R90, 02 R42) a 64-bit scalar operation on any operands: a queue or
stream source gives its low 64 bits, with tag 0x05 expected. -/
def Obligations.VectorInstructionOnAnyOperands : Prop :=
  (∀ (i : Instr) (s s1 : State) (t : Thread) (l : Lane) (a b : Vec) (lat : Option Nat),
    s.thread s.cur = some t → laneForm i = some l → l.Legal t i → MayIssue l.opts t →
    readOperands t.pc l.sw l.tag l.f.d l.f.a l.f.ka l.b l.kb (begun l.opts t s) = .ok ((a, b, lat), s1) →
    let d := if l.f.d.toNat < 384 then t.getV l.f.d.toNat else 0
    ∃ value mask, l.Makes t a b d value mask ∧
      ∀ s2, putVector t.pc l.f.d (if l.latency.isSome then l.latency else lat) value mask l.f.z (tagOfEt l.f.et) (l.flags t a b d)
          (s1.modThread s.cur fun u => { u with gen := l.gen t }) = .ok ((), s2) →
        exec i s = .next (ended l.opts s2)) ∧
  (∀ (i : Instr) (s s1 : State) (t : Thread) (func : Nat) (f : VForm) (a b : Vec) (lat : Option Nat),
    let o : Opts := { w := f.w, len := 8, long := slowSource f.a || slowSource f.b, commits := commitsBy f.d f.a f.b }
    s.thread s.cur = some t → alu64Form i = some (func, f) → operandOk t [.x, .q, .s, .n] f.d 0 = true →
    operandOk t [.x, .q, .s] f.a 0 = true → operandOk t [.x, .q, .s] f.b 0 = true → MayIssue o t →
    readOperands t.pc 64 0x05 f.d f.a 0 f.b 0 (begun o t s) = .ok ((a, b, lat), s1) →
    ∀ s2, putScalar t.pc f.d lat (alu func (a.extractLsb' 0 64) (b.extractLsb' 0 64)) s1 = .ok ((), s2) →
      exec i s = .next (ended o s2))

/-- O17. (02 R35 to R52) the decoder reads every well-formed threaded instruction back from its bytes, whatever follows them, with every
operand. -/
def Obligations.DecodeOfEncodeIsTheInstruction : Prop :=
  ∀ (i : Instr) (bytes rest : List Byte), WellFormed i = true → encode i = some bytes → decode (bytes ++ rest) = .ok (i, rest)

/-- O18. (02 R39, R40, R49) the bytes that the decoder takes are those of the instruction that it gives, which is well-formed: a nonzero
unused field, or a func that no table names, decodes to nothing. -/
def Obligations.DecodedBytesAreTheInstructions : Prop :=
  ∀ (bytes rest : List Byte) (i : Instr), decode bytes = .ok (i, rest) →
    WellFormed i = true ∧ ∃ own, encode i = some own ∧ bytes = own ++ rest

/-- O19. (08 R202, R203, R206, R216 to R224, 09 R239 to R251) stream words and slot fields are read back as they are written, and a stream
word that decodes is that instruction's. -/
def Obligations.StreamWordsAndSlotFieldsRoundTrip : Prop :=
  (∀ (i : Instr) (w second : BitVec 16) (more : Option (BitVec 16)),
    WellFormed i = true → encodeStream i = some (w, more) →
      decodeStream w (more.getD second) = some i ∧ (streamTwoWords w = more.isSome)) ∧
  (∀ (w second : BitVec 16) (i : Instr), decodeStream w second = some i →
    WellFormed i = true ∧ encodeStream i = some (w, if streamTwoWords w then some second else none)) ∧
  ∀ o : SlotOp, o.ok = true → decodeSlot (encodeSlot o).1 (encodeSlot o).2 = some o

/-- O20. (02 R35, R38, R40, R102, 07 R187, 08 R202, R203, R220, 09 R239) words written out from the encodings' tables. -/
def Obligations.WordsDecodeAsTheTablesSay : Prop :=
  decode32 0b0_0_0000000_00101_00110_00111_00000000 = some (.add ⟨false, 5, 6, 7⟩) ∧
  decode32 0b1_0_0010000_00011_00011_1111111111111 = some (.addi ⟨true, 3, 3, -1⟩) ∧
  decode32 0b0_0_0100010_00001_00010_1111111111101 = some (.blt ⟨false, 1, 2, -3⟩) ∧
  decode32 0b0_0_0110011_00100_010_00011_0000000101 = some (.ld64 ⟨false, 4, 2, 3, 5⟩) ∧
  decode32 0b0_0_0111101_00001_00010_00011_110_00100 = some (.amin32 ⟨false, 1, 2, 3, 6⟩) ∧
  decode32 0b0_0_1000100_00001_00010_00011_1_101_0_011 = some (.spawnEvict ⟨false, 1, 2, 3⟩ 5 3) ∧
  decode32 0b0_0_1101010_00001_00010_1_000000000111 = some (.dstopTrap false 1 2 7) ∧
  decode32 0b0_0_0000000_00101_00110_00111_00001111 = none ∧
  decode64 0b0_1_0000010_000000111_000000010_110101010_001_1_00_00_1000_110_0000000000000 =
    some (.vmulFloat ⟨false, 7, 2, 426, 1, true, 0, 0, 8, 6, 0⟩) ∧
  decode64 0b0_1_1100001_110101010_000000000000000101_0000000000000000000000000000 = some (.liu false 426 5) ∧
  decode64 0b0_1_0111001_000000001_000000010_000000011_000_0_00_00_0000_000_0000000000010 =
    some (.kxor ⟨false, 1, 2, 3, 0, false, 0, 0, 0, 0, 2⟩) ∧
  decodeStream 0b00_000000011_00100 0 = some (.issue 3 4) ∧
  decodeStream 0b11_00101_000_10_0101 0xFFFE = some (.brp 2 5 (-2)) ∧
  decodeSlot .mx 0b000001_01_10_11_0110_001_010_01_1_0_000000000000000000 = some (.mma 1 2 3 6 1 2 1 true false) ∧
  decodeSlot .lb 0b000110_010_011_100_0000001000000_00000000 = some (.hld true 2 3 4 64)

/-- O21. (02 R35, R36, R49, 07 R166) where a thread's turn comes and neither a trap, a mark, a wait nor an interrupt comes first, the step
runs the instruction that the bytes at its program counter decode to; bytes that decode to none take ILLEGAL_OPCODE. -/
def Obligations.StepRunsTheDecodedInstruction : Prop :=
  ∀ (s : State) (w : Who) (t : Thread),
    TurnOf s w t → t.asyncs = [] → t.committing = false → t.wait = none → t.interruptible = false →
    (∀ i rest, decode (fetchBytes (s.tile w.tile) t.pc) = .ok (i, rest) →
      WellFormed i = true ∧ step s = exec i { s with cur := w }) ∧
    (∀ e, decode (fetchBytes (s.tile w.tile) t.pc) = .error e →
      step s = .next (turnTaken (raise w
        { code := 0x01, sub := 0, info := instrValue (fetchBytes (s.tile w.tile) t.pc), epc := t.pc, fpc := t.pc }
        { s with cur := w })))

/-- O22. (03 R76, R82, R84, 04 R111) what comes before an instruction at a boundary: an asynchronous trap that waits, with cr.status.inh =
0 and no interrupt to be taken; the second mark of a committing instruction, once its result has landed, and its thread's parking until
then, from which an interrupt takes it; an enabled interrupt, where the instruction there begins no precise trap; the parking of WFI, and
that of the other waits, which an interrupt ends. -/
def Obligations.BoundaryComesBeforeTheInstruction : Prop :=
  ∀ (s : State) (w : Who) (t : Thread), TurnOf s w t →
    let s0 : State := { s with cur := w }
    (∀ tr rest, t.asyncs = tr :: rest → t.status.inh = false → t.interruptible = false →
      ∃ s', step s = .next s' ∧ Did (raise w (tr.atBoundary t.pc) (s0.setThread w { t with asyncs := rest, wait := none })) s') ∧
    let interrupted := raiseAsync w cInterrupt (BitVec.ofNat 64 t.input) s0
    (t.asyncs = [] ∨ t.status.inh = true ∨ t.interruptible = true →
      (t.committing = true → (t.outst ≠ [] ∨ t.wait ≠ none) →
        ∃ s', step s = .next s' ∧ Did (if t.interruptible then interrupted else s0) s') ∧
      (t.committing = false → t.wait = none → t.interruptible = true → beganPrecise w (runFetched w t s0) = false →
        ∃ s', step s = .next s' ∧ Did interrupted s') ∧
      (t.committing = false → ∀ x, t.wait = some x → x ≠ .wfi →
        ∃ s', step s = .next s' ∧ Did (if t.interruptible then interrupted else s0) s') ∧
      (t.committing = false → t.wait = some .wfi → t.ipend &&& t.ienable = 0 → ∃ s', step s = .next s' ∧ Did s0 s'))

/-- O23. (00 R11, 08 R204, R206) the other steps: an act fixed for this cycle runs as its row of the table, then an outside party's act
that is due, then a completion that is due; a sequencer at a word runs it; and where nothing is left to act, the cycle passes. Every
event of the table, every slot's operation and every stream word completes in every state. -/
def Obligations.StepRunsWhatIsDue : Prop :=
  (∀ (s : State) (e : Event) (i : Instr), IsEvent i e → ∃ s', exec i s = .next s') ∧
  (∀ (s : State) (o : SlotOp) (i : Instr), IsSlot i o → ∃ s', exec i s = .next s') ∧
  (∀ (s : State) (a b : BitVec 16) (i : Instr), decodeStream a b = some i → ∃ s', exec i s = .next s') ∧
  (∀ (s : State) (tile : Nat) (o : SlotOp) (i : Instr) (rest : List Todo), IsSlot i o → s.todo = .slot tile o :: rest →
    step s = exec i { s with todo := rest, cur := ⟨tile, 0⟩ }) ∧
  (∀ (s : State) (e : Event) (i : Instr), IsEvent i e →
    (∀ rest, s.todo = .event e :: rest → step s = exec i { s with todo := rest }) ∧
    (s.todo = [] →
      (∀ c rest, s.inputs = (c, e) :: rest → c ≤ s.cycle → step s = exec i { s with inputs := rest }) ∧
      ((∀ c ∈ s.inputs.head?, s.cycle < c.1) → ∀ d rest, s.pend = d :: rest → d.ev = e → d.due ≤ s.cycle →
        step s = exec i { s with pend := rest }))) ∧
  (∀ s : State, s.todo = [] → (∀ c ∈ s.inputs.head?, s.cycle < c.1) → (∀ d ∈ s.pend.head?, s.cycle < d.due) →
    (∀ tile i, nextAgent s = some (.sequencer tile) → (s.tile tile).timed.seqr = .word → (s.tile tile).timed.swap = false →
      decodeStream ((s.tile tile).timed.word (s.tile tile).timed.files.ptr)
        ((s.tile tile).timed.word ((s.tile tile).timed.files.ptr + 1)) = some i →
      (isControl i = true → (s.tile tile).timed.controls < maxControls) → step s = exec i { s with cur := ⟨tile, 0⟩ }) ∧
    (nextAgent s = none → ∃ s', step s = .next s' ∧ s'.cycle = s.cycle + 1 ∧ SameMemory s s'))

/-- O24. (log 1; 07 R169) every step keeps memory, its seals and the instruction stores in their canonical form, from every state in which
they have it. -/
def Obligations.StepKeepsMemoryCanonical : Prop :=
  ∀ s s' : State, MemoryCanonical s → step s = .next s' → MemoryCanonical s'

/-- O25. (logs 1, 4, 11) after reset memory is in that form and lists nothing, no thread stands in any slot, cr.cycle is 0, and the boot
ROM is what runs. -/
def Obligations.ResetHoldsNothingAndBoots : Prop :=
  MemoryCanonical State.reset ∧ (∀ a, State.reset.byte a = 0) ∧ (∀ w, State.reset.thread w = none) ∧ State.reset.cycle = 0 ∧
    step State.reset = exec .boot { State.reset with todo := [] }

/-- O26. (03 R68, R69, R70, R71, R73, R80) a thread as it is created. -/
def Obligations.CreatedThreadHoldsItsResetValues : Prop :=
  ∀ (serial : Nat) (entry : BitVec 15) (mode : BitVec 2) (window : Nat),
    let t := Thread.born serial entry mode window
    t.pc = entry ∧ (∀ r, t.getX r = 0) ∧ (∀ n, t.getV n = 0) ∧ t.getK 0 = ones 32 ∧ (∀ n, n ≠ 0 → t.getK n = 0) ∧
    (∀ n, (t.getSeg n).kind = 0) ∧ t.status = { mode := mode } ∧ t.cause = 0 ∧ t.info = 0 ∧ t.epc = 0 ∧ t.fpc = 0 ∧ t.tvec = 0 ∧
    t.ienable = 0 ∧ t.ipend = 0 ∧ t.scratch = 0 ∧ t.fflags = 0 ∧ t.fmode = 0 ∧ t.srseed = 0 ∧ t.gen = seedGens 0 ∧
    t.timecmp = ones 64 ∧ t.outst = [] ∧ t.mpc = entry ∧ t.gated = [] ∧
    (∀ e j, extent t e j = if j < 4 then 1 else 0) ∧ (∀ r v, (t.setX 0 v).getX r = t.getX r) ∧ (∀ v, t.setK 0 v = t)

/-- O27. (05 R114, R117, R120, R124, 02 R44) a comparison fills the mask bits of each active element's byte lanes; those of an inactive
one are kept, or with z cleared. With a queue or stream source it is long. (05 R135, R136) the operations on masks, the moves between
masks and x registers, and VMOVX, which writes one element as a 64-bit value. -/
def Obligations.ComparisonsMasksAndMoves : Prop :=
  (∀ (i : Instr) (s s1 : State) (t t1 : Thread) (f : VForm) (holds : Nat → Nat → Bool × Flags) (a b : Vec) (lat : Option Nat),
    let o : Opts := { w := f.w, len := 8, long := slowSource f.a || slowSource f.b, commits := commitsBy 0 f.a f.b }
    let w := etBits f.et
    s.thread s.cur = some t → compareForm i = some (f, holds) → WellFormed i = true → 1 ≤ f.d.toNat → f.d.toNat ≤ 7 →
    operandOk t srcKinds f.a f.ka = true → operandOk t srcKinds f.b f.kb = true → MayIssue o t →
    readOperands t.pc w (tagOfEt f.et) 0 f.a f.ka f.b f.kb (begun o t s) = .ok ((a, b, lat), s1) → s1.thread s.cur = some t1 →
    ∃ value mask flags,
      (∀ bit < 32, let j := bit * 8 / w
        if (t.getK f.mask).getLsbD (j * w / 8) then
          value.getLsbD bit = (holds (elem a.toNat w j) (elem b.toNat w j)).1 ∧ mask.getLsbD bit = true
        else value.getLsbD bit = false ∧ mask.getLsbD bit = f.z) ∧
      flags = (List.range (256 / w)).foldl (fun x j =>
        if (t.getK f.mask).getLsbD (j * w / 8) then x ||| (holds (elem a.toNat w j) (elem b.toNat w j)).2.toBits else x) 0 ∧
      let ws : List Write := [.k (f.d.setWidth 3) value mask, .flags flags]
      exec i s = .next (ended o (match lat with
        | none => s1.setThread s.cur ((t1.setK (f.d.setWidth 3)
            ((t1.getK (f.d.setWidth 3) &&& ~~~mask) ||| (value &&& mask))).write (.flags flags))
        | some n => landing t.pc n [(2, f.d.toNat)] ws s1))) ∧
  (∀ (s : State) (t : Thread) (f : VForm),
    s.thread s.cur = some t → (f.w = true → t.outst = []) →
    (∀ i unary g, maskForm i = some (f, unary, g) → 1 ≤ f.d.toNat → f.d.toNat ≤ 7 → f.a.toNat < 8 → (unary = true ∨ f.b.toNat < 8) →
      ∃ s', exec i s = .next s' ∧
        Did (s.setThread s.cur ((t.stepped 8).setK (f.d.setWidth 3) (g (t.getK (f.a.setWidth 3)) (t.getK (f.b.setWidth 3))))) s') ∧
    (1 ≤ f.d.toNat → f.d.toNat ≤ 7 → IsX f.a →
      ∃ s', exec (.kfromx f) s = .next s' ∧
        Did (s.setThread s.cur ((t.stepped 8).setK (f.d.setWidth 3) ((t.getX (xOf f.a)).extractLsb' 0 32))) s') ∧
    (IsX f.d → f.a.toNat < 8 →
      ∃ s', exec (.ktox f) s = .next s' ∧
        Did (s.setThread s.cur ((t.stepped 8).setX (xOf f.d) (BitVec.ofNat 64 (t.getK (f.a.setWidth 3)).toNat))) s') ∧
    (IsX f.d → f.a.toNat < 384 → f.a.toNat < t.window → f.ka = 0 → f.imm.toNat % 128 < 256 / etBits f.et →
      ∃ s', exec (.vmovx f) s = .next s' ∧
        Did (s.setThread s.cur ((t.stepped 8).setX (xOf f.d)
          (BitVec.ofInt 64 (elemInt f.et (elem (t.getV f.a.toNat).toNat (etBits f.et) (f.imm.toNat % 128)))))) s'))

/-- O28. (05 R133) a reduction of the active elements, to an x register or to element 0 of a destination whose rest is zero. (05 R134) a
scan: each active element becomes the running value up to it; inactive ones are skipped. -/
def Obligations.ReductionsAndScans : Prop :=
  (∀ (s s1 : State) (t : Thread) (f : VForm) (a b : Vec) (lat : Option Nat),
    let o : Opts := { w := f.w, len := 8, long := slowSource f.a, commits := commitsBy f.d f.a 424, vregs := vDest f.d }
    let r := redValue (f.imm.toNat % 8) f.et (t.getK f.mask) a.toNat
    s.thread s.cur = some t → operandOk t [.x, .v, .q, .s, .n] f.d 0 = true → operandOk t srcKinds f.a f.ka = true → MayIssue o t →
    readOperands t.pc (etBits f.et) (tagOfEt f.et) f.d f.a f.ka 424 0 (begun o t s) = .ok ((a, b, lat), s1) →
    (IsX f.d → exec (.vred f) s = .next (ended o (match lat with
      | none => s1.modThread s.cur fun u => (u.setX (xOf f.d) r.1).write (.flags r.2)
      | some n => landing t.pc n [destX (xOf f.d)] [.x (xOf f.d) r.1, .flags r.2] s1))) ∧
    (¬ IsX f.d → ∀ s2, putVector t.pc f.d lat (r.1.setWidth 256) fullMask false (tagOfEt f.et) r.2 s1 = .ok ((), s2) →
      exec (.vred f) s = .next (ended o s2))) ∧
  (∀ (s s1 : State) (t : Thread) (f : VForm) (a b : Vec) (lat : Option Nat),
    let l := scanLane f
    let k := t.getK f.mask
    let w := etBits f.et
    let upTo := scanTo f k a.toNat (l.mode t k)
    s.thread s.cur = some t → operandOk t dstKinds f.d 0 = true → operandOk t srcKinds f.a f.ka = true → MayIssue l.opts t →
    readOperands t.pc w (tagOfEt f.et) f.d f.a f.ka 424 0 (begun l.opts t s) = .ok ((a, b, lat), s1) →
    ∃ value mask : Vec,
      (∀ j < 256 / w,
        if k.getLsbD (j * w / 8) then
          some (elem value.toNat w j) = (upTo (j + 1)).1.map (· % 2 ^ w) ∧ elem mask.toNat w j = 2 ^ w - 1
        else elem value.toNat w j = 0 ∧ elem mask.toNat w j = 0) ∧
      ∀ s2, putVector t.pc f.d lat value mask f.z (tagOfEt f.et) (upTo (256 / w)).2
          (s1.modThread s.cur fun u => { u with gen := l.gen t }) = .ok ((), s2) →
        exec (.vscan f) s = .next (ended l.opts s2))

/-- O29. (05 R116, R129 to R132, 01 R16, R17, R23 to R26, 09 R252, R253) the instructions on groups write each computed element of their
destination group, with z the inactive ones as zero; VMXQ its scales too. No other register changes. -/
def Obligations.GroupInstructionWritesItsElements : Prop :=
  ∀ (i : Instr) (s : State) (t t1 : Thread) (g : Group),
    s.thread s.cur = some t → groupForm i = some g → IsGroup t g.f.d 0 g.regs → IsGroup t g.f.a g.f.ka g.src →
    (0 < g.bsrc → IsGroup t g.f.b g.f.kb g.bsrc) → (g.scales.isSome = true → IsX g.f.b ∧ g.f.kb = 0) →
    WellFormed i = true → MayIssue g.opts t → (begun g.opts t s).thread s.cur = some t1 →
    let t2 := match g.scales with
      | some f => t1.setX (xOf g.f.b) (f (bitsOf t g.f.a g.src))
      | none => t1
    ∃ s' t', exec i s = .next s' ∧ Did ((begun g.opts t s).setThread s.cur t') s' ∧
      { t' with v := t2.v, fflags := t2.fflags, gen := t2.gen } = t2 ∧
      t'.fflags = (List.range g.n).foldl (fun x j =>
        if g.active (t.getK g.f.mask) j then x ||| (g.result t j).2.toBits else x) t.fflags ∧
      t'.gen = (Vector.ofFn fun j => if g.draws t then genSteps (g.drawn (t.getK g.f.mask) j g.n) t.gen[j] else t.gen[j]) ∧
      (∀ r, r ∉ g.regsOf → t'.getV r = t.getV r) ∧
      ∀ j < g.n, elem (t'.getV (g.f.d.toNat + j * g.w / 256)).toNat g.w (j * g.w % 256 / g.w) =
        if g.active (t.getK g.f.mask) j then (g.result t j).1 % 2 ^ g.w
        else if g.f.z then 0
        else elem (t.getV (g.f.d.toNat + j * g.w / 256)).toNat g.w (j * g.w % 256 / g.w)

/-- O30. (05 R137 to R139, R142, 04 R99) VLD and VGATH issue with their granules requested; a load with no active element lands 8 cycles
later with nothing loaded. No byte of memory changes. (05 R141, 01 R20, R22) an unpacking load requests the granules that its active
outputs' fields touch. -/
def Obligations.VectorLoadsIssue : Prop :=
  (∀ (s : State) (t t1 : Thread) (f : VForm) (bytes : BitVec 32),
    let w := etBits f.et
    let o : Opts := { w := f.w, len := 8, long := true, vregs := [f.d.toNat] }
    let g := t.getSeg (vSegment f)
    let mask := byteMask bytes
    let zero : Vec := if f.z then ~~~mask else 0
    let s1 := begun o t s
    let out (reqs : List Req) (fin : Finish) : Nat → Outst := fun tok =>
      { tok := tok, pc := t.pc, reqs := reqs, fin := fin, expect := if f.round.getLsbD 0 then some (tagOfEt f.et) else none
        lands := s.cycle, dests := [destV f.d.toNat] }
    s.thread s.cur = some t → s1.thread s.cur = some t1 → f.d.toNat < 384 → f.d.toNat < t.window → IsX f.a → f.ka = 0 →
    MayIssue o t → BytesOf (t.getK f.mask) w bytes →
    (bytes = 0 → ∃ s', exec (.vld f) s = .next s' ∧ SameMemory s s' ∧
      Did (loading (out [] (.vector f.d.toNat mask zero)) 32 0 false s1) s') ∧
    (∀ first last, Spans bytes first last → GranuleOk s g .read (vOffset t f) first last →
      ∃ s', exec (.vld f) s = .next s' ∧ SameMemory s s' ∧
        Did (loading (out [t1.request (g.key (g.addr (vOffset t f))) (ones 32)] (.vector f.d.toNat mask zero)) 32 0 false s1) s') ∧
    (WellFormed (.vgath f) = true → operandOk t [.v] f.b f.kb = true → ∀ (a index : Vec) (lat : Option Nat) (s2 : State),
      readOperands t.pc w 0 f.d 424 0 f.b f.kb s1 = .ok ((a, index, lat), s2) →
      let place (j : Nat) : Nat := vOffset t f + elem index.toNat w j
      let js := (List.range (256 / w)).filter fun j => (t.getK f.mask).getLsbD (j * w / 8)
      (∀ j ∈ js, PieceOk s g .read (place j) (w / 8) ∧ place j % (w / 8) = 0) →
      let keys := (js.map fun j => g.key (g.addr (place j))).eraseDups
      let needed (k : GKey) : BitVec 32 := js.foldl (fun m j =>
        if g.key (g.addr (place j)) = k then m ||| byteBits (g.addr (place j) % 32) (w / 8) else m) 0
      let picks := js.map fun j => (j, keys.findIdx (· = g.key (g.addr (place j))), g.addr (place j) % 32 * 8)
      ∃ s', exec (.vgath f) s = .next s' ∧ SameMemory s s' ∧
        Did (loading (out (keys.map fun k => t1.request k (needed k)) (.gather f.d.toNat w picks zero)) 32 0 false s2) s')) ∧
  (∀ (s : State) (t t1 : Thread) (f : VForm) (bytes : BitVec 32),
    let o : Opts := { w := f.w, len := 8, long := true, vregs := [f.d.toNat] }
    let g := t.getSeg (vSegment f)
    let pat := (s.tile s.cur.tile).upat[f.et.toNat % 8]?.getD 0
    let w := patOut pat
    let active := byteMask bytes
    s.thread s.cur = some t → (begun o t s).thread s.cur = some t1 → f.d.toNat < 384 → f.d.toNat < t.window → IsX f.a → f.ka = 0 →
    MayIssue o t → BytesOf (t.getK f.mask) w bytes →
    let outs := (List.range (256 / w)).filter fun k => (t.getK f.mask).getLsbD (k * w / 8)
    let touched (n : Nat) : Bool := outs.any fun k => patBit pat k / 256 = n || (patBit pat k + patW pat - 1) / 256 = n
    ∀ last, (∀ n, touched n = true → n ≤ last) → (touched last = true ∨ last = 0) →
    (∀ n, touched n = true → GranuleOk s g .read (vOffset t f + 32 * n) 0 31) →
    let reqs := (List.range (last + 1)).map fun n =>
      if touched n then t1.request (g.key (g.addr (vOffset t f + 32 * n))) (ones 32)
      else { key := g.key (g.addr (vOffset t f + 32 * n)), got := some 0 }
    ∃ s', exec (.vldx f) s = .next s' ∧ SameMemory s s' ∧
      Did (loading (fun tok =>
        { tok := tok, pc := t.pc, reqs := reqs, fin := .unpack f.d.toNat pat 0 active (if f.z then ~~~active else 0)
          expect := if f.round.getLsbD 0 then some (patTag pat) else none, lands := s.cycle, dests := [destV f.d.toNat] })
        32 0 true (begun o t s)) s')

/-- O31. (05 R140, R143, 03 R82) VST and VSCAT hold their bytes in the store buffer, a whole granule with its tag, and no byte of memory
changes; VST with no active element stores nothing. (05 R144, R145, 08 R208, R209) VSTM sends its granule to each destination of its
cluster that may receive it; UPATW and TBLW are due 4 cycles after issue. All commit. -/
def Obligations.VectorStoresIssue : Prop :=
  (∀ (s : State) (t : Thread) (f : VForm) (bytes : BitVec 32),
    let g := t.getSeg (vSegment f)
    let s0 := s.setThread s.cur (t.stepped 8)
    s.thread s.cur = some t → (f.w = true → t.outst = []) → f.d.toNat < 384 → f.d.toNat < t.window → IsX f.a → f.ka = 0 →
    BytesOf (t.getK f.mask) (storeAs f).2 bytes →
    (bytes = 0 → ∃ s', exec (.vst f) s = .next s' ∧ Did s0 s') ∧
    (∀ first last, Spans bytes first last → GranuleOk s g .write (vOffset t f) first last →
      t.gated.length < 64 → (g.kind = 1 → t.outst.length < 32) →
      ∃ s', exec (.vst f) s = .next s' ∧ SameMemory s s' ∧
        Did (gating t.pc g (g.addr (vOffset t f)) (t.getV f.d.toNat) bytes (some (storeAs f).1) s0) s') ∧
    (WellFormed (.vscat f) = true → operandOk t [.v] f.b f.kb = true → ∀ (a index : Vec) (lat : Option Nat) (s2 : State),
      let w := etBits f.et
      readOperands t.pc w 0 f.d 424 0 f.b f.kb s0 = .ok ((a, index, lat), s2) →
      let place (j : Nat) : Nat := vOffset t f + elem index.toNat w j
      let js := (List.range (256 / w)).filter fun j => (t.getK f.mask).getLsbD (j * w / 8)
      (∀ j ∈ js, PieceOk s g .write (place j) (w / 8) ∧ place j % (w / 8) = 0) →
      t.gated.length + js.length ≤ 64 → (g.kind = 1 → t.outst.length + js.length ≤ 32) →
      ∃ s', exec (.vscat f) s = .next s' ∧ SameMemory s s' ∧
        Did (js.foldl (fun s j =>
          let addr := g.addr (place j)
          gating t.pc g addr (BitVec.ofNat 256 (elem (t.getV f.d.toNat).toNat w j * 2 ^ (8 * (addr % 32))))
            (byteBits (addr % 32) (w / 8)) none s) s2) s')) ∧
  (∀ (s : State) (t : Thread) (f : VForm),
    let o : Opts := { w := f.w, len := 8, long := true, commits := true }
    let s1 := begun o t s
    s.thread s.cur = some t → t.outst = [] →
    (let g := t.getSeg (vSegment f)
     let off := vOffset t f
     let addr := g.addr off
     let c := clusterOf s.cur.tile
     let tiles := ((List.range 16).filter ((t.getX (xOf f.b)).getLsbD ·)).map (clusterTile c)
     f.d.toNat < 384 → f.d.toNat < t.window → IsX f.a → IsX f.b → f.ka = 0 → f.kb = 0 → g.kind = 2 → RightsOk s g .write off →
     off + 32 ≤ g.limit.toNat + 1 → off % 32 = 0 → addr % 32 = 0 →
     (∀ n ∈ tiles, s.hole n = false ∧ (s.tile n).openGranule addr = true ∧ (s.tile n).locked false true addr (addr + 31) = false) →
     ∃ s', exec (.vstm f) s = .next s' ∧ SameMemory s s' ∧ Did (committing (
       if tiles = [] then (addResult s1 fun tok => { tok := tok, pc := t.pc, fin := .ready [], lands := s.cycle + 1 }).schedule
         (s.cycle + 1) phaseLand (.longResultLands s.cur s1.serial)
       else sendMulticast s1.serial addr (sealed (t.getV f.d.toNat) (storeAs f).1)
         (addResult s1 fun tok => { tok := tok, pc := t.pc, fin := .ready [], lands := s.cycle }) tiles)) s') ∧
    (IsX f.a → patOk (t.getX (xOf f.a)) = true → (s.regionLaunch s.cur.tile = true → 1 ≤ t.status.mode.toNat) →
      ∃ s', exec (.upatw f) s = .next s' ∧ Did (committing ((addResult s1 fun tok =>
        { tok := tok, pc := t.pc, fin := .ready [.upat (f.imm.toNat % 8) (t.getX (xOf f.a))], lands := s.cycle + 4 }).schedule
          (s.cycle + 4) phaseLand (.longResultLands s.cur s1.serial))) s') ∧
    (operandOk t [.v, .q, .s] f.a f.ka = true → ∀ (v : Vec) (lat : Nat) (s2 : State), tableSource t.pc f s1 = .ok ((v, lat), s2) →
      let put (wr : Write) : State := committing (landing t.pc lat [] [wr] s2)
      (f.a.toNat < 384 → lat = 4) ∧
      (∃ s', exec (.tblwS f) s = .next s' ∧ Did (put (.half (f.imm.toNat % 256) v)) s') ∧
      ((∀ id r, s.tileRegion s.cur.tile = some (id, r) → t.status.mode = 0 → isSteward s t r = true) →
        entryFault s s.cur.tile v = none →
        ∃ s', exec (.tblwB f) s = .next s' ∧ Did (put (.bundle (f.imm.toNat % 512) v)) s')))

/-- O32. (02 R42, 05 R114, R117, 06 R155, R156, 07 R177, R185) what each kind of source reads: a vector register, or an x register in
every element, changing nothing; a predecessor's value, or parking while there is none, or PREDECESSOR_POISON; the head of a queue and the
next granule of a stream, whose seals must hold, or parking, and a transfer unit that a fault has stopped fetches on. What is read from a queue or a stream is then taken. (05 R114, 07 R177, R181,
R186, 04 R90) where a result goes: a vector register under its mask; a queue, with its place taken from issue and its push due 2 cycles
on, or when a long result lands; a write stream; a port, along whose string the granule leaves. The granule holds zero where nothing is
computed. A scalar result goes to an x register or as a granule tagged 0x05. -/
def Obligations.SourcesReadAndDestinationsTake : Prop :=
  (∀ (s : State) (t : Thread) (pc : BitVec 15) (w : Nat) (tag : BitVec 6) (c : OpCode) (k : BitVec 2) (n : Nat),
    s.thread s.cur = some t → 0 < w → w ≤ 64 →
    (c.toNat < 384 → k = 0 → readSource pc w tag c k n s = .ok (t.getV c.toNat, s)) ∧
    (IsX c → ∃ v, readSource pc w tag c k n s = .ok (v, s) ∧
      (256 % w = 0 → ∀ j < 256 / w, elem v.toNat w j = (t.getX (xOf c)).toNat % 2 ^ w)) ∧
    (c.toNat < 384 → k ≠ 0 → ∀ key : FwdKey, key = ⟨t.item.toNat, (t.fregs.findIdx? (· = c.toNat)).getD 0, k.toNat⟩ →
      let held := (((s.slot s.cur).fwd.find? fun p => p.1 = key).map (·.2))
      (held = none → readSource pc w tag c k n s = .error .park) ∧
      (held = some .poison → readSource pc w tag c k n s = .error (.trap cPredecessorPoison 0 ((k ++ c).setWidth 64) false)) ∧
      ∀ g seed v, held = some (.value g seed) → sealCheck g none = .ok (v, false) → readSource pc w tag c k n s = .ok (v, s)) ∧
    (384 ≤ c.toNat → c.toNat < 400 →
      let q := (s.tile s.cur.tile).queue (c.toNat - 384)
      let head := s.granule (.sram s.cur.tile (q.offset (q.head + n)))
      (q.count ≤ n → readSource pc w tag c k n s = .error (.parkQueue (c.toNat - 384))) ∧
      (n < q.count → ∀ v, sealCheck head (some tag) = .ok (v, false) → readSource pc w tag c k n s = .ok (v, s)) ∧
      ∃ s', consume c s = .ok ((), s') ∧
        (s'.tile s.cur.tile).queue (c.toNat - 384) = { q with head := (q.head + 1) % q.depth, count := q.count - 1, parked := [], stay := [] } ∧
        SameMemory s s') ∧
    (400 ≤ c.toNat → c.toNat < 416 → ∀ st, (s.tile s.cur.tile).stream (c.toNat - 400) = some st →
      (st.owner ≠ s.cur.slot ∨ st.thread ≠ t.serial ∨ st.write = true →
        readSource pc w tag c k n s = .error (.trap cQueueFault 0 (BitVec.ofNat 64 (0x10 + (c.toNat - 400))) false)) ∧
      (st.owner = s.cur.slot → st.thread = t.serial → st.write = false →
        ((∀ p ∈ st.held, p.1 ≠ st.pos + n) → readSource pc w tag c k n s = .error (
          if st.stalled then .done (startPrefetch s.cur.tile (c.toNat - 400) (s.modTile s.cur.tile fun u =>
            u.setStream (c.toNat - 400) (some { st with stalled := false })))
          else .park)) ∧
        ∀ g v, st.held.find? (fun p => p.1 = st.pos + n) = some (st.pos + n, some g, none) → sealCheck g (some tag) = .ok (v, false) →
          readSource pc w tag c k n s = .ok (v, s)))) ∧
  (∀ (s : State) (t : Thread) (pc : BitVec 15) (c : OpCode) (lat : Option Nat) (value mask : Vec) (z : Bool) (tag : BitVec 6)
    (fl : BitVec 7) (word : Word),
    s.thread s.cur = some t →
    let g := sealed (value &&& mask) tag
    let put := putVector pc c lat value mask z tag fl s
    (c.toNat < 384 → lat = none → ∃ s' t', put = .ok ((), s') ∧ s' = s.setThread s.cur t' ∧
      (∀ n, t'.getV n = if n = c.toNat then blend (t.getV n) (value &&& mask) (if z then fullMask else mask) else t.getV n) ∧
      t'.fflags = t.fflags ||| fl ∧ t'.x = t.x ∧ t'.k = t.k ∧ t'.pc = t.pc ∧ t'.outst = t.outst) ∧
    (384 ≤ c.toNat → c.toNat < 400 →
      let j := c.toNat - 384
      let s1 := s.modTile s.cur.tile fun u => u.setQueue j { u.queue j with inFlight := (u.queue j).inFlight + 1 }
      put = .ok ((), landsLater s.serial (lat.getD 2) phaseAccess (addResult s1 fun tok =>
        { tok := tok, pc := pc, fin := .ready [.push j g, .flags fl], lands := s.cycle + lat.getD 2 }))) ∧
    (400 ≤ c.toNat → c.toNat < 416 → ∀ st, (s.tile s.cur.tile).stream (c.toNat - 400) = some st →
      st.owner = s.cur.slot → st.thread = t.serial → st.write = true → st.seg.kind = 2 →
      let addr := st.seg.address (st.offset st.pos)
      (s.tile s.cur.tile).shutGranule addr 32 = none →
      put = .ok ((), landing pc (lat.getD 1) [] [.stream (c.toNat - 400) g (.sram s.cur.tile addr), .flags fl] s)) ∧
    (416 ≤ c.toNat → c.toNat < 424 → ∀ desc, (s.tile s.cur.tile).ports[c.toNat - 416]?.getD none = some desc →
      put = .ok ((), inject s.serial pc desc (.granule (desc.toNat / 2 ^ 200 % 16) g) (lat.getD 0)
        (addResult s fun tok => { tok := tok, pc := pc, fin := .ready [.flags fl], lands := s.cycle }))) ∧
    (IsX c → lat = none → putScalar pc c lat word s = .ok ((), s.setThread s.cur (t.setX (xOf c) word))) ∧
    (384 ≤ c.toNat → c.toNat < 400 →
      let j := c.toNat - 384
      let s1 := s.modTile s.cur.tile fun u => u.setQueue j { u.queue j with inFlight := (u.queue j).inFlight + 1 }
      putScalar pc c lat word s = .ok ((), landsLater s.serial (lat.getD 2) phaseAccess (addResult s1 fun tok =>
        { tok := tok, pc := pc, fin := .ready [.push j (sealed (BitVec.ofNat 256 word.toNat) 5)], lands := s.cycle + lat.getD 2 }))))

/-- O33. (07 R177) a queue is first in, first out: a granule pushed stands after those already held, which stay, and is written with its
seal; nothing else of memory changes. -/
def Obligations.QueueIsFirstInFirstOut : Prop :=
  ∀ (s : State) (tile j : Nat) (g : Granule),
    let q := (s.tile tile).queue j
    let s' := pushGranule tile j g s
    let q' := (s'.tile tile).queue j
    j < 16 → q.enabled = true → q.head < q.depth → q.count < q.depth → q.tail = (q.head + q.count) % q.depth →
    q.offset 0 + 32 * q.depth ≤ sramSpan →
    q'.count = q.count + 1 ∧ q'.head = q.head ∧ q'.tail = (q'.head + q'.count) % q'.depth ∧ q'.cfg = q.cfg ∧
    s'.granule (.sram tile (q'.offset (q'.head + q.count))) = g ∧
    (∀ i < q.count, s'.granule (.sram tile (q'.offset (q'.head + i))) = s.granule (.sram tile (q.offset (q.head + i)))) ∧
    ∀ a, (a < Loc.addr (.sram tile (q.offset q.tail)) ∨ Loc.addr (.sram tile (q.offset q.tail)) + 32 ≤ a) → s'.byte a = s.byte a

/-- O34. (07 R178 to R180) QCFG configures a queue, empty, from a legal word, and refuses any other; reads its state; and loads a port's
descriptor. (07 R174, R183, R184, R186) SCFG binds a free stream to its descriptor, registers its range lock and starts its transfer unit;
frees a stream that its thread holds before it binds it anew; and frees one. Another thread's, or an unbound one, is QUEUE_FAULT. -/
def Obligations.QueueAndStreamConfiguration : Prop :=
  (∀ (s : State) (t : Thread) (w : Bool) (a d : Reg) (j : BitVec 4) (n : BitVec 3),
    let s1 := begun { commits := true } t s
    let v := t.getX a
    let q := (s.tile s.cur.tile).queue j.toNat
    s.thread s.cur = some t →
    (QueueLegal (s.tile s.cur.tile) v → t.outst = [] → ∃ s', exec (.qcfgSet w a j) s = .next s' ∧
      Did (committing (s1.modTile s.cur.tile fun u => u.setQueue j.toNat
        { cfg := v, inFlight := q.inFlight, stay := (q.stay ++ q.parked).filter (·.1 ≠ s.cur.slot) })) s') ∧
    (¬ QueueLegal (s.tile s.cur.tile) v → t.outst = [] → Traps (.qcfgSet w a j) s t cIllegalOperand 0 (codeOf (.qcfgSet w a j))) ∧
    ((w = true → t.outst = []) → ∃ s', exec (.qcfgGet w d j) s = .next s' ∧
      Did (s.setThread s.cur ((t.stepped 4).setX d (BitVec.ofNat 64
        (q.count % 512 + 2 ^ 9 * (q.head % 256) + 2 ^ 17 * (q.tail % 256) + 2 ^ 25 * q.enabled.toNat)))) s') ∧
    (∀ desc : Vec, t.outst = [] → DescriptorAt s1 t v.toNat [desc] →
      let len := desc.toNat / 2 ^ 192 % 256
      let legal := 1 ≤ len ∧ len ≤ 64 ∧ desc.toNat / 2 ^ 204 = 0
      (legal → ∃ s', exec (.qcfgPort w a n) s = .next s' ∧
        Did (committing (s1.modTile s.cur.tile fun u => { u with ports := u.ports.setIfInBounds n.toNat (some desc) })) s') ∧
      (¬ legal → Traps (.qcfgPort w a n) s t cIllegalOperand 0 (codeOf (.qcfgPort w a n))))) ∧
  (∀ (s : State) (t : Thread) (w : Bool) (a : Reg) (n : BitVec 3) (j : BitVec 4),
    let s1 := begun { commits := true } t s
    let fault : Word := BitVec.ofNat 64 (0x10 + j.toNat)
    s.thread s.cur = some t → t.outst = [] →
    ((s.tile s.cur.tile).stream j.toNat = none →
      Traps (.scfgFree w j) s t cQueueFault 0 fault ∧
      ∀ d0 d1 : Vec, DescriptorAt s1 t (t.getX a).toNat [d0, d1] →
        let st := streamOf d0 d1 (t.getSeg n) s.cur.slot t.serial
        BindOk s (t.getSeg n) st d0 d1 → (s.tile s.cur.tile).locks.length < 16 →
        ∃ s', exec (.scfgBind w a n j) s = .next s' ∧
          Did (committing (startPrefetch s.cur.tile j.toNat (s1.modTile s.cur.tile fun u =>
            (u.setStream j.toNat (some st)).lockIn (st.lock j.toNat)))) s') ∧
    ∀ st, (s.tile s.cur.tile).stream j.toNat = some st →
      (st.owner ≠ s.cur.slot ∨ st.thread ≠ t.serial →
        Traps (.scfgFree w j) s t cQueueFault 0 fault ∧ Traps (.scfgBind w a n j) s t cQueueFault 0 fault) ∧
      (st.owner = s.cur.slot → st.thread = t.serial →
        (∃ s', exec (.scfgBind w a n j) s = .next s' ∧
          Did ((s1.modTile s.cur.tile (·.freeStream j.toNat)).modThread s.cur fun u => { u with pc := t.pc }) s') ∧
        (st.write = false ∨ st.drain = [] → ∃ s', exec (.scfgFree w j) s = .next s' ∧
          Did (committing (landing t.pc (if st.write then 1 else 2) [] [] (s1.modTile s.cur.tile (·.freeStream j.toNat)))) s') ∧
        (st.write = true → st.drain ≠ [] → ∃ s', exec (.scfgFree w j) s = .next s' ∧ Did (markedFirst { commits := true } t s) s')))

/-- O35. (07 R187, R188) SPAWN's status, due 6 cycles and one for each vector register after issue; with status 0 the child starts. (07
R189) spawn.evict in kernel mode: statuses 2 and 3, an empty slot as a plain SPAWN, and for an occupied one an eviction that begins, with
the save area's places. -/
def Obligations.SpawnInstructions : Prop :=
  (∀ (s : State) (t : Thread) (f : AForm) (slot : BitVec 3),
    let o : Opts := { commits := true }
    let s1 := begun o t s
    let v := t.getX f.b
    let entry : BitVec 15 := BitVec.ofNat 15 (t.getX f.a).toNat
    let vc := v.toNat / 2 ^ 9 % 64
    let status := spawnStatusOf (s.tile s.cur.tile) s.cur.slot slot.toNat t.window
    let child := t.child entry v
    s.thread s.cur = some t → t.outst = [] →
    (¬ CopyLegal t v → Traps (.spawn f slot) s t cIllegalOperand 0 (codeOf (.spawn f slot))) ∧
    (CopyLegal t v →
      ((t.getX f.a).toNat % 4 ≠ 0 → Traps (.spawn f slot) s t cMisaligned 0 (t.getX f.a)) ∧
      ((t.getX f.a).toNat % 4 = 0 →
        (∃ s', exec (.spawn f slot) s = .next s' ∧
          Did (committing (landing t.pc (6 + vc) [destX f.d] [.x f.d (BitVec.ofNat 64 status)]
            (if status = 0 then startChild ⟨s.cur.tile, slot.toNat⟩ child (s.cycle + 6 + vc) s1 else s1))) s') ∧
        child.pc = entry ∧ child.status = { mode := t.status.mode } ∧ child.window = t.window ∧ child.seg = t.seg ∧
        child.ttab = t.ttab ∧ child.item = ones 40 ∧ child.fregs = [] ∧ child.run = none ∧
        (∀ r : Reg, child.getX r =
          if v.toNat / 2 ^ 15 % 32 ≤ r.toNat ∧ r.toNat < v.toNat / 2 ^ 15 % 32 + v.toNat / 2 ^ 20 % 16 then t.getX r else 0) ∧
        ∀ n, child.getV n = if v.toNat % 512 ≤ n ∧ n < v.toNat % 512 + vc then t.getV n else 0))) ∧
  (∀ (s : State) (t : Thread) (f : AForm) (n slot : BitVec 3),
    let s1 := begun { commits := true } t s
    let v := t.getX f.b
    let entry : BitVec 15 := BitVec.ofNat 15 (t.getX f.a).toNat
    let vc := v.toNat / 2 ^ 9 % 64
    let tile := s.tile s.cur.tile
    let sl := tile.slot slot.toNat
    let g := t.getSeg n
    let answers (status : Nat) : Prop := ∃ s', exec (.spawnEvict f n slot) s = .next s' ∧
      Did (committing (landing t.pc 6 [destX f.d] [.x f.d (BitVec.ofNat 64 status)] s1)) s'
    s.thread s.cur = some t → t.outst = [] → 1 ≤ t.status.mode.toNat → CopyLegal t v → (t.getX f.a).toNat % 4 = 0 →
    (tile.width ≤ slot.toNat → answers 2) ∧
    (slot.toNat < tile.width →
      (slot.toNat = s.cur.slot ∨ sl.victim.isSome = true ∨ sl.evict.isSome = true → answers 3) ∧
      (slot.toNat ≠ s.cur.slot → sl.victim = none → sl.evict = none →
        (sl.thread = none → ∃ s', exec (.spawnEvict f n slot) s = .next s' ∧
          let status := if 1536 < liveWindows tile + t.window then 4 else 0
          Did (committing (landing t.pc (6 + vc) [destX f.d] [.x f.d (BitVec.ofNat 64 status)]
            (if status = 0 then startChild ⟨s.cur.tile, slot.toNat⟩ (t.child entry v) (s.cycle + 6 + vc) s1 else s1))) s') ∧
        ∀ victim, sl.thread = some victim → g.kind = 2 → RightsOk s g .write 0 → 768 + 32 * victim.window ≤ g.limit.toNat + 1 →
          g.base.toNat % 32 = 0 → OwnOpen s .write (g.addr 0) (768 + 32 * victim.window) →
          let child : Thread := { t.child entry v with window := victim.window }
          let save := (List.range (24 + victim.window)).map fun i => Loc.sram s.cur.tile (g.addr (32 * i))
          let ev : Evict := { who := s.cur, serial := t.serial, tok := s1.serial, child := child, vectors := vc, save := save }
          let s2 := addResult s1 fun tok =>
            { tok := tok, pc := t.pc, fin := .evict slot.toNat f.d, lands := s.cycle, dests := [destX f.d] }
          let s3 := s2.modSlot ⟨s.cur.tile, slot.toNat⟩ fun u => { u with evict := some ev }
          ∃ s', exec (.spawnEvict f n slot) s = .next s' ∧
            Did (committing (s3.schedule (s.cycle + 1) phaseLand (.longResultLands s.cur s1.serial))) s')))

/-- O36. (07 R191 to R195) FORK's record, in the deque with its result 2 cycles on; POPC's choice, by the newest continuation of its slot
that no POPC has asked for; and a local STEAL of the far end. (07 R196, R197) ARM places a task record on a word, replacing the entry
armed on it, or disarms, and gives the entry's number or all ones; a word that is already zero fires at once. -/
def Obligations.DequeAndArmInstructions : Prop :=
  (∀ (s : State) (t : Thread) (w : Bool) (a d : Reg) (ty : BitVec 10) (off : BitVec 13),
    let s1 := begun { commits := true } t s
    let tile := s.tile s.cur.tile
    s.thread s.cur = some t → t.outst = [] →
    (a.toNat ≤ 29 →
      (32 ≤ tile.deque.length + tile.forking → Traps (.fork w a ty) s t cDequeOverflow 0 32) ∧
      (tile.deque.length + tile.forking < 32 →
        let record : Vec := BitVec.ofNat 256 ((t.getX (a + 2)).toNat * 2 ^ 192 + (t.getX (a + 1)).toNat * 2 ^ 128 +
          (t.getX a).toNat * 2 ^ 64 + ty.toNat * 2 ^ 32 + s.cur.tile % 2 ^ 16 * 2 ^ 16 + 0xC0)
        ∃ s', exec (.fork w a ty) s = .next s' ∧
          Did (committing (landing t.pc 2 [] [.task record]
            (s1.modTile s.cur.tile fun u => { u with forking := u.forking + 1 }))) s')) ∧
    (29 < a.toNat → Traps (.fork w a ty) s t cIllegalOperand 0 (codeOf (.fork w a ty))) ∧
    (let branch (s : State) : State := s.modThread s.cur fun u =>
       { u with hash := crc64Fold 1 u.hash 1, pc := jumpTo t.pc off.toInt }
     let popc (s2 : State) : Prop := ∃ s', exec (.popc w off) s = .next s' ∧ Did (committing (landing t.pc 4 [] [] s2)) s'
     match tile.conts.find? (·.1 = s.cur.slot) with
     | none => popc (branch s1)
     | some c =>
       let s2 := s1.modTile s.cur.tile fun u =>
         { u with conts := u.conts.filter (· ≠ c), deque := u.deque.filter (·.id ≠ c.2), dequeFrom := s.cycle + 1 }
       if tile.deque.any (·.id = c.2) then
         popc (dequeFreed s.cur.tile (s2.modThread s.cur fun u => { u with hash := crc64Fold 1 u.hash 0 }))
       else popc (branch s2)) ∧
    (d.toNat ≤ 28 →
      let r := (tile.deque.head?.map (·.record)).getD 0
      ∃ s', exec (.stealLocal w d) s = .next s' ∧
        Did (committing (landing t.pc 4 ((List.range 4).map fun i => destX (d + BitVec.ofNat 5 i))
          ((List.range 4).map (fun i => .x (d + BitVec.ofNat 5 i) (BitVec.ofNat 64 (r.toNat / 2 ^ (64 * i)))) ++
            [.fold 8 (BitVec.ofNat 64 r.toNat)])
          (dequeFreed s.cur.tile (s1.modTile s.cur.tile fun u =>
            { u with deque := u.deque.tail, dequeFrom := s.cycle + 1 })))) s')) ∧
  (∀ (s : State) (t : Thread) (f : AForm),
    let s1 := begun { commits := true } t s
    let tile := s.tile s.cur.tile
    let off := (t.getX f.a).toNat
    let legal := f.b.toNat ≤ 28 ∧ off % 8 = 0 ∧ tile.threadOwned off 8 = true
    let gives (v : Word) (s2 : State) : Prop := ∃ s', exec (.arm f) s = .next s' ∧
      Did (committing (landing t.pc 4 [destX f.d] [.x f.d v] s2)) s'
    s.thread s.cur = some t → t.outst = [] →
    (¬ legal → Traps (.arm f) s t cIllegalOperand 0 (codeOf (.arm f))) ∧
    (legal → Settled s1 t →
      (∀ i, f.b = 0 → ArmedOn tile off (some i) →
        gives (BitVec.ofNat 64 i) (s1.modTile s.cur.tile fun u => { u with armed := u.armed.setIfInBounds i none })) ∧
      (f.b = 0 → ArmedOn tile off none → gives (ones 64) s1) ∧
      (f.b ≠ 0 → ∀ i, (ArmedOn tile off (some i) ∨
          (ArmedOn tile off none ∧ i < 16 ∧ tile.armed[i]?.getD none = none ∧ ∀ k < i, tile.armed[k]?.getD none ≠ none)) →
        let record : Vec := (t.getX (f.b + 3) ++ t.getX (f.b + 2) ++ t.getX (f.b + 1) ++ t.getX f.b) ||| 0x80
        gives (BitVec.ofNat 64 i) (testArms s.cur.tile off (ones 32)
          (s1.modTile s.cur.tile fun u => { u with armed := u.armed.setIfInBounds i (some { off := off, record := record }) }))) ∧
      (f.b ≠ 0 → ArmedOn tile off none → (∀ k < 16, tile.armed[k]?.getD none ≠ none) → gives (ones 64) s1)))

/-- O37. (07 R181, R182, R188, R195, 11 R284) STEAL, DBELL and spawn.port over a port send their packets, their results outstanding until
the reply; a port never loaded is QUEUE_FAULT. -/
def Obligations.PortInstructionsSendPackets : Prop :=
  ∀ (s : State) (t : Thread) (w : Bool) (d a : Reg) (f : AForm) (n slot : BitVec 3),
    let s1 := begun { commits := true } t s
    let port := (s.tile s.cur.tile).ports[n.toNat]?.getD none
    let unloaded : Word := BitVec.ofNat 64 (0x200 + n.toNat)
    let spawns := CopyLegal t (t.getX f.b) ∧ (t.getX f.a).toNat % 4 = 0
    s.thread s.cur = some t → t.outst = [] →
    (port = none → (d.toNat ≤ 28 → Traps (.steal w d n) s t cQueueFault 0 unloaded) ∧ Traps (.dbell w d a n) s t cQueueFault 0 unloaded ∧
      (spawns → Traps (.spawnPort f n slot) s t cQueueFault 0 unloaded)) ∧
    ∀ desc, port = some desc →
      (d.toNat ≤ 28 → ∃ s', exec (.steal w d n) s = .next s' ∧ Did (committing (sending t.pc desc d (.steal d) s1)) s') ∧
      (Quiet s t ∨ pendingWithin s1 s.cur t.serial 6 = false →
        ∃ s', exec (.dbell w d a n) s = .next s' ∧
          Did (committing (sending t.pc desc d (.doorbell d ((t.getX a).toNat % 8)) s1)) s') ∧
      (spawns → ∃ s', exec (.spawnPort f n slot) s = .next s' ∧
        Did (committing (sending t.pc desc f.d (.spawn f.d slot.toNat ((t.getX f.b).toNat / 2 ^ 9 % 64)
          (t.child (BitVec.ofNat 15 (t.getX f.a).toNat) (t.getX f.b))) s1)) s')

/-- O38. (07 R198, 10 R277) BAR takes one mark after it, fences at its scope, and arrives; at tile scope the last arrival releases all, at
cluster scope each is on its way to the barrier unit for 4 cycles. Before its stores have performed it parks at itself. (07 R199) WAITC
leaves its thread waiting at it, with its word's read on its way and its timeout, if any, running from now. -/
def Obligations.BarriersAndWaitc : Prop :=
  (∀ (s : State) (t : Thread) (w : Bool) (a : Reg) (num : BitVec 4),
    let n := (t.getX a).toNat
    let s1 := barMarked t s
    let waiting (cluster : Bool) (s : State) : State :=
      s.modThread s.cur fun u => { u with pc := t.pc, wait := some (.barrier cluster num.toNat) }
    let parked := s1.modThread s.cur fun u => { u with pc := t.pc }
    s.thread s.cur = some t → t.outst = [] →
    (n = 0 ∨ 8 < n → Traps (.barTile w a num) s t cIllegalOperand 0 (codeOf (.barTile w a num))) ∧
    (n = 0 ∨ 128 < n → Traps (.barCluster w a num) s t cIllegalOperand 0 (codeOf (.barCluster w a num))) ∧
    (Quiet s t → pendingWithin s1 s.cur t.serial 1 = false ∧ pendingWithin s1 s.cur t.serial 2 = false) ∧
    (1 ≤ n → n ≤ 8 →
      if pendingWithin s1 s.cur t.serial 1 then ∃ s', exec (.barTile w a num) s = .next s' ∧ Did parked s'
      else
        let s2 := waiting false s1
        let b := ((s2.tile s.cur.tile).barriers[num.toNat]?.getD {}).arrive s.cur t.serial n
        let put (x : Barrier) : State := s2.modTile s.cur.tile fun u => { u with barriers := u.barriers.setIfInBounds num.toNat x }
        ∃ s', exec (.barTile w a num) s = .next s' ∧
          Did (if b.1.count ≤ b.1.arrived.length then b.1.arrived.foldl (releaseBar false num.toNat (s.cycle + 1)) (put {})
            else put b.1) s') ∧
    (1 ≤ n → n ≤ 128 →
      if pendingWithin s1 s.cur t.serial 2 then ∃ s', exec (.barCluster w a num) s = .next s' ∧ Did parked s'
      else
        let s2 := waiting true (acquire 2 s.cur s1)
        let c := clusterOf s.cur.tile
        ∃ s', exec (.barCluster w a num) s = .next s' ∧
          Did ((s2.modCluster c fun k => { k with arriving := k.arriving ++ [(num.toNat, s.cur, t.serial, n)] }).schedule
            (s.cycle + 4) phaseAccess (.barrierArrival c num.toNat t.serial)) s')) ∧
  (∀ (s : State) (t : Thread) (f : AtForm) (cond : BitVec 3),
    let g := t.getSeg f.seg
    let off := t.getX f.a
    let addr := g.addr off.toNat
    let timeout := (t.getX f.d).toNat
    s.thread s.cur = some t → (f.w = true → t.outst = []) → PieceOk s g .read off.toNat 8 →
    let s1 := startAccess (g.key addr) (addr % 32) 8 0 .word (s.setThread s.cur { t.stepped 4 with
      pc := t.pc
      wait := some (.word t.pc (g.key addr) (addr % 32) off (t.getX f.b) cond f.d
        (if timeout = 0 then none else some (s.cycle + timeout)) true false) })
    ∃ s', exec (.waitc f cond) s = .next s' ∧
      Did (if timeout = 0 then s1 else s1.schedule (s.cycle + timeout) phaseAccess (.waitcTimeout s.cur)) s')

/-- O39. (06 R153, R154, R157 to R159) ITEM, XIT and FWD issue with the declared registers that they name, and that the item has not sent,
on their way to the three successors that exist, as values, or as poison for xit.kill. FWD of a register that is not declared, of none, or
without an item is ILLEGAL_OPERAND. Deliveries that were under way when the thread was spilled belong to the instruction that it executes
again (06 R164). (13 R330, R331) POST issues with its value on its way to its targets: one tile, or every tile of the
region that runs there. A target that is no tile is ILLEGAL_OPERAND. -/
def Obligations.ItemsAndPosts : Prop :=
  (∀ (s : State) (t : Thread) (w : Bool) (d : Reg) (off : BitVec 13) (kill : Bool) (mask : BitVec 8),
    let s1 := begun { commits := true } t s
    let legal := mask ≠ 0 ∧ t.item ≠ ones 40 ∧ mask.toNat < 2 ^ t.fregs.length
    s.thread s.cur = some t →
    (t.outst = [] →
      (∃ s', exec (.item w d off) s = .next s' ∧
        Did (committing (sendAndWait s.cur t.pc (ones 8) false (.item d (jumpTo t.pc off.toInt)) s1)) s') ∧
      (∃ s', exec (.xit w kill) s = .next s' ∧ Did (committing (sendAndWait s.cur t.pc (ones 8) kill (.xit kill) s1)) s') ∧
      (legal → ∃ s', exec (.fwd w mask) s = .next s' ∧ Did (committing (sendAndWait s.cur t.pc mask false (.ready []) s1)) s')) ∧
    (¬ legal → Traps (.fwd w mask) s t cIllegalOperand 0 (codeOf (.fwd w mask))) ∧
    ∀ (m : BitVec 8) (poison : Bool) (fin : Finish) (r : Run), t.run = some r →
      let s2 := sendAndWait s.cur t.pc m poison fin s
      let l := s.launch r.launch
      let js := sends t m
      (∃ t', s2.thread s.cur = some t' ∧ t'.outst = t.outst ++ [{ tok := s.serial, pc := t.pc, fin := fin, lands := s.cycle + 1 }] ∧
        t'.sent = t.sent ||| (if js = [] then 0 else m)) ∧
      SameMemory s s2 ∧
      ∃ new, s2.deliveries =
          s.deliveries.map (fun x => if x.who = s.cur && x.thread = t.serial then { x with tok := s.serial } else x) ++ new ∧
        new.map (fun x => (x.who, x.tok, x.key, x.target, x.entry)) =
          js.flatMap (fun j => ([1, 2, 3].filter fun k => t.item.toNat + k < l.items).map fun k =>
            (s.cur, s.serial, ⟨t.item.toNat + k, j, k⟩, l.place ((t.item.toNat + k) % l.positions),
              if poison then FwdEntry.poison else .value (sealed (t.getV (t.fregs[j]?.getD 0)) 0) none))) ∧
  (∀ (s : State) (t : Thread) (w all : Bool) (st tt : Reg) (p : BitVec 4),
    let tile := (t.getX tt).toNat % 65536
    let i : Instr := if all then .postAll w st tt p else .post w st tt p
    let s1 := addResult (begun { commits := true } t s) fun tok =>
      { tok := tok, pc := t.pc, fin := .ready [], lands := s.cycle }
    let targets := match (if all then s.tileRegion tile else none) with
      | some (_, r) => r.tiles
      | none => [tile]
    s.thread s.cur = some t → t.outst = [] →
    (40960 ≤ tile → Traps i s t cIllegalOperand 0 (codeOf i)) ∧
    (tile < 40960 →
      let op : PostOp := { id := s1.serial, who := s.cur, thread := t.serial, tok := s1.serial - 1, pc := t.pc, value := t.getX st
                           p := p.toNat, left := targets }
      let s2 : State := { s1.fresh.2 with posts := s1.posts ++ [op] }
      ∃ s', exec i s = .next s' ∧ Did (committing (s2.schedule s.cycle phaseEnd (.postArrival s1.serial))) s'))

/-- O40. (08 R231, 13 R326, R327) TFENCE validates the idle half as it stands, its result due 132 cycles on; tfence.resume and
tfence.abort are for the steward of a halted region, which goes on from its snapshots or becomes fatal, and ILLEGAL_OPERAND for any other
thread. (14 R340, R343, R344, 16 R398) TRC's record is in its tile's buffer 2 cycles on; PMCS sets a counter and its selector, and PMCR
reads one, as the cycle ends; STEP empties the remote read caches of its die, or of the package, by the time it lands. -/
def Obligations.TimingTraceAndStepInstructions : Prop :=
  (∀ (s : State) (t : Thread) (w : Bool),
    let s1 := begun { commits := true } t s
    s.thread s.cur = some t →
    (t.outst = [] → ∃ s', exec (.tfence w) s = .next s' ∧ Did (committing ((addResult s1 fun tok =>
        { tok := tok, pc := t.pc, lands := s.cycle + 132
          fin := .publish (halfFault (s.tile s.cur.tile).timed.idleWord) (s.tile s.cur.tile).timed.edits }).schedule
            (s.cycle + 132) phaseLand (.tfenceValidationLanding s.cur))) s') ∧
    (stewardOf s = none → Traps (.tfenceResume w) s t cIllegalOperand 0 (codeOf (.tfenceResume w)) ∧
      Traps (.tfenceAbort w) s t cIllegalOperand 0 (codeOf (.tfenceAbort w))) ∧
    ∀ id r, stewardOf s = some (id, r) →
      (r.halted = false → Traps (.tfenceResume w) s t cIllegalOperand 0 (codeOf (.tfenceResume w)) ∧
        (r.started = true ∨ s.pkg.gsize ≤ 1 → Traps (.tfenceAbort w) s t cIllegalOperand 0 (codeOf (.tfenceAbort w)))) ∧
      (t.outst = [] →
        (r.halted = true → ∃ s', exec (.tfenceResume w) s = .next s' ∧
          Did (committing (s1.modRegion id fun r => { r with resumeAt := some (s.cycle + r.s) })) s') ∧
        (r.halted = true ∨ (r.started = false ∧ 1 < s.pkg.gsize) → ∃ s', exec (.tfenceAbort w) s = .next s' ∧
          Did (committing (fatalRegion id s1)) s'))) ∧
  (∀ (s : State) (t : Thread) (w : Bool) (a b d : Reg) (code : BitVec 8) (n : BitVec 2),
    let s1 := begun { commits := true } t s
    let s0 := s.setThread s.cur (t.stepped 4)
    s.thread s.cur = some t →
    (t.outst = [] →
      (∃ s', exec (.trc w a b code) s = .next s' ∧ Did (committing (landing t.pc 2 [] [.trace
        (traceRecord (BitVec.ofNat 64 s.cycle) (t.getX a) ((t.getX b).setWidth 32) s.cur.tile t.pc.toNat code 2
          (BitVec.ofNat 3 s.cur.slot))] s1)) s') ∧
      (∃ s', exec (.stepDie w) s = .next s' ∧ Did (committing (landingLater t.pc [] [.emptyRemote (tileDie s.cur.tile)] s1)) s') ∧
      (∃ s', exec (.stepPackage w) s = .next s' ∧ Did (committing (landingLater t.pc [] ((List.range 8).map .emptyRemote) s1)) s')) ∧
    (1 ≤ t.status.mode.toNat →
      let legal := (t.getX a).toNat % 256 ≤ 0x13 ∧ (t.getX a).toNat / 2 ^ 16 % 2 ^ 43 = 0
      (legal → (w = true → t.outst = []) → ∃ s', exec (.pmcs w a b n) s = .next s' ∧
        Did (s0.modTile s.cur.tile fun u =>
          { u with pmcNext := u.pmcNext.filter (·.1 ≠ n.toNat) ++ [(n.toNat, t.getX a, (t.getX b).setWidth 48)] }) s') ∧
      (¬ legal → (w = true → t.outst = []) → Traps (.pmcs w a b n) s t cIllegalOperand 0 (codeOf (.pmcs w a b n)))) ∧
    ((w = true → t.outst = []) → ∃ s', exec (.pmcr w d n) s = .next s' ∧
      Did (s0.modTile s.cur.tile fun u => { u with pmcReads := u.pmcReads ++ [(s.cur.slot, d, n.toNat)] }) s') ∧
    ∀ (tile : Tile) (v : Nat) (sel : Word) (val : BitVec 48) (k : Nat), v < 4 → k < 8 →
      (tile.pmcNext = [(v, sel, val)] → tile.endCounters.pmcSel[v]? = some sel ∧ tile.endCounters.pmc[v]? = some val) ∧
      (tile.pmcReads = [(k, d, v)] → ∀ u, (tile.slot k).thread = some u →
        (tile.endCounters.slot k).thread = some (u.setX d ((tile.pmc[v]?.getD 0).setWidth 64))))

/-- O41. (14 R345, R346, R349, 07 R200) the replay unit's instructions, with their status and result granule, busy or idle where the unit
is: a start that finds it busy never traps, and writes the result granule where its checks pass. A debug stop of a slot's thread, with its
status. -/
def Obligations.DebugInstructions : Prop :=
  ∀ (s : State) (t : Thread) (w : Bool) (d a : Reg) (id : BitVec 12),
    let o : Opts := { w := w, long := true }
    let s1 := s.setThread s.cur (t.stepped 4)
    let tile := s.cur.tile
    let die := tileDie tile
    let x := (t.getX a).toNat
    s.thread s.cur = some t → MayIssue o t → 1 ≤ t.status.mode.toNat →
    let found := x % 64 = 0 ∧ (s.tile tile).threadOwned x 64 = true
    let busy (s2 : State) : Prop := ∃ s', exec (.rplyStart w d a) s = .next s' ∧ Did (landing t.pc 1 [destX d] [.x d 4] s2) s'
    ((s.die die).replay = none →
      (¬ found → Traps (.rplyStart w d a) s t cIllegalOperand 0 (codeOf (.rplyStart w d a))) ∧
      (∀ v, found → DescriptorAt s t x [v] →
        (replayOk v = false → Traps (.rplyStart w d a) s t cIllegalOperand 0 (codeOf (.rplyStart w d a))) ∧
        ∀ area s2, replayOk v = true → needSave t.pc die (replayOf tile x v) s1 = .ok (area, s2) →
          let r : Replay := { replayOf tile x v with area := area }
          ∃ s', exec (.rplyStart w d a) s = .next s' ∧ Did (landingLater t.pc [destX d] [.x d r.status]
            (reportReplay r (s2.modDie die fun k => { k with replay := some r }))) s')) ∧
    ((s.die die).replay.isSome = true →
      (¬ found → busy s1) ∧
      (∀ v, found → DescriptorAt s t x [v] →
        (replayOk v = false → busy s1) ∧
        (replayOk v = true → ∀ got s2, saveSpan die (replayOf tile x v) s1 = .ok (got, s2) →
          match got with
          | .ok _ => busy (writeResult tile x 0 0 0 4 s2)
          | .error _ => busy s2))) ∧
    ((s.die die).replay = none →
      (∃ s', exec (.rplyRestore w d) s = .next s' ∧ Did (landing t.pc 1 [destX d] [.x d 8] s1) s') ∧
      ∃ s', exec (.rplyEnd w d) s = .next s' ∧ Did (landing t.pc 1 [destX d] [.x d 8] s1) s') ∧
    (∀ r, (s.die die).replay = some r →
      let r1 := endPass die s1 r
      let r2 : Replay := { r1 with pass := r1.pass + 1, ended := 0 }
      (∃ s', exec (.rplyRestore w d) s = .next s' ∧ Did (landingLater t.pc [destX d] [.x d r2.status]
        (reportReplay r2 ((emptyTiles die r1 (restorePages die r1 s1)).modDie die fun k => { k with replay := some r2 }))) s') ∧
      ∃ s', exec (.rplyEnd w d) s = .next s' ∧ Did (landingLater t.pc [destX d] [.x d r1.status]
        (reportReplay r1 ((emptyTiles die r1 s1).modDie die fun k => { k with replay := none }))) s') ∧
    let who : Who := ⟨x % 65536, x / 65536 % 8⟩
    let stops (i : Instr) (how : Option (BitVec 12)) : Prop :=
      (s.hole (x % 65536) = true → Traps i s t cIllegalOperand 0 (codeOf i)) ∧
      (s.hole (x % 65536) = false →
        let gives (n : Nat) (s2 : State) : Prop :=
          ∃ s', exec i s = .next s' ∧ Did (landingLater t.pc [destX d] [.x d (BitVec.ofNat 64 n)] s2) s'
        (s1.thread who = none → gives 1 s1) ∧
        ∀ u, s1.thread who = some u →
          if u.halted.isSome then gives 2 s1 else gives 0 (s1.setThread who { u with halted := some how }))
    stops (.dstop w d a id) none ∧ stops (.dstopTrap w d a id) (some id)

/-- O42. (16 R385, R386) RANKW writes an entry of the rank table from a legal image, and rankw.inv clears its valid bit, once the thread's
earlier accesses have been acknowledged; until the thread resumes the ports use the entry as it was. Its own rank, or another image, is ILLEGAL_OPERAND. (11 R291) LAUNCH whose descriptor range
passes its checks is outstanding, with its descriptor on its way to be read. -/
def Obligations.RankWritesAndLaunches : Prop :=
  (∀ (s : State) (t : Thread) (w : Bool) (a b : Reg),
    let s1 := s.setThread s.cur (t.stepped 4)
    let rank := (t.getX a).toNat % 4096
    let put (e v : Vec) : State :=
      let n := s1.drawLatency.1
      let s2 := s1.drawLatency.2
      let old := (rank, s.cycle + n, s1.rankEntry rank, s1.rankString rank)
      let kept := s1.pkg.oldEntries.filter fun x => x.1 ≠ rank && s.cycle < x.2.1
      let s3 : State := { s2 with pkg := { s2.pkg with oldEntries := old :: kept } }
      ((s3.setGranule (.hbm (rankAddr rank)) (sealed e 0)).setGranule (.hbm (rankAddr rank + 32)) (sealed v 0)).modThread s.cur
        fun u => { u with resumeAt := s.cycle + n }
    let acknowledged := ∀ x ∈ s.accs, x.who = s.cur → x.thread ≠ t.serial
    s.thread s.cur = some t → 1 ≤ t.status.mode.toNat → (w = true → t.outst = []) →
    (rank = s.pkg.rank → acknowledged → Traps (.rankw w a b) s t cIllegalOperand 0 (codeOf (.rankw w a b)) ∧
      Traps (.rankwInv w a) s t cIllegalOperand 0 (codeOf (.rankwInv w a))) ∧
    (rank ≠ s.pkg.rank → acknowledged → s.hbmShut (.hbm (rankAddr rank)) = false →
      (∃ s', exec (.rankwInv w a) s = .next s' ∧
        Did (put ((s.granule (.hbm (rankAddr rank))).data &&& BitVec.ofNat 256 (2 ^ 255 - 1))
          (s.granule (.hbm (rankAddr rank + 32))).data) s') ∧
      ∀ e v, (t.getX b).toNat % 64 = 0 → DescriptorAt s t (t.getX b).toNat [e, v] →
        let legal := e.toNat / 2 ^ 244 % 32 = 0 ∧ e.toNat / 2 ^ 187 % 32 = 0 ∧ e.toNat / 2 ^ 176 % 256 = 0 ∧ e.toNat % 2 ^ 128 = 0 ∧
          e.toNat / 2 ^ 252 % 8 < 4 ∧ (e.getLsbD 255 = true → e.toNat / 2 ^ 192 % 2 ^ 32 ≠ 0) ∧
          (if e.toNat / 2 ^ 252 % 8 = 1 then routeStringOk v = true else v = 0)
        (legal → ∃ s', exec (.rankw w a b) s = .next s' ∧ Did (put e v) s') ∧
        (¬ legal → Traps (.rankw w a b) s t cIllegalOperand 0 (codeOf (.rankw w a b)))) ∧
    (¬ acknowledged → (∃ s', exec (.rankw w a b) s = .next s' ∧ Did s s') ∧ ∃ s', exec (.rankwInv w a) s = .next s' ∧ Did s s')) ∧
  (∀ (s : State) (t : Thread) (w : Bool) (d a : Reg) (n : BitVec 3),
    let g := t.getSeg n
    let off := (t.getX a).toNat
    let s1 := begun { commits := true } t s
    s.thread s.cur = some t → t.outst = [] → 1 ≤ t.status.mode.toNat → RightsOk s g .read off → off + 64 ≤ g.limit.toNat + 1 →
    off % 32 = 0 → g.addr off % 32 = 0 → (g.kind = 2 → OwnOpen s .read (g.addr off) 64) →
    let s2 := addResult s1 fun tok => { tok := tok, pc := t.pc, fin := .reply, lands := s.cycle, dests := [destX d] }
    let acc : Access :=
      { id := s2.serial, who := s.cur, thread := t.serial, key := g.key (g.addr off), size := 64, stage := 0
        kind := .launch s1.serial d (codeOf (.launch w d a n)), launch := t.launch, mode := t.status.mode }
    let s3 : State := { s2.fresh.2 with accs := s1.accs ++ [acc] }
    ∃ s', exec (.launch w d a n) s = .next s' ∧ Did (committing (s3.schedule (s.cycle + 1) phaseAccess (.portAccess acc.id))) s')

/-- O43. (10 R265, R266, R274 to R276) CPY, CMPR, DCMP and FILL whose ticket and ranges pass their checks and whose pages translate issue
with their locks registered, to be accepted later; a ticket with a reserved bit, no length, or a word that is not the tile's to write is
ILLEGAL_OPERAND. (10 R270 to R272) CPYM issues with every entry that its ticket selects as a destination, or ends with MULTICAST_DENIED,
named by its mask, and no destination written; CPYF issues from its record, with its candidate where one is given. -/
def Obligations.CopyEngineIssues : Prop :=
  (∀ (s s2 s3 : State) (t : Thread) (f : CForm) (h : AtForm) (ss ds : Span),
    let tile := s.cur.tile
    let s1 := begun { commits := true } t s
    let tick := t.getX f.d
    let len := lengthOf tick
    let word := wordOf tile tick
    let src (n : Nat) : Reach := ⟨t.getSeg f.segS, (t.getX f.a).toNat, n⟩
    let dst (n : Nat) : Reach := ⟨t.getSeg f.segT, (t.getX f.b).toNat, n⟩
    let issues (i : Instr) (kind : EngKind) (m n : Nat) (left : List (Nat × Nat)) : Prop :=
      RangeOk s (src m) .read → RangeOk s (dst n) .write → Apart (src m) (dst n) →
      (src m).span tile .read s1 = (.ok ss, s2) → (dst n).span tile .write s2 = (.ok ds, s3) →
      ∃ s', exec i s = .next s' ∧ Did (committing (submitted t
        (engine kind len (some ss) [{ span := ds, word := word }] left) (transferLocks tile ss m ds n) s3)) s'
    s.thread s.cur = some t → t.outst = [] →
    (TicketOk s tick → tick.toNat < 2 ^ 40 →
      issues (.cpy f) .cpy (32 * len) (32 * len) [(0, len)] ∧
      issues (.cmpr f) .cmpr (32 * len) (32 * ((len + 112) / 112 + len)) [] ∧
      issues (.dcmp f) .dcmp
        (max 1 (min ((src 0).seg.limit.toNat + 1 - (src 0).off) (32 * ((len + 112) / 112 + len)))) (32 * len) []) ∧
    (¬ (TicketOk s tick ∧ tick.toNat < 2 ^ 40) → ∀ i ∈ [Instr.cpy f, .cmpr f, .dcmp f, .cpyf f],
      Traps i s t cIllegalOperand 0 (codeOf i)) ∧
    (let tick := t.getX h.d
     let len := lengthOf tick
     let tag := tick.toNat / 2 ^ 40 % 64
     let dst : Reach := ⟨t.getSeg h.seg, (t.getX h.b).toNat, 32 * len⟩
     let legal := TicketOk s tick ∧ tick.toNat < 2 ^ 46 ∧ ¬ (0x17 ≤ tag ∧ tag ≤ 0x3E)
     (legal → RangeOk s dst .write → dst.span tile .write s1 = (.ok ds, s3) →
       ∃ s', exec (.fill h) s = .next s' ∧ Did (committing (submitted t
         (engine (.fill (t.getX h.a) (BitVec.ofNat 6 tag)) len none [{ span := ds, word := wordOf tile tick }] [(0, len)])
         (fun id => ds.registrations tile (32 * len) 2 0 id (some 0)) s3)) s') ∧
     (¬ legal → Traps (.fill h) s t cIllegalOperand 0 (codeOf (.fill h))))) ∧
  (∀ (s s2 s3 s4 : State) (t : Thread) (f : CForm) (ss ds : Span),
    let tile := s.cur.tile
    let s1 := begun { commits := true } t s
    let tick := t.getX f.d
    let len := lengthOf tick
    let src : Reach := ⟨t.getSeg f.segS, (t.getX f.a).toNat, 32 * len⟩
    s.thread s.cur = some t → t.outst = [] → tick.toNat < 2 ^ 40 → len ≠ 0 → RangeOk s src .read →
    (∀ (gs : List Vec) (dests : List Dest) (denied : Nat), gs.length = 8 → DescriptorAt s1 t (t.getX f.b).toNat gs →
      let es := ((List.range 16).filter (tick.toNat / 2 ^ 24 % 65536).testBit).map fun j =>
        (j, (((gs[j / 2]?.getD 0).toNat / 2 ^ (128 * (j % 2)) : Nat) : BitVec 128))
      (∀ e ∈ es, listBad e.2 (t.getSeg f.segT) = false) → src.span tile .read s1 = (.ok ss, s2) →
      (∀ e ∈ es, listWaits e.2 (t.getSeg f.segT) tile (32 * len) s2 = false) →
      listDests es (t.getSeg f.segT) tile (32 * len) s2 = (dests, denied, s3) →
      (denied = 0 → ∃ s', exec (.cpym f) s = .next s' ∧ Did (committing (
        if es = [] then landing t.pc 1 [] [] s3
        else submitted t (engine .cpym len (some ss) dests [(0, len * dests.length)]) (fun id =>
          ss.registrations tile (32 * len) 1 1 id none ++
            (dests.mapIdx fun j x => x.span.registrations tile (32 * len) 2 1 id (some j)).flatten) s3)) s') ∧
      (denied ≠ 0 → ∃ s', exec (.cpym f) s = .next s' ∧ Did (trapEnter s.cur (collect s.cur s3.serial
        { code := cMulticastDenied, sub := 0, info := BitVec.ofNat 64 denied, epc := t.pc, fpc := t.pc } s3.fresh.2)) s')) ∧
    (TicketOk s tick → ∀ r : Vec, DescriptorAt s1 t (t.getX f.b).toNat [r] →
      let dst : Reach := ⟨t.getSeg f.segT, r.toNat % 2 ^ 64, 32 * len⟩
      let cand : Reach := ⟨t.getSeg f.segT, r.toNat / 2 ^ 64 % 2 ^ 64, 32 * len⟩
      let op (cs : Option Span) : EngOp :=
        engine (.cpyf (t.getX f.b).toNat (BitVec.ofNat 64 (r.toNat / 2 ^ 128)) cs (BitVec.ofNat 128 r.toNat)) len (some ss)
          [{ span := ds, word := wordOf tile tick }] []
      RangeOk s dst .write → Apart src dst → src.span tile .read s1 = (.ok ss, s2) →
      (cand.off = 2 ^ 64 - 1 → dst.span tile .write s2 = (.ok ds, s3) →
        ∃ s', exec (.cpyf f) s = .next s' ∧
          Did (committing (submitted t (op none) (transferLocks tile ss (32 * len) ds (32 * len)) s3)) s') ∧
      (cand.off ≠ 2 ^ 64 - 1 → RangeOk s cand .read → Apart cand dst → ∀ cs, cand.span tile .read s2 = (.ok cs, s3) →
        dst.span tile .write s3 = (.ok ds, s4) →
        ∃ s', exec (.cpyf f) s = .next s' ∧ Did (committing (submitted t (op (some cs)) (fun id =>
          ss.registrations tile (32 * len) 1 0 id none ++ cs.registrations tile (32 * len) 1 0 id none ++
            ds.registrations tile (32 * len) 2 0 id (some 0)) s4)) s')))

/-- O44. (16 R393 to R395) RPUT from a range of this package and RGET into one issue, to be accepted later; a range of a far package is
left to its owner to check. The other side being far is not allowed: RPUT's source, RGET's destination. (10 R279) WALK issues with its
root granule's read on its way; what each granule leads to. -/
def Obligations.FabricTransfersAndWalks : Prop :=
  (∀ (s s2 s3 s4 : State) (t : Thread) (f : CForm) (ss ds : Span),
    let tile := s.cur.tile
    let s1 := begun { commits := true } t s
    let tick := t.getX f.d
    let len := lengthOf tick
    let src : Reach := ⟨t.getSeg f.segS, (t.getX f.a).toNat, 32 * len⟩
    let dst : Reach := ⟨t.getSeg f.segT, (t.getX f.b).toNat, 32 * len⟩
    let far (r : Reach) : Prop := r.seg.kind = 1 ∧ r.addr / 2 ^ 44 % 4096 ≠ s.pkg.rank
    let place (r : Reach) (need : Need) (sp : Span) (s s' : State) : Prop :=
      (¬ far r → r.span tile need s = (.ok sp, s')) ∧
      (far r → s' = s ∧ sp = ⟨true, r.addr, [⟨0, r.size, .remote (r.addr / 2 ^ 44 % 4096) r.addr, false⟩]⟩)
    let side (r : Reach) (need : Need) (x : Option (Nat × Need)) : Prop :=
      (far r → x = some (r.addr / 2 ^ 44 % 4096, need)) ∧ (¬ far r → x = none)
    s.thread s.cur = some t → t.outst = [] → TicketOk s tick → tick.toNat / 2 ^ 40 % 2 ^ 20 = 0 → RangeOk s src .read →
    RangeOk s dst .write →
    (far src ∨ 31 ≤ f.d.toNat → Traps (.rput f) s t cIllegalOperand 0 (codeOf (.rput f))) ∧
    (far dst → Traps (.rget f) s t cIllegalOperand 0 (codeOf (.rget f))) ∧
    (Apart src dst →
      (¬ far dst → place src .read ss s1 s2 → dst.span tile .write s2 = (.ok ds, s3) → ∀ x, side src .read x →
        ∃ s', exec (.rget f) s = .next s' ∧ Did (committing (submitted t
          { engine .rget len (some ss) [{ span := ds, word := wordOf tile tick }] (if x = none then [(0, len)] else []) with
            far := x, path := BitVec.ofNat 4 (tick.toNat / 2 ^ 60) }
          (transferLocks tile ss (32 * len) ds (32 * len)) s3)) s') ∧
      (f.d.toNat ≤ 30 → ¬ far src → src.span tile .read s1 = (.ok ss, s2) → place dst .write ds s2 s3 → ∀ x, side dst .write x →
        let put (flag : Option (Loc × Option Nat)) (s5 : State) : Prop :=
          ∃ s', exec (.rput f) s = .next s' ∧ Did (committing (submitted t
            { engine (.rput (if x = none then flag else none)) len (some ss) [{ span := ds, word := wordOf tile tick }] [(0, len)] with
              far := x, path := BitVec.ofNat 4 (tick.toNat / 2 ^ 60) }
            (transferLocks tile ss (32 * len) ds (32 * len)) s5)) s'
        let off := (t.getX (f.d + 1)).toNat
        let flag : Reach := ⟨t.getSeg f.segT, off, 8⟩
        (off = 2 ^ 64 - 1 → put none s3) ∧
        (off % 8 = 0 → RightsOk s flag.seg .write off → off + 8 ≤ flag.seg.limit.toNat + 1 → flag.addr % 8 = 0 →
          (flag.seg.kind = 2 → (s.tile tile).shutGranule flag.addr 8 = none) →
          (far flag ↔ far dst) → (far dst → flag.addr / 2 ^ 44 % 4096 = dst.addr / 2 ^ 44 % 4096) →
          ∀ sp, place flag .write sp s3 s4 → 
            put (sp.pieces.head?.map fun p => (p.loc, if p.logged then some flag.addr else none)) s4)))) ∧
  (∀ (s : State) (t : Thread) (f : AtForm),
    let g := t.getSeg f.seg
    let off := (t.getX f.a).toNat
    let p := (t.getX f.b).toNat % 2 ^ 40
    let s1 := s.setThread s.cur (t.stepped 4)
    s.thread s.cur = some t →
    (31 ≤ f.d.toNat → Traps (.walk f) s t cIllegalOperand 0 (codeOf (.walk f))) ∧
    (f.d.toNat ≤ 30 → (f.w = true → t.outst = []) → t.outst.length < 32 → g.kind = 1 → RightsOk s g .read off →
      off + 32 ≤ g.limit.toNat + 1 → off % 32 = 0 → g.addr off % 32 = 0 →
      ∃ s', exec (.walk f) s = .next s' ∧ Did (startAccess (.virt (g.addr off)) 0 32 0 (.walk s.serial p f.d 0 none)
        (addResult s1 fun tok =>
          { tok := tok, pc := t.pc, fin := .reply, lands := s.cycle, dests := [destX f.d, destX (f.d + 1)] })) s') ∧
    ∀ (v : Vec) (steps byte o : Nat),
      let start := v.toNat / 2 ^ 160 % 2 ^ 40
      let e := v.toNat / 2 ^ (8 * byte) % 2 ^ 56
      walkEntry v byte o = (if e = 0 then .finish 0 4 else .finish e o) ∧
      walkNode v p steps =
        if v.toNat / 2 ^ 112 % 256 ≠ 1 then .finish 0 3
        else if start + v.toNat / 2 ^ 120 % 2 ^ 40 ≤ p ∧ steps = 0 then .finish 0 1
        else if start ≤ p then
          let size := 2 ^ (v.toNat / 2 ^ 108 % 16)
          .read (v.toNat % 2 ^ 56 + 8 * ((p - start) / size)) steps (some ((p - start) % size))
        else if v.toNat / 2 ^ 200 = 0 then .finish 0 2
        else if steps = 63 then .finish 0 5
        else .read (v.toNat / 2 ^ 200) (steps + 1) none)

/-- O45. (08 R202 to R204) what each stream word does to its tile's sequencer: a bundle to be issued, once or repeated; empty cycles; a
branch; an end. -/
def Obligations.StreamWordsSteer : Prop :=
  ∀ (s : State),
    let u := (s.tile s.cur.tile).timed
    let p := u.files.ptr
    let here := (if u.files.active then 8192 else 0) + 2 * (p % 4096)
    let at_ (n : Int) (u : Timed) : Timed := { u with files := { u.files with ptr := (n % 4096).toNat } }
    let control (n : Int) (u : Timed) : Timed := { at_ n u with controls := u.controls + 1 }
    let does (i : Instr) (u : Timed) : Prop := exec i s = .next (timedAs s u)
    (∀ index rep, does (.issue index rep) { at_ (p + 1) u with seqr := .issuing index.toNat (rep.toNat + 1) here, addr := here }) ∧
    (∀ index rep, does (.issuel index rep) { at_ (p + 2) u with seqr := .issuing index.toNat (rep.toNat + 1) here, addr := here }) ∧
    (∀ id, does (.mark id) { control (p + 1) u with seqr := .empty 12, marked := true, markId := id }) ∧
    does .streamEnd { control (p + 1) u with seqr := .ended } ∧
    (∀ a, does (.align a) { at_ (p + 1) u with seqr := .aligning a.toNat }) ∧
    (∀ n, does (.idle n) { at_ (p + 1) u with seqr := .empty (n.toNat + 1) }) ∧
    (∀ (c : BitVec 3) (off : BitVec 16),
      let v := (u.files.c[c.toNat]?.getD 0).toNat
      let count (n : Nat) (u : Timed) : Timed :=
        { u with files := { u.files with c := u.files.c.setIfInBounds c.toNat (BitVec.ofNat 32 n) } }
      does (.streamLoop c off) (if 1 < v then count (v - 1) (control (p + off.toInt) u) else count 0 (control (p + 2) u))) ∧
    (∀ off : BitVec 16, does (.jump off) (control (p + off.toInt) u)) ∧
    ∀ (cond : BitVec 2) (r : BitVec 4) (off : BitVec 16),
      let v := (u.post[r.toNat]?.getD 0).toInt
      does (.brp cond r off) (control (if cond = 0 ∧ v = 0 ∨ cond = 1 ∧ v ≠ 0 ∨ cond = 2 ∧ v < 0 ∨ cond = 3 ∧ 0 < v
        then p + off.toInt else p + 2) u)

/-- O46. (08 R206, R207, 09 R236) on an issue cycle every slot with a present field issues it, and every other slot its sticky one, but a
sticky array operation not while the array is busy; present fields become the sticky ones. -/
def Obligations.BundleIssuesItsSlots : Prop :=
  ∀ (s : State) (tile index left addr : Nat),
    let u := (s.tile tile).timed
    let e := Tab.get 0 u.bundles index
    let s' := issueCycle tile index left addr s
    let u' := (s'.tile tile).timed
    (∃ ops : List (Option SlotOp), ops.length = 7 ∧ s'.todo = s.todo ++ (ops.filterMap id).map (Todo.slot tile) ∧
      ∀ n : SlotName, ∃ o, ops[n.number]? = some o ∧
        let field := if slotPresent e n then slotField e n else u.files.sticky[n.number]?.getD 0
        (field = 0 → o = none) ∧
        (field ≠ 0 → ∀ op, decodeSlot n field = some op →
          (slotPresent e n = false → (∃ i, IsSlot i op ∧ match i with
            | .mma .. => True
            | .mmasp .. => True
            | .mmat .. => True
            | _ => False) → s.cycle < u.arrayFree → o = none) ∧
          (slotPresent e n = true ∨ u.arrayFree ≤ s.cycle → o = some op)) ∧
        u'.files.sticky[n.number]? = some field) ∧
    u'.seqr = (if left ≤ 1 then .word else .issuing index (left - 1) addr) ∧ u'.turn = s.cycle + 1 ∧ u'.addr = addr ∧
    (u.marked = true → u'.snapAt = s.cycle ∧ u'.snapId = u.markId ∧ u'.marked = false ∧ u'.snap = some { u.files with ptr := addr / 2 % 4096 })

/-- O47. (09 R236, R237, R239 to R245) an array operation that is free to begin takes its operands from its rings, occupies the array for
8 cycles and lands 12 cycles on; on a busy cycle it is discarded, and with too few granules or codes it is a late ring. MZERO and MFY
write an accumulator 2 cycles on. (09 R234, R237, R240 to R244) what an array operation makes of its operands: the group sum of each of
its 64 elements; and at its landing each accumulator element with its sum, wrapped or saturated, or added in FP32, and its granules
popped. -/
def Obligations.ArrayOperationsIssueAndLand : Prop :=
  (∀ (s : State),
    let tile := s.cur.tile
    let u := (s.tile tile).timed
    (∀ (i : Instr) (op : SlotOp), IsSlot i op → op.ok = true → (arrayUses op).1 ≠ (arrayUses op).2.1 →
      let ra := (arrayUses op).1
      let rb := (arrayUses op).2.1
      let na := (arrayUses op).2.2.1
      let nc := (arrayUses op).2.2.2.1
      let nb := (arrayUses op).2.2.2.2
      let ca := u.files.ring[ra]?.getD {}
      let cb := u.files.ring[rb]?.getD {}
      let a := u.rings[ra]?.getD {}
      let b := u.rings[rb]?.getD {}
      let enough := a.enable = true ∧ b.enable = true ∧ na ≤ (ca.tail - ca.next).toNat ∧ nb ≤ (cb.tail - cb.next).toNat ∧
        nc ≤ (ca.ctail - ca.cnext).toNat
      let offs (r : Ring) (c : RingCount) (n : Nat) : List Nat :=
        (List.range n).map fun i => (r.base.toNat + (c.next.toNat + i) % 2 ^ 32 % max 1 r.size.toNat) * 32
      let scale (f : SlotOp → Option (BitVec 3 × BitVec 2)) : Vec := match f op with
        | some (z, x) => (u.files.z[z.toNat]?.getD 0) >>> (64 * x.toNat)
        | none => 0
      (s.cycle < u.arrayFree → exec i s = .next (deviateAt tile 0x0A u.addr 0 0
        (timedAs s { u with flags := u.flags ||| 0x80, discards := u.discards + 1 }))) ∧
      (u.arrayFree ≤ s.cycle → ¬ enough → ∃ s', exec i s = .next s' ∧
        Counts (raiseTiming tile 2 u.addr (timedAs s { u with arrayFree := s.cycle + 8, arrayops := u.arrayops + 1 })) s') ∧
      (u.arrayFree ≤ s.cycle → enough →
        let ca' : RingCount := { ca with next := ca.next + BitVec.ofNat 32 na, cnext := ca.cnext + BitVec.ofNat 32 nc }
        let cb' : RingCount := { cb with next := cb.next + BitVec.ofNat 32 nb }
        let files : Files := { u.files with ring := (u.files.ring.setIfInBounds ra ca').setIfInBounds rb cb' }
        ∃ s', exec i s = .next s' ∧ Counts (inFlight 0 1 phaseRead 0
          (.arrayRead op (offs a ca na) (offs b cb nb) ((List.range nc).map fun i => a.codes[(ca.cnext.toNat + i) % 256]?.getD 0)
            (scale fun | .mma _ _ _ _ za _ x _ _ => some (za, x) | _ => none)
            (scale fun | .mma _ _ _ _ _ zb x _ _ => some (zb, x) | _ => none) (s.cycle + 12))
          (timedAs s { u with files := files, arrayFree := s.cycle + 8, arrayops := u.arrayops + 1 })) s')) ∧
    (∀ acc, exec (.mzero acc) s = .next (inFlight 0 2 phaseLand 0 (.accZero acc.toNat) s)) ∧
    ∀ acc row y, exec (.mfy acc row y) s = .next (inFlight 0 2 phaseLand 0 (.accRow acc.toNat row.toNat (u.files.y[y.toNat]?.getD 0)) s)) ∧
  (∀ (s : State) (tile : Nat) (r : TimedRes) (op : SlotOp) (i : Instr), IsSlot i op → op.ok = true →
    (arrayUses op).1 ≠ (arrayUses op).2.1 →
    let u := (s.tile tile).timed
    let u' := ((landTimed tile r s).tile tile).timed
    (∀ offA offB codes za zb lands, r.eff = .arrayRead op offA offB codes za zb lands → s.cycle ≤ lands →
      let bits (offs : List Nat) : Nat :=
        ((List.range offs.length).map fun n => (s.granule (.sram tile (offs[n]?.getD 0))).data.toNat * 2 ^ (256 * n)).sum
      ∃ res sums, u'.results = u.results ++ [res] ∧ res.due = lands ∧ res.eff = .array op sums ∧ sums.length = 64 ∧
        ∀ i < 8, ∀ j < 8, sums[8 * i + j]? = some (if (arrayAcc op).2.2.2 then intTotal op (bits offA) (bits offB) codes i j
          else (floatTotal op (bits offA) (bits offB) codes za zb i j : Int))) ∧
    ∀ sums, r.eff = .array op sums →
      let x := arrayAcc op
      let ca := u.files.ring[(arrayUses op).1]?.getD {}
      let cb := u.files.ring[(arrayUses op).2.1]?.getD {}
      (∀ i < 8, ∀ j < 8, elem (u'.files.acc[8 * x.1 + i]?.getD 0).toNat 32 j =
        accumulated x.2.1 x.2.2.1 x.2.2.2 (elem (u.files.acc[8 * x.1 + i]?.getD 0).toNat 32 j) (sums[8 * i + j]?.getD 0) % 2 ^ 32) ∧
      (∀ n < 32, n / 8 ≠ x.1 → u'.files.acc[n]? = u.files.acc[n]?) ∧
      u'.files.ring[(arrayUses op).1]? = some { ca with
        head := ca.head + BitVec.ofNat 32 (arrayUses op).2.2.1, chead := ca.chead + BitVec.ofNat 32 (arrayUses op).2.2.2.1 } ∧
      u'.files.ring[(arrayUses op).2.1]? = some { cb with head := cb.head + BitVec.ofNat 32 (arrayUses op).2.2.2.2 } ∧
      u'.files.y = u.files.y ∧ u'.files.z = u.files.z ∧ u'.rings = u.rings)

/-- O48. (09 R247 to R251) a VT operation writes its y register, its latency on, with the flags of its lanes. -/
def Obligations.VtOperationsWriteY : Prop :=
  ∀ (s : State),
    let u := (s.tile s.cur.tile).timed
    let y (n : BitVec 5) : Vec := u.files.y[n.toNat]?.getD 0
    let lane (n : BitVec 5) (e : Nat) : Nat := elem (y n).toNat 32 e
    let gives (i : Instr) (n : Nat) (d : BitVec 5) (v mask : Vec) (fl : BitVec 8) : Prop :=
      exec i s = .next (inFlight 1 n phaseLand fl (.y d.toNat v mask) s)
    let all (x : Nat) (v : Vec) : Prop := ∀ e < 8, elem v.toNat 32 e = x % 2 ^ 32
    (∀ i f n g, laneVt i = some (f, n, g) → ∃ v,
      gives i n f.d v (ones 256) (laneFlags 8 fun e => (g (lane f.a e) (lane f.b e) (lane f.d e)).2) ∧
      ∀ e < 8, elem v.toNat 32 e = (g (lane f.a e) (lane f.b e) (lane f.d e)).1 % 2 ^ 32) ∧
    (∀ f : VtForm, ∃ v,
      let top (a b : Nat) : Nat × Flags :=
        if f.int then (if (BitVec.ofNat 32 a).toInt < (BitVec.ofNat 32 b).toInt then b else a, {}) else minMax .f32 true false a b
      let r := pairTree top (lane f.a) 3 0
      gives (.vtRmax f) 4 f.d v (ones 256) (r.2.setWidth 8) ∧ all r.1 v) ∧
    (∀ f : VtForm, ∃ v,
      let r := pairTree (fun a b => if f.int then ((a + b) % 2 ^ 32, {}) else addF32 (if f.rnd then .rtz else .rne) a b) (lane f.a) 3 0
      gives (.vtRsum f) 4 f.d v (ones 256) (r.2.setWidth 8) ∧ all r.1 v) ∧
    (∀ d a (e : BitVec 3), ∃ v, gives (.vtBcast d a e) 4 d v (ones 256) 0 ∧ all (lane a e.toNat) v) ∧
    (∀ d acc row, gives (.yfa d acc row) 2 d (u.files.acc[8 * acc.toNat + row.toNat]?.getD 0) (ones 256) 0) ∧
    ∀ d a dst src part rnd, (SlotOp.vtCvt d a dst src part rnd).ok = true → ∃ v mask fl,
      gives (.vtCvt d a dst src part rnd) 4 d v mask fl ∧ CvtMakes dst src part.toNat (if rnd then .rtz else .rne) (y a) v mask fl

/-- O49. (08 R211, R216 to R226) the operations of LA, LB, SC, LK and CT issue: those with a generator take its address and step it, and
each result is in flight to its read, its write or its landing. A generator visits its three-dimensional grid in order. (08 R220, 13 R335)
HLD and HST take their addresses, with a deadline on a region cycle; HLD's bursts, one for each 256-byte block, leave on the next cycle,
and HST's granules are read first. -/
def Obligations.LaneOperationsIssue : Prop :=
  (∀ (s : State),
    let u := (s.tile s.cur.tile).timed
    let y (n : BitVec 5) : Vec := u.files.y[n.toNat]?.getD 0
    let flies (i : Instr) (slot delay phase : Nat) (eff : Effect) (s1 : State) : Prop := exec i s = .next (inFlight slot delay phase 0 eff s1)
    let lane (lb : Bool) : Nat := if lb then 3 else 2
    (∀ lb g,
      let addr := (u.files.gen lb g).address
      let s1 := stepped lb g s
      (∀ (ring n : BitVec 2), flies (.ldr lb g ring n) (lane lb) 1 phaseRead (.readRing ring.toNat (granulesFrom addr (n.toNat + 1))) s1) ∧
      (∀ n : BitVec 5, flies (.ldy lb g n) (lane lb) 1 phaseRead (.readY n.toNat (addr % 393216)) s1) ∧
      (∀ (n : BitVec 5) (p : BitVec 3),
        let pat := (s.tile s.cur.tile).upat[p.toNat]?.getD 0
        let bits := patBit pat (256 / patOut pat - 1) + patW pat
        flies (.ldu lb g n p) (lane lb) 1 phaseRead (.readUnpack n.toNat pat (granulesFrom addr ((bits + 255) / 256))) s1) ∧
      (∀ n tag, flies (.sty lb g n tag) (lane lb) 1 phaseWrite (.store (addr % 393216) (sealed (y n) tag)) s1)) ∧
    (∀ lb (g : BitVec 3) (n : BitVec 14), flies (.agset lb g n) (lane lb) 1 phaseRead (.readGen lb g.toNat (32 * n.toNat)) s) ∧
    (∀ z g, flies (.zld z g) 4 1 phaseRead (.readScale z.toNat ((u.files.gen true g).address % 393216)) (stepped true g s)) ∧
    (∀ (z : BitVec 3) (code : BitVec 8), ∃ v, flies (.zsplat z code) 4 2 phaseLand (.z z.toNat v) s ∧ ∀ b < 32, elem v.toNat 8 b = code.toNat) ∧
    (∀ (z : BitVec 3) (n : BitVec 5), flies (.zfy z n) 4 2 phaseLand (.z z.toNat (y n)) s) ∧
    (∀ (c : BitVec 3),
      (∀ v : BitVec 28, flies (.cset c v) 6 2 phaseLand (.c c.toNat (BitVec.ofNat 32 v.toNat)) s) ∧
      (∀ p : BitVec 4, flies (.cfp c p) 6 2 phaseLand (.c c.toNat (BitVec.ofNat 32 (u.post[p.toNat]?.getD 0).toNat)) s) ∧
      (∀ n (e : BitVec 3), flies (.cfy c n e) 6 2 phaseLand (.c c.toNat (BitVec.ofNat 32 (elem (y n).toNat 32 e.toNat))) s)) ∧
    (∀ (w : BitVec 4),
      (∀ n : BitVec 14, flies (.wopen w n) 6 1 phaseRead (.openWin w.toNat n.toNat) s) ∧
      flies (.wcloseDefault w) 6 1 phaseRead (.closeWin w.toNat none (cycleNow s)) s ∧
      ∀ n : BitVec 20, flies (.wcloseStall w n) 6 1 phaseRead (.closeWin w.toNat (some n.toNat) (cycleNow s)) s) ∧
    (∀ (cond : BitVec 2) (p : BitVec 4), cond ≠ 3 → exec (.swaph cond p) s = .next (timedAs s
      (if cond = 0 ∨ cond = 1 ∧ u.post[p.toNat]?.getD 0 = 0 ∨ cond = 2 ∧ u.post[p.toNat]?.getD 0 ≠ 0 then { u with swap := true } else u))) ∧
    (∀ (port : BitVec 5) (g : BitVec 3) (n : BitVec 2),
      let addr := (u.files.gen false g).address
      let held := u.files.rx[port.toNat]?.getD []
      let taken (s : State) : State := s.modTimed s.cur.tile fun u =>
        { u with files := { u.files with rx := u.files.rx.setIfInBounds port.toNat (held.drop (n.toNat + 1)) } }
      flies (.lsend port g n) 5 1 phaseRead (.readSend port.toNat (granulesFrom addr (n.toNat + 1))) (stepped false g s) ∧
      (held.length ≤ n.toNat →
        exec (.lrecv port g n) s = .next (raiseTiming s.cur.tile 1 u.addr (stepped false g s)) ∧
        ∀ out, exec (.lpass port out n) s = .next (raiseTiming s.cur.tile 1 u.addr s)) ∧
      (n.toNat < held.length →
        flies (.lrecv port g n) 5 1 phaseWrite (.received ((granulesFrom addr (n.toNat + 1)).zip (held.take (n.toNat + 1))))
          (taken (stepped false g s)) ∧
        ∀ out : BitVec 5, exec (.lpass port out n) s =
          .next (sendOver s.cur.tile out.toNat 0 u.addr (held.take (n.toNat + 1)) (taken s)))) ∧
    ∀ (g : Gen) (i0 i1 i2 : Nat),
      let c (n : BitVec 16) : Nat := if n = 0 then 65536 else n.toNat
      let down (n : Int) : Int := n / 32 * 32
      i0 < c g.count0 → i1 < c g.count1 → i2 < c g.count2 →
      let g' : Gen := { g with n := i0 + c g.count0 * (i1 + c g.count1 * i2) }
      (g'.address : Int) = (down g.base.toNat + i0 * down g.stride0.toInt + i1 * down g.stride1.toInt + i2 * down g.stride2.toInt) % 2 ^ 56 ∧
      g'.step = { g with n := if g'.n + 1 = c g.count0 * c g.count1 * c g.count2 then 0 else g'.n + 1 }) ∧
  (∀ (s : State) (lb : Bool) (h l n : BitVec 3) (lead : BitVec 13), h ≠ l →
    let u := (s.tile s.cur.tile).timed
    let s1 := stepped lb l (stepped lb h s)
    let x (load : Bool) : Transfer :=
      { id := s.serial, load := load, va := (u.files.gen lb h).address, off := (u.files.gen lb l).address, n := n.toNat + 1
        deadline := cycleNow s + lead.toNat, addr := u.addr, region := ((s.tileRegion s.cur.tile).map (·.1)).getD 0 }
    let begun (load : Bool) : State := s1.fresh.2.modTimed s.cur.tile fun u => { u with transfers := u.transfers ++ [x load] }
    exec (.hst lb h l n lead) s = .next (inFlight (if lb then 3 else 2) 1 phaseRead 0 (.readHost s.serial) (begun false)) ∧
    ∃ s' new, exec (.hld lb h l n lead) s = .next s' ∧ s'.tiles = (begun true).tiles ∧ s'.mem = s.mem ∧ s'.accs = s.accs ++ new ∧
      (∀ a ∈ new, a.key.addr / 256 = (a.key.addr + a.size - 1) / 256 ∧ (∃ first count, a.kind = .burst s.serial first count ∧
        a.size = 32 * count ∧ 1 ≤ count ∧ (a.key.addr : Int) = (((x true).va : Int) + 32 * first) % 2 ^ 56) ∧
        ∃ d ∈ s'.pend, d.ev = .portAccess a.id ∧ d.due = s.cycle + 1) ∧
      (new.flatMap fun a => match a.kind with
        | .burst _ first count => (List.range count).map (first + ·)
        | _ => []) = List.range (n.toNat + 1))

/-- O50. (08 R213, R215, 09 R234, R246) of a tile's timed results that are due, the earliest lands first, by cycle, phase, slot and issue,
with its flags; what each writes where its reads pass their checks. -/
def Obligations.TimedResultsLand : Prop :=
  ∀ (s : State) (tile id : Nat) (r : TimedRes),
    let u := (s.tile tile).timed
    let s1 := s.modTimed tile fun u => { u with results := u.results.filter (·.id ≠ r.id), flags := u.flags ||| r.flags }
    let lands (s' : State) : Prop := exec (.timedResultLands tile id) s = .next s'
    let then_ (delay : Nat) (flags : BitVec 8) (eff : Effect) (s : State) : State :=
      let res : TimedRes :=
        { id := s.serial, due := s.cycle + delay, phase := phaseLand, slot := r.slot, flags := flags, addr := r.addr, eff := eff }
      (s.fresh.2.modTimed tile fun u => { u with results := u.results ++ [res] }).schedule (s.cycle + delay) phaseLand
        (.timedResultLands tile s.serial)
    let good (off : Nat) (tag : Option (BitVec 6)) (v : Vec) : Prop := sealCheck (s.granule (.sram tile off)) tag = .ok (v, false)
    let files (f : Files → Files) : State := s1.modTimed tile fun u => { u with files := f u.files }
    (∃ s', lands s') ∧
    ((∀ r ∈ u.results, s.cycle < r.due) → lands s) ∧
    (r ∈ u.results → r.due ≤ s.cycle → (u.results.map (·.id)).Nodup →
      (∀ q ∈ u.results, q ≠ r → q.due ≤ s.cycle → r.due < q.due ∨ r.due = q.due ∧ (r.phase < q.phase ∨ r.phase = q.phase ∧
        (r.slot < q.slot ∨ r.slot = q.slot ∧ r.id < q.id))) →
      lands (landTimed tile r s1) ∧
      (∀ n v mask, r.eff = .y n v mask → lands (files fun f => { f with y := f.y.setIfInBounds n (blend (f.y[n]?.getD 0) v mask) })) ∧
      (∀ n v, r.eff = .z n v → lands (files fun f => { f with z := f.z.setIfInBounds n v })) ∧
      (∀ n v, r.eff = .c n v → lands (files fun f => { f with c := f.c.setIfInBounds n v })) ∧
      (∀ lb n g, r.eff = .gen lb n g → lands (files fun f =>
        if lb then { f with b := f.b.setIfInBounds n g } else { f with a := f.a.setIfInBounds n g })) ∧
      (∀ n, r.eff = .accZero n → n < 4 → ∃ f : Files, lands (files fun _ => f) ∧ { f with acc := u.files.acc } = u.files ∧
        ∀ k < 32, f.acc[k]? = some (if k / 8 = n then 0 else u.files.acc[k]?.getD 0)) ∧
      (∀ n row v, r.eff = .accRow n row v → lands (files fun f => { f with acc := f.acc.setIfInBounds (8 * n + row) v })) ∧
      (∀ n off v, r.eff = .readY n off → good off none v → lands (then_ 5 0 (.y n v (ones 256)) (useBank tile off s1))) ∧
      (∀ z off v, r.eff = .readScale z off → good off (some 0x15) v → lands (then_ 3 0 (.z z v) (useBank tile off s1))) ∧
      (∀ lb n off v, r.eff = .readGen lb n off → good off none v → lands (then_ 5 0 (.gen lb n
        { base := BitVec.ofNat 56 v.toNat, stride0 := BitVec.ofNat 32 (v.toNat / 2 ^ 96), stride1 := BitVec.ofNat 32 (v.toNat / 2 ^ 128)
          stride2 := BitVec.ofNat 32 (v.toNat / 2 ^ 160), count0 := BitVec.ofNat 16 (v.toNat / 2 ^ 192)
          count1 := BitVec.ofNat 16 (v.toNat / 2 ^ 208), count2 := BitVec.ofNat 16 (v.toNat / 2 ^ 224) }) (useBank tile off s1))) ∧
      (∀ off g, r.eff = .store off g → off % 32 = 0 → off + 32 ≤ 393216 → ∃ s', lands s' ∧ s'.granule (.sram tile off) = g ∧
        ∀ a, (a < Loc.addr (.sram tile off) ∨ Loc.addr (.sram tile off) + 32 ≤ a) → s'.byte a = s.byte a))

/-- O51. (03 R78, 04 R98, R99, R101, R113) a result lands, its latency over, once no earlier one writes one of its registers: it is
outstanding no more, and its registers hold it: a scalar load's bytes, extended by its sign or by zero, a vector load's, a segment's. An
instruction store load writes one granule a cycle and lands on the cycle after the last. (01 R33, R34) a granule sealed with a tag passes its check where no other tag is expected, or its tag is 0x00;
one whose data has a wrong bit is corrected; a reserved tag and poison fail. -/
def Obligations.ResultsLandAndSealsCheck : Prop :=
  (∀ (s : State) (w : Who) (t : Thread) (tok : Nat) (o : Outst),
    s.thread w = some t → t.outst.find? (·.tok = tok) = some o →
    let s1 := dropOutst w tok s
    let lands (s2 : State) : Prop := ∃ s', exec (.longResultLands w tok) s = .next s' ∧ Counts (settle w s2) s'
    (o.bank = [] → (∀ slot d, o.fin ≠ .evict slot d) → s.cycle < o.lands →
      exec (.longResultLands w tok) s = .next (s.schedule o.lands phaseLand (.longResultLands w tok))) ∧
    (o.bank = [] → (∀ slot d, o.fin ≠ .evict slot d) → o.lands ≤ s.cycle → Blocked t o →
      exec (.longResultLands w tok) s = .next (s.schedule (s.cycle + 1) phaseLand (.longResultLands w tok))) ∧
    (o.bank = [] → o.lands ≤ s.cycle → ¬ Blocked t o →
      (∀ ws, o.fin = .ready ws → (∀ wr ∈ ws, OnRegister wr) → lands (s1.modThread w fun u => ws.foldl Thread.write u)) ∧
      (∀ d byte size signed r, o.fin = .scalar d byte size signed → o.reqs = [r] → byte + size ≤ 32 → 1 ≤ size → size ≤ 8 → ∃ v : Word,
        lands (s1.modThread w (·.setX d v)) ∧ (∀ i < size, v.extractLsb' (8 * i) 8 = Req.byte r (byte + i)) ∧
        ∀ i < 64, 8 * size ≤ i → v.getLsbD i = (signed && v.getLsbD (8 * size - 1))) ∧
      (∀ n mask zero r, o.fin = .vector n mask zero → o.reqs = [r] → ∃ v : Vec,
        lands (s1.modThread w fun u => u.setV n v) ∧ ∀ i < 256, v.getLsbD i =
          if mask.getLsbD i then (Req.byte r (i / 8)).getLsbD (i % 8) else if zero.getLsbD i then false else (t.getV n).getLsbD i) ∧
      (∀ n r, o.fin = .segment n → o.reqs = [r] → ∃ g : Seg, lands (s1.modThread w (·.setSeg n g)) ∧ g.kind = 1 ∧
        (∀ i < 56, g.base.getLsbD i = (Req.byte r (i / 8)).getLsbD (i % 8)) ∧
        (∀ i < 48, g.limit.getLsbD i = (Req.byte r (8 + i / 8)).getLsbD (i % 8)) ∧
        ∀ i < 5, g.rights.getLsbD i = (Req.byte r 17).getLsbD i) ∧
      ∀ dst done, o.fin = .istore dst done → done ≤ o.reqs.length →
        (done = o.reqs.length → lands s1) ∧
        ∀ r, o.reqs[done]? = some r → ∃ m : Memory,
          exec (.longResultLands w tok) s = .next (((s.modTile w.tile fun u => { u with istore := m }).modThread w fun u => { u with
            outst := u.outst.map fun q => if q.tok = tok then { q with fin := .istore dst (done + 1) } else q }).schedule (s.cycle + 1) phaseLand
              (.longResultLands w tok)) ∧
          ∀ a < 32768, m.read a = (let at_ := (a + 32768 - (dst + 32 * done) % 32768) % 32768
            if at_ < 32 then Req.byte r at_ else (s.tile w.tile).istore.read a))) ∧
  (∀ (data : Vec) (tag : BitVec 6),
    (tag.toNat ≤ 0x16 →
      (∀ e, e = none ∨ e = some tag ∨ tag = 0 → sealCheck (sealed data tag) e = .ok (data, false) ∧
        ∀ i < 256, sealCheck ⟨data ^^^ BitVec.ofNat 256 (2 ^ i), (sealed data tag).sl⟩ e = .ok (data, true)) ∧
      ∀ e, tag ≠ 0 → e ≠ tag → sealCheck (sealed data tag) (some e) = .error .tagMismatch) ∧
    (∀ e, sealCheck (sealed data 0x3F) e = .error .poison) ∧
    ∀ e, 0x17 ≤ tag.toNat → tag ≠ 0x3F → sealCheck (sealed data tag) e = .error .tagMismatch)

/-- O52. (04 R100, R102 to R105, 05 R144, 07 R170, 10 R255, 12 R304, 13 R333) what an access does when it performs at a bank port: a
released store writes its bytes and no other, an atomic does its whole read and write in one step, with the old value for its destination,
a VSTM destination receives the granule. At HBM an access waits for a slot of its pseudo-channel; at the port a translation that fails
ends it, and one that is found sends it to its owner; a path that no router can follow ends it too. (13 R333 to R335) one command slot of a pseudo-channel: without an access that waits
nothing; the first in arrival order that the slot may serve is granted, and leaves the queue; and a timed burst that has completed has
moved its granules. -/
def Obligations.AccessesPerformAtTheirOwners : Prop :=
  (∀ (s : State) (a : Access), s.access a.id = some a →
    (∀ data mask tag loc, a.kind = .release data mask tag → a.loc = some loc →
      (∀ f, routeFault s a loc = some f → exec (.storeReleasePerforms a.id) s = .next (failPort a f s)) ∧
      (∀ tile off, loc = .sram tile off → routeFault s a loc = none → off % 32 = 0 → off + 32 ≤ 393216 →
        (bankBlocked s a tile off = true →
          exec (.storeReleasePerforms a.id) s = .next (waitAtPort a tile (.storeReleasePerforms a.id) s)) ∧
        (bankBlocked s a tile off = false → ∃ s', exec (.storeReleasePerforms a.id) s = .next s' ∧ s'.access a.id = none ∧
          OnlyAt s s' loc 32 ∧ (∀ i < 32, s'.byte (loc.addr + i) =
            if mask.getLsbD i then data.extractLsb' (8 * i) 8
            else match sealCheck (s.granule loc) none with
              | .ok (d, _) => d.extractLsb' (8 * i) 8
              | .error _ => s.byte (loc.addr + i)) ∧
          (∀ tg, mask = ones 32 → tag = some tg → s'.granule loc = sealed data tg))) ∧
      (∀ addr, loc = .hbm addr → routeFault s a loc = none →
        ∃ s', exec (.storeReleasePerforms a.id) s = .next s' ∧ Counts (enqueue a addr s) s')) ∧
    (∀ tok op wide operand expected d loc, a.kind = .atomic tok op wide operand expected d →
      (∃ off, a.key = .own off ∧ loc = .sram a.who.tile off) ∨ (∃ va, a.key = .virt va) ∧ a.loc = some loc ∧ a.logged = false →
      (∃ tile off, loc = .sram tile off ∧ off % 32 = 0 ∧ off + 32 ≤ 393216) ∨ (∃ addr, loc = .hbm addr ∧ addr % 32 = 0 ∧ addr + 32 ≤ 2 ^ 40) →
      a.byte + (if wide then 8 else 4) ≤ 32 →
      ∀ v corrected, sealCheck (s.granule loc) none = .ok (v, corrected) →
        let w := if wide then 64 else 32
        let old := v.toNat / 2 ^ (8 * a.byte) % 2 ^ w
        let new := atomicValue op w old (operand.toNat % 2 ^ w) (expected.toNat % 2 ^ w)
        ∃ s' fl, exec (.atomicAtOwner a.id) s = .next s' ∧ s'.access a.id = none ∧ OnlyAt s s' loc 32 ∧
          (∀ n, new = some n → s'.granule loc = sealed (blend v (BitVec.ofNat 256 (n * 2 ^ (8 * a.byte)))
            (BitVec.ofNat 256 ((2 ^ w - 1) * 2 ^ (8 * a.byte)))) (BitVec.ofNat 6 ((s.granule loc).sl.toNat / 2 ^ 26))) ∧
          (new = none → SameMemory s s') ∧
          (∀ t, s.thread a.who = some t → ∀ o ∈ t.outst, o.tok = tok → ∃ t' , s'.thread a.who = some t' ∧
            { o with fin := .ready [.x d (if wide then BitVec.ofNat 64 old else BitVec.ofInt 64 (BitVec.ofNat 32 old).toInt), .flags fl,
                .fold 8 (if wide then BitVec.ofNat 64 old else BitVec.ofInt 64 (BitVec.ofNat 32 old).toInt)] } ∈ t'.outst) ∧
          ∃ due ∈ s'.pend, due.ev = .longResultLands a.who tok ∧ s.cycle ≤ due.due ∧ ∀ off, a.key = .own off → due.due = s.cycle + 11) ∧
    (∀ tok g tile off, a.kind = .multicast tok g → a.loc = some (.sram tile off) → off % 32 = 0 → off + 32 ≤ 393216 →
      s.portHolds a tile off = false → (a.held = none → tile = a.who.tile → earlierOwn s a = false) →
      ∃ s', exec (.vstmDestinationWrite a.id) s = .next s' ∧ s'.access a.id = none ∧ s'.granule (.sram tile off) = g ∧
        OnlyAt s s' (.sram tile off) 32 ∧
        ((∀ b ∈ s.accs, b.id ≠ a.id → b.tok ≠ some tok) → ∃ d ∈ s'.pend, d.ev = .longResultLands a.who tok ∧ d.due = s.cycle + 1)) ∧
    (a.stage = 1 → (∀ tok d v, a.kind ≠ .launch tok d v) → farRank s a = none → walkShut s a = false →
      (∀ f s1, translate s a.who.tile a.addr (accessNeed s a) = (.error f, s1) → exec (.portAccess a.id) s = .next (failPort a f s1)) ∧
      ∀ f s1 addr, translate s a.who.tile a.addr (accessNeed s a) = (.ok f, s1) → f.loc.granule = .hbm addr → a.kind = .word →
        exec (.portAccess a.id) s = .next ((s1.putAccess { a with
          loc := some (.hbm addr), stage := 2, home := f.home, logged := f.logged }).scheduleFree phaseAccess (.portAccess a.id))) ∧
    (∀ loc, 2 ≤ a.stage → a.loc = some loc →
      (∀ f, routeFault s a loc = some f → exec (.portAccess a.id) s = .next (failPort a f s)) ∧
      ∀ addr, loc = .hbm addr → routeFault s a loc = none → exec (.portAccess a.id) s = .next (enqueue a addr s))) ∧
  (∀ (s : State) (pc : Nat),
    let c := s.channel pc
    (c.waiting = [] → exec (.hbmCommandSlot pc) s = .next s) ∧
    ((∀ w ∈ c.waiting, grantable s c.slot w = false) → c.waiting ≠ [] → exec (.hbmCommandSlot pc) s = .next (nextSlot pc false s)) ∧
    (∀ before w after a, c.waiting = before ++ w :: after → (∀ x ∈ before, grantable s c.slot x = false ∧ x ≠ w) → grantable s c.slot w = true →
      s.access w.2 = some a → before ++ after ≠ [] → exec (.hbmCommandSlot pc) s =
        .next (nextSlot pc false (grant a (s.setChannel pc { c with waiting := before ++ after })))) ∧
    (∀ r slot timed, slotServes r slot timed = if r = 0 then true else decide (slot * r / 16 < (slot + 1) * r / 16) == timed) ∧
    ∀ a id first n addr x, s.access a.id = some a → a.kind = .burst id first n → a.loc = some (.hbm addr) →
      s.transfer a.who.tile id = some x → x.load = false → first + n ≤ x.data.length → addr % 32 = 0 → addr + 32 * n ≤ 2 ^ 40 →
      (moveRing + 32 ≤ addr ∨ addr + 32 * n ≤ moveRing) →
      ∃ s', exec (.hbmBurstComplete a.id) s = .next s' ∧ s'.access a.id = none ∧ OnlyAt s s' (.hbm addr) (32 * n) ∧
        ∀ i < n, some (s'.granule (.hbm (addr + 32 * i))) = x.data[first + i]?)

/-- O53. (03 R75, R76, R83, 07 R199, 08 R231) a trap is entered once nothing is outstanding; an interrupt that may be taken is, with the
lowest input; the timer sets input 1; the waits of WAITC and TFENCE end. (07 R189, R190) a victim's save area is read one
granule a cycle; with the last, where it still holds what its eviction wrote, the victim comes back as it was, at its mark, and its slot
with it: every register that the layout names, and the interrupts that came meanwhile. A granule that fails its check makes it fatal. -/
def Obligations.TrapWaitAndRestoreEvents : Prop :=
  (∀ (s : State) (w : Who) (t : Thread), s.thread w = some t →
    (t.outst = [] → (s.slot w).evict = none → exec (.trapEntry w) s = .next (trapEnter w s)) ∧
    (t.outst ≠ [] → exec (.trapEntry w) s = .next s) ∧
    (∀ n < 8, t.status.ie = true → t.status.inh = false → t.entering = none → t.fatal = none → t.halted = none →
      (t.ipend &&& t.ienable).getLsbD n = true → (∀ k < n, (t.ipend &&& t.ienable).getLsbD k = false) →
      exec (.interrupt w) s = .next (raise w { code := 0x1A, sub := 0, info := BitVec.ofNat 64 n, epc := t.pc, fpc := t.pc, async := true }
        (s.setThread w { t with wait := none }))) ∧
    (t.status.ie = false ∨ t.status.inh = true ∨ t.ipend &&& t.ienable = 0 → exec (.interrupt w) s = .next s) ∧
    exec (.timerInterrupt w) s =
      .next (if t.timecmp.toNat ≤ s.cycle then s.modThread w fun u => { u with ipend := u.ipend ||| 2 } else s) ∧
    (∀ o f n, t.outst.filter (fun o => match o.fin with | .publish .. => true | _ => false) = [o] → o.fin = .publish f n →
      exec (.tfenceValidationLanding w) s = match f with
        | none => .next (settle w ((dropOutst w o.tok s).modTile w.tile fun u =>
            { u with timed := { u.timed with ready := u.timed.ready || u.timed.edits = n } }))
        | some a => if t.fatal.isSome then .next (settle w (dropOutst w o.tok s))
            else .next (raiseLate w { code := 0x19, sub := 0, info := BitVec.ofNat 64 (7 + a * 65536), epc := o.pc, fpc := o.pc }
              (dropOutst w o.tok s))) ∧
    ∀ pc key byte off b cond d u reading again, t.wait = some (.word pc key byte off b cond d u reading again) →
      let as (reading again : Bool) : State := s.setThread w { t with wait := some (.word pc key byte off b cond d u reading again) }
      (reading = true → exec (.waitcReread w) s = .next (as true again)) ∧
      (reading = false → exec (.waitcReread w) s =
        .next { startAccess key byte 8 0 .word { as true false with cur := w } with cur := s.cur }) ∧
      (∀ n, u = some n → s.cycle < n → exec (.waitcTimeout w) s = .next s) ∧
      (∀ n, u = some n → n ≤ s.cycle → t.outst = [] → t.fatal = none → ∃ s' t', exec (.waitcTimeout w) s = .next s' ∧
        s'.thread w = some t' ∧ t'.wait = none ∧ { t' with wait := t.wait } = { t with
          faults := t.faults ++ [(s.serial, { code := 0x17, info := off, epc := pc, fpc := pc, rollback := true })]
          entering := some (t.entering.getD { code := 0x17, info := off, epc := pc, fpc := pc, rollback := true }) } ∧
        ∃ due ∈ s'.pend, due.ev = .trapEntry w) ∧
      ∀ v, waitHolds cond v b = match cond.toNat with
        | 0 => decide (v.toNat = b.toNat) | 1 => decide (v.toNat ≠ b.toNat) | 2 => decide (b.toInt ≤ v.toInt)
        | 3 => decide (b.toNat ≤ v.toNat) | 4 => decide (v.toInt < b.toInt) | _ => decide (v.toNat < b.toNat)) ∧
  ∀ (s : State) (w : Who) (v : Victim),
    let next : Option Loc := v.save[v.got.length]?
    let again (delay phase : Nat) (s : State) : State := s.schedule (s.cycle + delay) phase (.victimRestore w)
    (s.slot w).victim = some v →
    (∀ l, next = some l → spillWaits s l = true → exec (.victimRestore w) s = .next (again 1 phaseHeld s)) ∧
    (∀ l d, next = some l → spillWaits s l = false → sealCheck (s.view l) none = .ok (d, false) → v.got.length + 1 < v.save.length →
      exec (.victimRestore w) s =
        .next (again 1 phaseAccess (s.modSlot w fun sl => { sl with victim := some { v with got := v.got ++ [d] } }))) ∧
    (∀ l f, next = some l → spillWaits s l = false → sealCheck (s.view l) none = .error f →
      ∃ s' t' tr, exec (.victimRestore w) s = .next s' ∧ s'.thread w = some t' ∧ (s'.slot w).victim = none ∧ t'.fatal = some tr ∧
        tr.code = 0x0B ∧ 3 ≤ t'.faultClass) ∧
    ∀ l d t p, next = some l → spillWaits s l = false → sealCheck (s.view l) none = .ok (d, false) →
    v.thread = { t with ipend := p } → v.got ++ [d] = saveGranules t none → v.save.length = v.got.length + 1 →
    t.fatal = none → t.status.spt = false → t.fmode.toNat < 6 → t.mpc.toNat % 4 = 0 → (∀ n, t.getV n ≠ 0 → n < t.window) →
    ∃ s' t', exec (.victimRestore w) s = .next s' ∧ s'.thread w = some t' ∧ (s'.slot w).victim = none ∧ SameMemory s s' ∧
      (∀ v, v ≠ w → s'.thread v = s.thread v) ∧
      (∀ r, t'.getX r = t.getX r) ∧ (∀ n, t'.getK n = t.getK n) ∧ (∀ n, t'.getV n = t.getV n) ∧ t'.seg = t.seg ∧ t'.status = t.status ∧ t'.cause = t.cause ∧
      t'.info = t.info ∧ t'.epc = t.epc ∧ t'.fpc = t.fpc ∧ t'.tvec = t.tvec ∧ t'.ftvec = t.ftvec ∧ t'.ienable = t.ienable ∧
      t'.ipend = t.ipend ||| p ∧ t'.scratch = t.scratch ∧ t'.fflags = t.fflags ∧ t'.fmode = t.fmode ∧ t'.srseed = t.srseed ∧
      t'.timecmp = t.timecmp ∧ t'.item = t.item ∧ t'.gen = t.gen ∧ t'.shape = t.shape ∧ t'.mpc = t.mpc ∧ t'.pc = t.mpc ∧
      t'.serial = t.serial ∧ t'.window = t.window ∧ t'.resumeAt = s.cycle + 1

/-- O54. (11 R286, R287, 07 R181, R182, R188, R195) a router's action on the next code of a string; a failing code drops the packet, and
its sender takes ROUTE_INVALID at it; and what each kind of packet does at the tile where it is ejected. A packet never passes an earlier
one of its string. -/
def Obligations.PacketsTravelAndArrive : Prop :=
  ∀ (s : State) (p : Packet), s.packet p.id = some p →
    let wait (e : Event) : Result := .next (s.schedule (s.cycle + 1) phaseAccess e)
    let code (i : Nat) : Nat := p.desc.toNat / 2 ^ (3 * i) % 8
    let len := p.desc.toNat / 2 ^ 192 % 256
    let drop (i : Nat) : Prop := exec (.packetHop p.id) s =
      .next ((s.putPacket { p with dropped := true }).scheduleFree phaseAccess (.routeInvalidNotice p.id i))
    let head := headWait s p
    let stays (p' : Packet) : Prop := exec (.packetHop p.id) s = .next ((s.putPacket p').schedule s.cycle phaseAccess (.packetHop p.id))
    let goes (n : Nat) (p' : Packet) : Prop := exec (.packetHop p.id) s =
      .next ((head.2.putPacket p').schedule (s.cycle + n + head.1) phaseAccess (.packetHop p.id))
    (s.accs = [] → s.deliveries = [] → (∀ q ∈ s.packets, q.id = p.id ∨ q.dropped = true ∨ q.away = true) → head = (0, s)) ∧
    (∀ i, exec (.routeInvalidNotice p.id i) s =
      .next (failResult p.who p.thread p.tok { code := 0x0D, info := BitVec.ofNat 64 i } (s.dropPacket p.id))) ∧
    (p.behind s = true → exec (.packetHop p.id) s = wait (.packetHop p.id)) ∧
    (p.behind s = false →
      (len ≤ p.index → drop len) ∧
      (p.index < len →
        (p.index = 0 → (code 0 ≤ 3 → stays { p with heading := BitVec.ofNat 2 (code 0), index := 1 }) ∧ (3 < code 0 → drop 0)) ∧
        (p.index ≠ 0 →
          (code p.index = 7 ∨ (code p.index = 6 ∧ p.escape = true) → drop p.index) ∧
          (code p.index = 6 → p.escape = false → stays { p with escape := true, bent := false, index := p.index + 1 }) ∧
          (∀ h, ((code p.index = 0 ∨ code p.index = 4) ∧ h = p.heading) ∨ (code p.index = 1 ∧ h = leftOf p.heading) ∨ (code p.index = 2 ∧ h = rightOf p.heading) →
            let forbidden := p.bent = true ∧ (h = 0 ∨ p.escape = true ∧ h = 3)
            let bends := if p.escape then h = 1 ∨ h = 2 else h ≠ 0
            (forbidden → drop p.index) ∧ (¬ forbidden → (neighbour p.cluster h = none → drop p.index) ∧
              ∀ c, neighbour p.cluster h = some c → c ≠ p.cluster →
                let crosses := c / 320 ≠ p.cluster / 320
                let p' : Packet := { p with cluster := c, heading := h, bent := p.bent || decide bends, index := p.index + 1 }
                (¬ crosses → code p.index ≠ 4 → c ∉ s.pkg.absent → goes 6 p') ∧
                (crosses → code p.index = 4 → s.crossingDown p.cluster h.toNat = false → c ∉ s.pkg.absent →
                  goes (6 + Tab.get 0 s.pkg.crossing (p.cluster * 4 + h.toNat)) p') ∧
                ((crosses ↔ code p.index ≠ 4) ∨ (crosses ∧ s.crossingDown p.cluster h.toNat = true) ∨ c ∈ s.pkg.absent → drop p.index))) ∧
          (code p.index = 3 → len = p.index + 3 → ∀ n, n = code (p.index + 1) * 8 + code (p.index + 2) →
            (20 ≤ n → drop p.index) ∧
            (n < 16 → s.hole (clusterTile p.cluster n) = false → ∃ flits k s1, 1 ≤ k ∧ s1 = { head.2 with draws := head.2.draws + 1 } ∧
              exec (.packetHop p.id) s = .next ((s1.putPacket { p with ejected := some (clusterTile p.cluster n) }).schedule
                (s.cycle + 6 + head.1 + flits + k) phaseAccess (match p.load with
                  | .granule .. => .portSendArrival p.id | .doorbell .. => .doorbellArrival p.id
                  | .spawn .. => .spawnStateArrival p.id | .steal .. => .stealRequestArrival p.id)) ∧
              flits = match p.load with | .granule .. => 2 | _ => 0)) ∧
          (code p.index = 5 → ∀ n, n = code (p.index + 1) * 8 + code (p.index + 2) →
            let port := s.pkg.ports[n]?.getD {}
            let out := p.index + 3 ≤ len ∧ n < 24 ∧ port.state = 3 ∧ clusterOf port.tile = p.cluster
            (out → exec (.packetHop p.id) s = .next (s.putPacket { p with away := true })) ∧ (¬ out → drop p.index)))) ∧
      ∀ tile, p.ejected = some tile →
        (∀ q g, p.load = .granule q g →
          let x := (s.tile tile).queue q
          let refused := 40960 ≤ tile ∨ x.enabled = false ∨ x.remote = false
          (refused → exec (.portSendArrival p.id) s =
            .next (failResult p.who p.thread p.tok { code := 0x11, info := BitVec.ofNat 64 (0x100 + q) } (s.dropPacket p.id))) ∧
          (¬ refused → (x.depth ≤ x.count + x.inFlight ∨ s.portTaken tile (x.offset x.tail) = true →
              exec (.portSendArrival p.id) s = .next (s.schedule (s.cycle + 1) phaseHeld (.portSendArrival p.id))) ∧
            (x.count + x.inFlight < x.depth → s.portTaken tile (x.offset x.tail) = false → exec (.portSendArrival p.id) s =
              .next (replyPacket p [] 0 (pushGranule tile q g (s.modTile tile (·.setQueue q { x with inFlight := x.inFlight + 1 }))))))) ∧
        (∀ d slot, p.load = .doorbell d slot →
          let alive := tile < 40960 ∧ slot < (s.tile tile).width ∧ s.thread ⟨tile, slot⟩ ≠ none
          (alive → exec (.doorbellArrival p.id) s = .next (replyPacket p [.x d 0] 0
            (s.modThread ⟨tile, slot⟩ fun u => { u with ipend := u.ipend ||| 4 }))) ∧
          (¬ alive → exec (.doorbellArrival p.id) s = .next (replyPacket p [.x d (if 40960 ≤ tile then 2 else 1)] 0 s))) ∧
        (∀ d slot n child, p.load = .spawn d slot n child →
          let st := if 40960 ≤ tile then 2 else if tile = p.who.tile ∧ slot = p.who.slot then 1
            else spawnStatusOf (s.tile tile) 8 slot child.window
          (tile < 40960 → (s.tile tile).width ≤ 8) →
          exec (.spawnStateArrival p.id) s = .next (replyPacket p [.x d (BitVec.ofNat 64 st)] (if st = 0 then 6 + n else 0)
            (if st = 0 then startChild ⟨tile, slot⟩ child (s.cycle + 6 + n) s else s))) ∧
        ∀ d, p.load = .steal d →
          let r := ((s.tile tile).deque.head?.map (·.record)).getD 0
          let ws (r : Vec) : List Write := (List.range 4).map (fun i => .x (d + BitVec.ofNat 5 i) (BitVec.ofNat 64 (r.toNat / 2 ^ (64 * i)))) ++
            [.fold 8 (BitVec.ofNat 64 r.toNat)]
          (40960 ≤ tile → exec (.stealRequestArrival p.id) s = .next (replyPacket p (ws 0) 0 s)) ∧
          (tile < 40960 → s.cycle < (s.tile tile).dequeFrom → exec (.stealRequestArrival p.id) s =
            .next (s.schedule (s.tile tile).dequeFrom phaseAccess (.stealRequestArrival p.id))) ∧
          (tile < 40960 → (s.tile tile).dequeFrom ≤ s.cycle → ∃ s', exec (.stealRequestArrival p.id) s = .next s' ∧
            Counts (replyPacket p (ws r) 0
              (dequeFreed tile (s.modTile tile fun u => { u with deque := u.deque.tail, dequeFrom := s.cycle + 1 }))) s'))

/-- O55. (06 R154, 07 R185, R186, R192, R197, 10 R277, 11 R287, 13 R331, R332) a forwarded register enters its bank, waits for it or finds its item over;
a transfer unit fetches or drains a granule; fired counters push their records as there is room; a barrier's last arrival releases all; a
post is accepted or refused. -/
def Obligations.TileEvents : Prop :=
  ∀ (s : State),
    (∀ d, s.deliveries.find? (·.id = d.id) = some d → (∀ a ∈ s.accs, a.who = d.who → a.thread = d.thread → a.stores = true → d.tok ≤ a.id) →
      let path := pathFault s (clusterOf d.who.tile) (clusterOf d.target.tile)
      (∀ i, path = some i → exec (.forwardingDelivery d.id) s = .next (failResult d.who d.thread d.tok (routeInvalid i)
        { s with deliveries := s.deliveries.filter (·.id ≠ d.id) })) ∧
      (path = none → d.bank s = none → exec (.forwardingDelivery d.id) s = .next (acceptDelivery d s)) ∧
      (∀ b, path = none → d.bank s = some b →
        (b ≤ 3 → exec (.forwardingDelivery d.id) s = .next (acceptDelivery d (s.modSlot d.target (·.fwdPut d.key d.entry)))) ∧
        (3 < b → exec (.forwardingDelivery d.id) s =
          .next { s with deliveries := s.deliveries.map fun e => if e.id = d.id then { e with waiting := true } else e }))) ∧
    (∀ w, ∃ s', exec (.itemAdvanceReport w) s = .next s' ∧ s'.deliveries.length = s.deliveries.length ∧ s'.tiles = s.tiles ∧
      SameMemory s s' ∧ ∀ d ∈ s.deliveries, d.waiting = true → d.target = w → (d.bank s).getD 0 ≤ 3 →
        (∀ e ∈ s.deliveries, e.id = d.id → e = d) → { d with waiting := false } ∈ s'.deliveries ∧ ∃ x ∈ s'.pend, x.ev = .forwardingDelivery d.id) ∧
    (∀ tile j st n, (s.tile tile).stream j = some st → st.write = false → st.seg.kind = 2 → n ∈ st.busy → (∀ k ∈ st.busy, n ≤ k) →
      (∀ a ∈ s.accs, ∀ i, a.kind ≠ .fetch j i) →
      let addr := st.seg.address (st.offset n)
      let holds (g : Option Granule) (f : Option Trap) : Prop := exec (.streamPrefetch tile j) s =
        .next (s.modTile tile (·.setStream j (some { st with busy := st.busy.filter (· ≠ n), held := st.held ++ [(n, g, f)] })))
      s.portTaken tile addr = false →
        ((s.tile tile).openGranule addr = true → holds (some (s.granule (.sram tile addr))) none) ∧
        ((s.tile tile).openGranule addr = false →
          holds none (some { code := cWindowViolation, info := BitVec.ofNat 64 addr, epc := 0, fpc := 0 }))) ∧
    (∀ tile j st n g off rest, (s.tile tile).stream j = some st → st.drain = (n, g, .sram tile off) :: rest → rest ≠ [] →
      off % 32 = 0 → off + 32 ≤ 393216 → s.portTaken tile off = false →
      ∃ s', exec (.streamDrain tile j) s = .next s' ∧ s'.granule (.sram tile off) = g ∧ OnlyAt s s' (.sram tile off) 32 ∧
        (s'.tile tile).stream j = some { st with drain := rest }) ∧
    (∀ tile, ∃ s', exec (.deferredArmPush tile) s = .next s' ∧ SameMemory s s' ∧
      (∀ k, k ≠ tile → s'.tile k = s.tile k) ∧ ∀ i a, i < 16 → (s.tile tile).armed[i]?.getD none = some a → a.fired = true →
        (∀ k < 16, k ≠ i → ∀ b, (s.tile tile).armed[k]?.getD none = some b → b.fired = false) →
        let room := (s.tile tile).deque.length + (s.tile tile).forking < 32
        if room ∧ (s.tile tile).dequeFrom ≤ s.cycle then
          (s'.tile tile).armed[i]? = some none ∧ (s'.tile tile).dequeFrom = s.cycle + 1 ∧
            (s'.tile tile).deque.map (·.record) = (s.tile tile).deque.map (·.record) ++ [a.record]
        else s'.tile tile = s.tile tile ∧ (room → ∃ x ∈ s'.pend, x.ev = .deferredArmPush tile ∧ x.due = (s.tile tile).dequeFrom)) ∧
    (∀ c num serial who count, (s.cluster c).arriving.find? (fun p => p.1 = num ∧ p.2.2.1 = serial) = some (num, who, serial, count) →
      let s1 := s.modCluster c fun k => { k with arriving := k.arriving.filter fun p => ¬ (p.1 = num ∧ p.2.2.1 = serial) }
      (16 ≤ num → exec (.barrierArrival c num serial) s =
        .next (releaseBar true (num - 16) (s.cycle + 4) (acquire 2 who s1) (who, serial))) ∧
      (num < 16 →
        let old := (s.cluster c).barriers[num]?.getD {}
        let n := if old.arrived = [] then count else old.count
        let all := if (who, serial) ∈ old.arrived then old.arrived else old.arrived ++ [(who, serial)]
        let put (b : Barrier) : State := s1.modCluster c fun k => { k with barriers := k.barriers.setIfInBounds num b }
        (all.length < n → exec (.barrierArrival c num serial) s = .next (put { count := n, arrived := all })) ∧
        (n ≤ all.length → exec (.barrierArrival c num serial) s = .next (all.foldl (fun s p =>
          (s.modCluster c fun k => { k with arriving := k.arriving ++ [(num + 16, p.1, p.2, 0)] }).schedule (s.cycle + 5) phaseAccess
            (.barrierArrival c (num + 16) p.2)) (put {}))))) ∧
    ∀ op, s.posts.find? (·.id = op.id) = some op →
      (op.sent = false → pendingWithin s op.who op.thread 6 = true →
        exec (.postArrival op.id) s = .next (s.schedule (s.cycle + 1) phaseEnd (.postArrival op.id))) ∧
      (op.sent = false → pendingWithin s op.who op.thread 6 = false → op.left = [op.who.tile] → exec (.postArrival op.id) s =
        .next ((s.modPost op.id fun q => { q with sent := true, own := decide (q.left = [q.who.tile]) }).schedule (s.cycle + 4) phaseAccess
          (.postArrival op.id))) ∧
      ∀ tile next rest, op.sent = true → op.left = tile :: next :: rest →
        let windows := ∃ r ∈ (s.tile tile).timed.files.win.toList, r.posts.getLsbD op.p = true ∧
          (r.st = .opened ∨ r.st = .awaiting ∧ r.awaited.getLsbD op.p = true ∨ r.st = .closed ∧ r.closing = some s.cycle)
        let taken := s.hole tile = false ∧ (s.tileRegion tile).isSome = true ∧ windows
        let put (s : State) (op' : PostOp) : State := { s with posts := s.posts.map fun p => if p.id = op.id then op' else p }
        (taken → exec (.postArrival op.id) s =
          .next (put (acceptPost tile op.p op.value s) { op with left := next :: rest, accepted := true })) ∧
        (¬ taken → exec (.postArrival op.id) s = .next (put s { op with left := next :: rest, refused := tile :: op.refused }))

/-- O56. (07 R174, 10 R267 to R269, R276) a lock that finds its table full is asked for again; an operation whose locks are all registered
is accepted among at most 32, once the thread's stores have performed, and the instruction lands with it; then its granules move one by
one: read, or made of FILL's pattern, and written whole, with the completion word paid and the locks released at the end. (11 R297 to
R299) a tile is done once its threads have ended and its part of the region is over: its status goes to its parent, or at the root into
the join word, which counts the launch, keeps the greatest class and adds the items; with the root's update the launch is over. An
abandoned launch stops its threads. -/
def Obligations.EngineAndLaunchEvents : Prop :=
  (∀ (s : State) (c : Nat) (o : EngOp), s.engOp c o.id = some o →
    (∀ r, o.asks = [r] →
      ((s.tile r.tile).locks.length < 16 → exec (.rangeLockRetry c o.id) s = .next
        (((s.modTile r.tile (·.lockIn r.entry)).putEng c { o with asks := [], made := o.made ++ [r] }).schedule
          s.cycle phaseAccess (.engineAccept c o.id))) ∧
      (16 ≤ (s.tile r.tile).locks.length → exec (.rangeLockRetry c o.id) s = .next
        ((s.putEng c o).schedule (s.cycle + 1) phaseAccess (.rangeLockRetry c o.id)))) ∧
    (let waits := 32 ≤ ((s.cluster c).engine.filter (·.accepted)).length ∨ pendingWithin s o.who o.thread 6 = true
     (waits → exec (.engineAccept c o.id) s = .next (s.schedule (s.cycle + 1) phaseAccess (.engineAccept c o.id))) ∧
     (¬ waits → o.far = none → o.parked = false → exec (.engineAccept c o.id) s = .next
       (((s.putEng c { o with accepted := true, entropy := none }).schedule s.cycle phaseLand (.longResultLands o.who o.tok)).scheduleFree phaseAccess
         (.engineGranuleWrite c o.id)))) ∧
    (o.accepted = true → (o.kind = .cpy ∨ o.kind = .cpym ∨ ∃ pat tag, o.kind = .fill pat tag) →
      (∀ i, o.left = [(i, 1)] → o.held = [] → ∀ g,
        (∀ pat tag, o.kind = .fill pat tag → g = sealed (pat ++ pat ++ pat ++ pat) tag) →
        ((o.kind = .cpy ∨ o.kind = .cpym) → ∃ sp loc b, o.src = some sp ∧ sp.at (i % o.length) = some (loc, b) ∧ s.busyAt loc = false ∧
          loc.far = false ∧ s.view loc = g) →
        ∃ s' o', exec (.engineGranuleWrite c o.id) s = .next s' ∧ SameMemory s s' ∧ s'.engOp c o.id = some o' ∧ o'.left = [] ∧
          o'.held = [(i, g)] ∧ (∀ r ∈ o'.made, r.dest ≠ none) ∧ Pending s s' (.engineGranuleWrite c o.id)) ∧
      ∀ i g d loc, o.left = [] → o.held = [(i, g)] → i < o.length → o.dests = [d] → d.span.at i = some (loc, false) → s.busyAt loc = false →
        (loc.far = true → d.word = none → ∃ s', exec (.engineGranuleWrite c o.id) s = .next s' ∧ SameMemory s s') ∧
        (loc.far = false → loc.addr % 32 = 0 → d.word = none → ∃ s', exec (.engineGranuleWrite c o.id) s = .next s' ∧ s'.granule loc = g ∧ OnlyAt s s' loc 32 ∧
          (d.wrote + 1 = o.length → s'.engOp c o.id = none)) ∧
        ∀ tile off v, loc.far = false → loc.addr % 32 = 0 → d.word = some (tile, off) → s.portTaken tile off = false → off % 8 = 0 →
          d.wrote + 1 = o.length →
          let word : Loc := .sram tile off
          Sound s word v → word.granule.addr ≠ loc.addr →
          ∃ s' v', exec (.engineGranuleWrite c o.id) s = .next s' ∧ s'.granule loc = g ∧ s'.engOp c o.id = none ∧ Sound s' word v' ∧
            doubleword word v' = (doubleword word v + 32 * (d.owed + 1)) % 2 ^ 64 ∧
            ∀ a, (a < loc.addr ∨ loc.addr + 32 ≤ a) → (a < word.addr ∨ word.addr + 8 ≤ a) → s'.byte a = s.byte a)) ∧
  (∀ (s : State) (id : Nat), s.launches.any (·.1 = id) = true →
    let l := s.launch id
    (∀ tile, (l.part tile).sent = true ∨ launchRunning s id tile = true ∨ (l.region = true ∧ (l.part tile).regionDone = false) →
      exec (.done id tile) s = .next s) ∧
    (∀ tile, (l.part tile).sent = false → launchRunning s id tile = false → (l.region = true → (l.part tile).regionDone = true) →
      l.subg = 0 → l.children tile = [] → (l.part tile).got = [] →
      let p := l.part tile
      let items := min (2 ^ 29 - 1) p.items
      (tile = l.root → ∃ s', exec (.done id tile) s = .next s' ∧ SameMemory s s' ∧ (s'.launch id).part tile = { p with sent := true } ∧
        (s'.launch id).updates = l.updates ++ [{ loc := l.join, cls := p.cls, items := items, tiles := l.tiles, root := true }] ∧
        Pending s s' (.joinUpdate id)) ∧
      (tile ≠ l.root → l.parent tile ≠ tile → ∃ s' n, exec (.done id tile) s = .next s' ∧ SameMemory s s' ∧
        (s'.launch id).part tile = { p with sent := true } ∧ (s'.launch id).updates = l.updates ∧
        (s'.launch id).part (l.parent tile) =
          { l.part (l.parent tile) with got := (l.part (l.parent tile)).got ++ [(tile, p.cls, items, s.cycle + n)] } ∧
        Pending s s' (.done id (l.parent tile)))) ∧
    (∀ u rest, l.updates = u :: rest →
      (launchPending s id u.tiles = true ∨ s.busyAt u.loc = true →
        exec (.joinUpdate id) s = .next (s.schedule (s.cycle + 1) phaseAccess (.joinUpdate id))) ∧
      (launchPending s id u.tiles = false → s.busyAt u.loc = false → u.loc.far = true →
        ∃ s', exec (.joinUpdate id) s = .next s' ∧ SameMemory s s') ∧
      ∀ v, launchPending s id u.tiles = false → s.busyAt u.loc = false → u.loc.far = false → Sound s u.loc v → u.loc.addr % 8 = 0 →
        let old := doubleword u.loc v
        ∃ s' v', exec (.joinUpdate id) s = .next s' ∧ OnlyAt s s' u.loc 8 ∧ Sound s' u.loc v' ∧
          doubleword u.loc v' = ((old / 2 ^ 32 + 1) % 2 ^ 32 * 2 ^ 32 + max (old / 2 ^ 29 % 8) u.cls * 2 ^ 29 +
            min (2 ^ 29 - 1) (old % 2 ^ 29 + u.items)) % 2 ^ 64 ∧
          (u.root = true → s'.launches.any (·.1 = id) = false) ∧ (u.root = false → (s'.launch id).updates = rest)) ∧
    ∀ cls, ∃ s', exec (.launchAbandon id cls) s = .next s' ∧ SameMemory s s' ∧ (s'.launch id).abandoned = true ∧
      (∀ w, w.tile ∉ l.tiles → s'.thread w = s.thread w) ∧
      (∀ tile ∈ l.tiles, ((s'.launch id).part tile).cls = max (l.part tile).cls cls ∧ Pending s s' (.done id tile)) ∧
      ∀ w t, w.tile ∈ l.tiles → w.slot < 8 → s.thread w = some t →
        (t.launch ≠ some id → s'.thread w = some t) ∧
        (t.launch = some id → ∃ t', s'.thread w = some t' ∧ t'.fatal.isSome = true ∧ t'.halted = none ∧ t'.wait = none ∧ t'.x = t.x ∧
          t'.outst = t.outst ∧ t'.pc = t.pc ∧ (t.outst = [] → Pending s s' (.threadFatal w))))

/-- O57. (08 R229, R230, 11 R294, 13 R326 to R328) a region starts at its cycle 0; its earliest fault fixes its halt the halt distance on,
the others keep for their records; from the halt no tile issues, and 12 cycles later every tile takes its snapshot back; then the steward
has the trap, or with its steward gone the region is fatal. A freeze begins at its point and ends with its record. (08 R203, R220, R223,
R226, R246, 13 R328) of a tile in a region: a post that a window still awaits at its timeout, a transfer that is late at its deadline and
a granule that finds its receive buffer full are region faults; (16 R375, R376) a granule on a port that has lost lock is lost, and one
from a damaged flit has its seal's bits 16 and 17 inverted; a swap takes the other half, or is missed; the part that is done writes
its status granule. -/
def Obligations.RegionEvents : Prop :=
  (∀ (s : State) (id : Nat) (r : Region), s.region id = some r →
    let as (r' : Region) (s : State) : State := { s with regions := Tab.put s.regions id r' }
    (∃ s', exec (.regionStart id) s = .next s' ∧ s'.region id = some { r with started := true, cycle := 0 } ∧ SameMemory s s' ∧
      (∀ tile, tile ∉ r.tiles → s'.tile tile = s.tile tile) ∧
      ∀ tile ∈ r.tiles, (s'.tile tile).timed = { (s.tile tile).timed with turn := s.cycle, snapAt := s.cycle }) ∧
    (∀ tile cause sub info addr,
      let f : RegFault :=
        { tile := tile, at_ := r.cycle, wall := s.cycle, cause := cause, code := BitVec.ofNat 8 (sub / 16), sub := BitVec.ofNat 4 (sub % 16)
          info := info, addr := addr, aux := if cause = 6 then info.toNat % 16 else 0 }
      let leaves (s' : State) : Prop := exec (.regionFault id tile cause sub info addr) s = .next s'
      (r.fault = none → r.haltAt = none → cause ≠ 6 ∨ r.frozen = false →
        leaves (as { r with fault := some f, haltAt := some (r.cycle + r.s) } s)) ∧
      (r.fault = none → r.haltAt = none → cause = 6 → r.frozen = true →
        leaves ((as { r with fault := some f, haltAt := some r.cycle } s).schedule s.cycle phaseLand (.regionHalt id))) ∧
      let ends (r' : Region) : Prop :=
        if cause = 6 ∧ r.frozen = true ∧ r.halted = false then
          leaves ((as { r' with haltAt := some r.cycle } s).schedule s.cycle phaseLand (.regionHalt id))
        else leaves (as r' s)
      (r.fault = none → r.haltAt ≠ none → ends { r with others := r.others ++ [f] }) ∧
      ∀ g, r.fault = some g →
        let earlier := g.at_ = r.cycle ∧ g.wall = s.cycle ∧ tile < g.tile ∧ r.halted = false
        (earlier → ends { r with fault := some f, others := r.others ++ [g] }) ∧
        (¬ earlier → ends { r with others := r.others ++ [f] })) ∧
    (r.halted = false → exec (.regionHalt id) s =
      .next ((as { r with halted := true, frozen := false } s).schedule (s.cycle + 12) phaseEnd (.regionRollback id))) ∧
    (r.halted = true → exec (.regionHalt id) s = .next s) ∧
    (r.halted = true → r.rolled = false → ∃ s', exec (.regionRollback id) s = .next s' ∧ SameMemory s s' ∧
      (∃ r', s'.region id = some r' ∧ r'.rolled = true ∧ { r' with rolled := r.rolled, freezes := r.freezes } = r) ∧
      (r.fault ≠ none → Pending s s' (.stewardRegionTrap id)) ∧ (∀ tile, tile ∉ r.tiles → s'.tile tile = s.tile tile) ∧
      ∀ tile ∈ r.tiles, ∀ f, (s.tile tile).timed.snap = some f →
        let u := (s.tile tile).timed
        let u' := (s'.tile tile).timed
        { u'.files with win := f.win } = f ∧ u'.seqr = .word ∧ u'.swap = false ∧ u'.marked = false ∧ u'.results = u.results ∧
          u'.flags = u.flags ∧ u'.discards = u.discards ∧ u'.arrayops = u.arrayops ∧ u'.post = u.post ∧ u'.ready = u.ready) ∧
    (∀ f, r.fault = some f →
      (∀ t, s.thread r.steward = some t → t.serial = r.stewardSerial → (s.slot r.steward).victim = none →
        exec (.stewardRegionTrap id) s = .next (s.setThread r.steward { t with
          asyncs := t.asyncs ++ [{ code := f.code, sub := f.sub, info := f.info, epc := 0, fpc := 0 }], ipend := t.ipend ||| 8 })) ∧
      (s.thread r.steward = none → (s.slot r.steward).victim = none → ∃ s', exec (.stewardRegionTrap id) s = .next s' ∧
        s'.region id = none ∧ Pending s s' (.launchAbandon r.launch 4))) ∧
    (∀ p, r.halted = false → r.debugAt = some p → p ≤ r.cycle → exec (.freeze id) s = .next
      (as { r with frozen := r.frozen || r.freezes.any (·.point ≤ r.cycle), stopped := some s.cycle, debugAt := none } s)) ∧
    (r.halted = false → r.debugAt = none → exec (.freeze id) s = .next
      (as { r with frozen := r.frozen || r.freezes.any (·.point ≤ r.cycle) } s)) ∧
    (r.frozen = false → exec (.freezeEnd id) s = .next s) ∧
    (∀ f n, r.frozen = true → r.freezes = [f] → f.point ≤ r.cycle → f.length = some n →
      (n ≤ f.elapsed → ∀ tile w, f.close = some (tile, w) → exec (.freezeEnd id) s = .next
        ((deviate { r with cycle := f.point - r.s } tile 8 f.addr n (f.missing.toNat * 65536 + w) s).modRegion id fun r =>
          { r with frozen := false, freezes := [] })) ∧
      (f.elapsed < n → f.until_ = none → exec (.freezeEnd id) s = .next s)) ∧
    (r.debugAt = none → r.stopped = none → r.started = true →
      exec (.debugRegionHalt id) s = .next (as { r with debugAt := some (r.cycle + r.s) } s)) ∧
    (r.debugEnd = none → r.stopped ≠ none → exec (.debugRegionResume id) s =
      .next ((as { r with debugEnd := some (s.cycle + r.s) } s).schedule (s.cycle + r.s) phaseLand (.debugRegionResume id))) ∧
    (∀ n since, r.debugEnd = some n → n ≤ s.cycle → r.stopped = some since → exec (.debugRegionResume id) s =
      .next ((deviate r (r.tiles.headD 0) 0x0B 0 (s.cycle - since) 0 s).modRegion id fun r =>
        { r with stopped := none, debugAt := none, debugEnd := none })) ∧
    (r.tiles.all (fun tile => (s.tile tile).timed.seqr = .reported) = false → exec (.regionEnd id) s = .next s) ∧
    (r.fault = none → r.others = [] → r.tiles.all (fun tile => (s.tile tile).timed.seqr = .reported) = true →
      ∃ s', exec (.regionEnd id) s = .next s' ∧ SameMemory s s' ∧ s'.region id = none ∧
        (∀ tile, tile ∉ r.tiles → s'.tile tile = s.tile tile) ∧
        ∀ tile ∈ r.tiles, (s'.tile tile).timed.region = none ∧ (s'.tile tile).timed.seqr = .reported ∧
          (s'.tile tile).timed.files.active = (s.tile tile).timed.files.active ∧
          ∀ w ∈ (s'.tile tile).timed.files.win.toList, w.st = .closed)) ∧
  (∀ (s : State) (tile : Nat),
    let u := (s.tile tile).timed
    let faults (cause code sub : Nat) (info : Word) (addr : Nat) (s : State) : State := match u.region with
      | some id => { s with todo := s.todo ++ [.event (.regionFault id tile cause (code * 16 + sub) info addr)] }
      | none => lateFault tile (BitVec.ofNat 8 code) (BitVec.ofNat 4 sub) info s
    (∀ n (w : Window) id r, u.files.win[n]? = some w → s.tileRegion tile = some (id, r) →
      let missing := w.awaited
      (w.st ≠ .awaiting ∨ missing = 0 → exec (.postTimeout tile n) s = .next s) ∧
      (∀ p < 16, w.st = .awaiting → missing.getLsbD p = true → (∀ q < p, missing.getLsbD q = false) →
        exec (.postTimeout tile n) s = .next (faults 6 0x10 0 (BitVec.ofNat 64 p)
          (((r.freezes.find? (·.close = some (tile, n))).map (·.addr)).getD 0)
          (if r.frozen then s else
            { s with regions := Tab.put s.regions id { r with freezes := r.freezes.filter (·.close ≠ some (tile, n)) } })))) ∧
    (∀ id x, u.transfers.find? (·.id = id) = some x →
      (x.checked = true → exec (.hldDeadline tile id) s = .next (faults 0 0x0F 0 (BitVec.ofNat 64 x.addr) x.addr s)) ∧
      (x.checked = false → exec (.hldDeadline tile id) s = .next s)) ∧
    (∀ id, u.transfers.find? (·.id = id) = none → exec (.hldDeadline tile id) s = .next s) ∧
    (∀ port data sl, port < 28 → linkLost s port = true → ∀ damaged,
      exec (.linkGranuleArrival tile port data sl damaged) s = .next s) ∧
    (∀ port data sl, port < 28 → linkLost s port = false →
      let held := u.files.rx[port]?.getD []
      (32 ≤ held.length → ∀ damaged, exec (.linkGranuleArrival tile port data sl damaged) s =
        .next (faults 1 0x0F 1 (BitVec.ofNat 64 u.addr) u.addr s)) ∧
      (held.length < 32 → ∀ damaged, ∃ g : Granule, g.data = data ∧ g.sl = (if damaged then sl ^^^ 0x30000 else sl) ∧
        exec (.linkGranuleArrival tile port data sl damaged) s = .next (s.modTimed tile fun u =>
          { u with files := { u.files with rx := u.files.rx.setIfInBounds port (held ++ [g]) } }))) ∧
    (u.swap = false → exec (.swapBoundary tile) s = .next s) ∧
    (u.swap = true → u.ready = true → exec (.swapBoundary tile) s = .next (s.modTimed tile fun u => { u with
      files := { u.files with active := !u.files.active, ptr := 0 }
      swap := false, ready := false, edits := u.edits + 1, seqr := .empty 12, marked := true, markId := 0 })) ∧
    (u.swap = true → u.ready = false → exec (.swapBoundary tile) s =
      .next (deviateAt tile 9 u.addr 0 0 (s.modTimed tile fun u => { u with swap := false }))) ∧
    (u.region = none → exec (.tilePartDone tile) s = .next s) ∧
    (∀ id r, u.region = some id → s.region id = some r → u.arrayops < 2 ^ 64 → u.discards < 2 ^ 64 →
      ∃ s', exec (.tilePartDone tile) s = .next s' ∧ OnlyAt s s' (.sram tile 0x5FFC0) 32 ∧
        s'.granule (.sram tile 0x5FFC0) = sealed (BitVec.ofNat 256 (u.flags.toNat + 2 ^ 64 * u.arrayops + 2 ^ 128 * u.discards)) 0 ∧
        (s'.tile tile).timed = { u with seqr := .reported } ∧
        (s.launches.any (·.1 = r.launch) = true → ((s'.launch r.launch).part tile).regionDone = true) ∧
        Pending s s' (.done r.launch tile) ∧ Pending s s' (.regionEnd id)))

/-- O58. (15 R360 to R363, R369, R364) what the control node writes lands in HBM piece by piece, each an aligned granule or a part of an
aligned word; its reads return the bytes with their seals, or a register of the package page; an access beyond the data space or to a
stack that is not ready returns an error, and one to an owner that serves no threaded traffic waits; each waits behind those before it. A
doorbell sets input 6, or returns an error; boot starts the first copy that passes, or fails; a function that is ready sets its bit, a die's
with its SRAM zeroed. (15 R359, R365, R366, R371, R372) the registers of the package page; the job record is taken with go set once the
package accepts jobs, and the job ends in its states; the host's commands end with their result, and the mailbox answers into its buffer.
-/
def Obligations.HostAndJobEvents : Prop :=
  (∀ (s : State),
    let refused (addr size : Nat) : Prop := 766 * 2 ^ 30 < addr + size ∨ s.pkg.ready.getLsbD 21 = false ∨
      ∃ a, addr ≤ a ∧ a < addr + size ∧ s.stackReady a = false
    let answered (x : Answer) : State := { s with answers := s.answers ++ [x] }
    let waits (e : Event) : State := { s with hosts := [e] }.scheduleFree phaseAccess .hostServe
    (∀ e i, IsEvent i e → (match e with | .hostWrite .. | .hostRead (.data _) _ | .hostDoorbell .. => True | _ => False) → s.hosts ≠ [] →
      exec i s = .next { s with hosts := s.hosts ++ [e] }) ∧
    (∀ addr bytes, s.hosts = [] →
      (bytes = [] → exec (.hostWrite addr bytes) s = .next s) ∧
      (bytes ≠ [] → refused addr bytes.length → exec (.hostWrite addr bytes) s = .next (answered (.error addr))) ∧
      (bytes ≠ [] → ¬ refused addr bytes.length → s.hbmShut (.hbm addr) = true →
        exec (.hostWrite addr bytes) s = .next (waits (.hostWrite addr bytes))) ∧
      (bytes ≠ [] → ¬ refused addr bytes.length → s.hbmShut (.hbm addr) = false →
        let k := if addr % 32 = 0 ∧ 32 ≤ bytes.length then 32 else min bytes.length (4 - addr % 4)
        ∃ s', exec (.hostWrite addr bytes) s = .next s' ∧ OnlyAt s s' (.hbm (addr / 32 * 32)) 32 ∧
          (∀ i < k, some (s'.byte (addr + i)) = bytes[i]?) ∧ (k = 32 → ∃ v, s'.granule (.hbm addr) = sealed v 0) ∧
          s'.answers = s.answers ∧ (bytes.length = k → s'.hosts = []) ∧
          (k < bytes.length → s'.hosts = [.hostWrite (addr + k) (bytes.drop k)] ∧ Pending s s' .hostServe))) ∧
    (∀ addr size, s.hosts = [] →
      (refused addr size → 0 < size → exec (.hostRead (.data addr) size) s = .next (answered (.error addr))) ∧
      (¬ refused addr size → 0 < size → (∀ a, addr ≤ a → a < addr + size → s.hbmShut (.hbm a) = false) →
        exec (.hostRead (.data addr) size) s = .next (answered (.memory addr ((List.range size).map fun i => s.byte (addr + i))
          ((List.range ((addr + size - 1) / 32 - addr / 32 + 1)).map fun i => (s.granule (.hbm (addr / 32 * 32 + 32 * i))).sl))))) ∧
    (∀ off size, off % 8 + size ≤ 8 → ∃ v : Word, exec (.hostRead (.page off) size) s = .next (answered (.register off v)) ∧
      ∀ i < size, v.extractLsb' (8 * i) 8 = (s.pkg.pageWord (off / 8 * 8)).extractLsb' (8 * (off % 8 + i)) 8) ∧
    (∀ tile slot, s.hosts = [] → s.hole tile = true ∨ 8 ≤ slot ∨ s.thread ⟨tile, slot⟩ = none →
      exec (.hostDoorbell tile slot) s = .next (answered (.error 0x200))) ∧
    (∀ tile slot t, s.hosts = [] → s.hole tile = false → slot < 8 → s.thread ⟨tile, slot⟩ = some t → s.pkg.dispatcher ≠ some ⟨tile, slot⟩ →
      exec (.hostDoorbell tile slot) s = .next (s.setThread ⟨tile, slot⟩ { t with ipend := t.ipend ||| 64 })) ∧
    (∀ before c after, s.pkg.flash = before ++ c :: after → (∀ b ∈ before, firmwareOk b = false) → firmwareOk c = true →
      ∃ s', exec .boot s = .next s' ∧ s'.pkg.firmware = c ∧ s'.pkg.ready = s.pkg.ready ||| 1 ∧
        s'.pkg.secver = BitVec.ofNat 64 (Config.firmwareVersion c) ∧ s'.pkg.failed = s.pkg.failed ∧ s'.pkg.holes.length ≤ 960) ∧
    ((∀ c ∈ s.pkg.flash, firmwareOk c = false) → exec .boot s = .next { s with pkg := { s.pkg with failed := s.pkg.failed ||| 1 } }) ∧
    (∀ copy image,
      (s.pkg.failed.getLsbD 0 = true → exec (.bootFlashRecoveryWrite copy image) s =
        .next { s with pkg := { s.pkg with flash := s.pkg.flash.set copy image } }) ∧
      (s.pkg.failed.getLsbD 0 = false → exec (.bootFlashRecoveryWrite copy image) s = .next s)) ∧
    (∀ bit, 1 ≤ bit → bit ≤ 32 →
      let open_ := s.pkg.ready.getLsbD bit = false ∧ s.pkg.failed.getLsbD bit = false
      (¬ open_ → ∀ ok, exec (.functionReady bit ok) s = .next s) ∧
      (open_ → exec (.functionReady bit false) s = .next { s with pkg := { s.pkg with failed := s.pkg.failed ||| BitVec.ofNat 64 (2 ^ bit) } })) ∧
    ∀ bit, 1 ≤ bit → bit ≤ 29 ∨ bit = 32 →
      let may := s.pkg.ready.getLsbD 0 = true ∧ s.pkg.ready.getLsbD bit = false ∧ s.pkg.failed.getLsbD bit = false
      (¬ may → exec (.functionReady bit true) s = .next s) ∧
      (may → 9 ≤ bit →
        exec (.functionReady bit true) s = .next { s with pkg := { s.pkg with ready := s.pkg.ready ||| BitVec.ofNat 64 (2 ^ bit) } }) ∧
      (may → bit ≤ 8 → ∃ s', exec (.functionReady bit true) s = .next s' ∧
        s'.pkg = { s.pkg with ready := s.pkg.ready ||| BitVec.ofNat 64 (2 ^ bit) } ∧
        (∀ tile off, tile / 5120 = bit - 1 → off < 393216 → s'.byte (Loc.addr (.sram tile off)) = 0) ∧ ∀ a < 2 ^ 40, s'.byte a = s.byte a)) ∧
  (∀ (s : State),
    let p := s.pkg
    let as (p : Pkg) : State := { s with pkg := p }
    (∀ off v, off % 8 ≠ 0 → exec (.packagePageWrite off v) s = .next s) ∧
    (∀ v, exec (.packagePageWrite 0x420 v) s = .next (as { p with buffer := v })) ∧
    (∀ i < 4, ∀ v, ∃ p', exec (.packagePageWrite (0x400 + 8 * i) v) s = .next (as p') ∧ { p' with nonce := p.nonce } = p ∧
      ∀ j < 4, p'.nonce.extractLsb' (64 * j) 64 = if j = i then v else p.nonce.extractLsb' (64 * j) 64) ∧
    (∀ i < 16, ∀ v, ∃ p', exec (.packagePageWrite (0x320 + 8 * i) v) s = .next (as p') ∧ { p' with gtable := p.gtable } = p ∧
      ∀ j < 16, p'.gtable.extractLsb' (64 * j) 64 = if j = i then v else p.gtable.extractLsb' (64 * j) 64) ∧
    (∀ v : Word, exec (.packagePageWrite 0x200 v) s = exec (.hostDoorbell (v.toNat % 65536) (v.toNat / 65536 % 8)) s) ∧
    (∀ off v, 0x100 ≤ off → off < 0x140 → p.jobState = 1 ∨ p.jobState = 2 ∨ p.jobState = 4 →
      exec (.packagePageWrite off v) s = .next s) ∧
    (∀ i < 8, ∀ v : Word, 1 ≤ i ∨ v.getLsbD 63 = false → ¬ (p.jobState = 1 ∨ p.jobState = 2 ∨ p.jobState = 4) →
      ∃ p', exec (.packagePageWrite (0x100 + 8 * i) v) s = .next (as p') ∧ { p' with job := p.job } = p ∧
        ∀ k < 512, p'.job.getLsbD k = if k / 64 = i ∧ (63 ≤ k ∧ k < 124 ∨ 301 ≤ k) then v.getLsbD (k % 64) else p.job.getLsbD k) ∧
    (∀ v, p.cmdBusy = true ∨ p.ready.getLsbD 0 = false → exec (.packagePageWrite 0x300 v) s = .next s) ∧
    (∀ v : Word, p.cmdBusy = false → p.ready.getLsbD 0 = true →
      v.toNat % 256 = 0 ∨ 4 < v.toNat % 256 ∨ v.toNat / 2 ^ 16 % 2 ^ 16 ≠ 0 ∨ (v.toNat % 256 ≠ 2 ∧ v.toNat / 256 % 256 ≠ 0) ∨
        (v.toNat % 256 = 2 ∧ 24 ≤ v.toNat / 256 % 256) ∨ (v.toNat % 256 ≠ 2 ∧ p.jobState ≠ 2) →
      exec (.packagePageWrite 0x300 v) s = .next (as { p with command := v, cmdStatus := BitVec.ofNat 64 (v.toNat / 2 ^ 32 * 2 ^ 32 + v.toNat % 256 * 256 + 1) })) ∧
    (∀ v, p.attesting = true ∨ p.ready.getLsbD 32 = false → exec (.packagePageWrite 0x5F8 v) s = .next s) ∧
    (p.attesting = false → p.ready.getLsbD 32 = true →
      exec (.packagePageWrite 0x5F8 1) s = .next ((as { p with mailStatus := 1, attesting := true }).scheduleFree phaseAccess .attestReport) ∧
      exec (.packagePageWrite 0x5F8 3) s =
        .next ((as { p with mailStatus := 3, attesting := true }).scheduleFree phaseAccess .attestCertificate)) ∧
    (let mail (status : Word) (e : Instr) (bytes len : Nat) (first : Nat) (n : Nat) : Prop :=
       p.attesting = true → p.mailStatus = status →
         (bufferRefused s = true → exec e s = .next (as { p with mailStatus := 4, attesting := false })) ∧
         (bufferRefused s = false → ∃ s', exec e s = .next s' ∧ OnlyAt s s' (.hbm p.buffer.toNat) bytes ∧
           Holds s' p.buffer.toNat n first ∧ s'.pkg = { p with mailStatus := 2, outLen := BitVec.ofNat 64 len, attesting := false })
     mail 1 .attestReport 3520 3509 p.nonce.toNat 32 ∧ mail 3 .attestCertificate 5312 5285 5285 8) ∧
    (p.job.getLsbD 63 = false ∨ p.jobState = 1 ∨ p.jobState = 2 ∨ p.jobState = 4 → exec .jobRecordTake s = .next s) ∧
    (p.job.getLsbD 63 = true → ¬ (p.jobState = 1 ∨ p.jobState = 2 ∨ p.jobState = 4) → p.ready.getLsbD 31 = true →
      ∃ s', exec .jobRecordTake s = .next s' ∧ s'.pkg.job.getLsbD 63 = false ∧ s'.pkg.rank = p.jobField 112 12 ∧ s'.pkg.root = p.jobField 64 48 ∧
        (∀ i, 24 ≤ i → i ≠ 63 → s'.pkg.job.getLsbD i = p.job.getLsbD i) ∧
        (s'.pkg.jobState = 3 ∧ s'.pkg.jobField 16 8 ≠ 0 ∨
          s'.pkg.jobState = 2 ∧ s'.pkg.jobField 16 8 = 0 ∧ s'.pkg.dispatcher = some ⟨p.jobField 304 16, p.jobField 301 3⟩)) ∧
    (p.jobState ≠ 4 → exec .endJob s = .next s) ∧
    (p.jobState = 4 → s.regions = [] → s.launches = [] → s.dies.all (fun d => d.2.dumps.isEmpty) = true →
      s.clusters.all (fun c => c.2.engine.isEmpty) = true → ∃ s', exec .endJob s = .next s' ∧ SameMemory s s' ∧ s'.pkg.jobState = 5 ∧
        s'.pkg.jobField 16 8 = p.jobField 16 8 ∧ s'.pkg.dispatcher = none ∧ s'.pkg.cmdBusy = false ∧ s'.pkg.keys = [] ∧
        s'.pkg.cmdStatus = BitVec.ofNat 64 (p.command.toNat / 2 ^ 32 * 2 ^ 32 + p.command.toNat % 256 * 256)) ∧
    (let ended (result : Nat) (p : Pkg) : Pkg := { p with
       cmdBusy := false, cmdStatus := BitVec.ofNat 64 (p.command.toNat / 2 ^ 32 * 2 ^ 32 + p.command.toNat % 256 * 256 + result) }
     let publishes (i : Instr) (result : Nat) (p : Pkg) : Prop :=
       ∃ s', exec i s = .next s' ∧ s'.pkg = { p with ending := some result } ∧ Pending s s' .mapPublished
     (∀ n, p.ending = some n → ∃ s', execMapPublished s = .next s' ∧ s'.pkg = ended n { p with ending := none }) ∧
     (p.ending = none → execMapPublished s = .next (if s.mapChange.getLsbD 0 then publishNow s else s)) ∧
     (∀ i trained, ¬ (p.cmdBusy = true ∧ p.ending = none ∧ p.cmd = 2 ∧ p.cmdArg = i) → exec (.trainPort i trained) s = .next s) ∧
     (∀ i < 24, p.cmdBusy = true → p.ending = none → p.cmd = 2 → p.cmdArg = i →
       let port := p.ports[i]?.getD {}
       (∀ n, publishes (.trainPort i (some n)) 0 { p with ports := p.ports.setIfInBounds i { port with state := 3, latency := n } }) ∧
       publishes (.trainPort i none) 2 { p with ports := p.ports.setIfInBounds i { port with state := 1 } }) ∧
     (∀ a b c d, p.cmdBusy = true → p.ending = none → p.cmd = 3 → exec (.formGroup false a b c d) s = .next (as (ended 2 p))) ∧
     (∀ (n i deepest farthest depth parent child : Nat), p.cmdBusy = true → p.ending = none → p.cmd = 3 → n ≤ 64 → i < n → p.rank < 4096 →
       (∀ k < 64, p.gtable.toNat / 2 ^ (16 * k) % 65536 = 0xFFFF ↔ n ≤ k) →
       (∀ k < n, p.gtable.toNat / 2 ^ (16 * k) % 65536 = p.rank ↔ k = i) →
       let own := if i = 0 then 0 else depth
       ∃ time, publishes (.formGroup true ⟨deepest, farthest⟩ depth parent child) 0 { p with
         gsize := n, gindex := i, gformed := p.gtable, sgroup := 2 + 2 * max deepest own + 2 * max farthest (linkDistance s), tdepth := own
         tparent := if i = 0 then 0xFFFF else parent, tchild := BitVec.ofNat 24 child, gtime := time, tokens := [], aborted := [], wanted := [] }) ∧
     (p.cmdBusy = true → p.ending = none → p.cmd = 4 → publishes .leaveGroup 0 { p with
       gsize := 1, gindex := 0, gformed := ones 1024, sgroup := 0, tdepth := 0, tparent := 0xFFFF, tchild := 0, tokens := [], aborted := []
       wanted := [] })))

/-- O59. (15 R355, R373, 16 R375, R383) the controller moves m by one, between 16 and 32, as the power asks, and the clock stands still
until it ends; at m = 16 the coolant's limit is device fatal; a port without lock and a failed lane take what they serve down. (14 R341 to
R343, R348 to R354) the die's writer puts the head of a tile's buffer into its ring while it has room, at most one record in two cycles; a
counter that wraps sets input 5; a dump takes the next bytes of its area; a watchdog that expires traps its thread, and the second time is
device fatal; the debug interface stops, resumes, writes and reads a stopped thread, and reads a lock table. -/
def Obligations.ClockTraceAndDebugEvents : Prop :=
  (∀ (s : State),
    let p := s.pkg
    let turned (m : Nat) : State := { s with
      pkg := { p with m := m, capped := decide (m < 32), stopped := true }, todo := s.todo ++ [.event .clockStopEnd] }
    (∀ mw, p.gsize ≤ 1 →
      (4400000 < mw → 16 < p.m → exec (.powerSample mw) s = .next (turned (p.m - 1))) ∧
      (mw < 4200000 → p.m < 32 → exec (.powerSample mw) s = .next (turned (p.m + 1))) ∧
      ((4200000 ≤ mw ∧ mw ≤ 4400000 ∨ 4400000 < mw ∧ p.m ≤ 16 ∨ mw < 4200000 ∧ 32 ≤ p.m) → exec (.powerSample mw) s = .next s)) ∧
    (∀ mw, 2 ≤ p.gsize → p.m = 16 → 4400000 < mw → ∃ s', exec (.powerSample mw) s = .next s' ∧ { s'.pkg with tokens := p.tokens } = { p with fatal := true }) ∧
    (∀ m, exec (.groupClockChange m) s =
      let t := if m = p.m then s else turned m
      .next (if p.gindex = 0 ∧ p.wanted ≠ [] then decideClock t else t)) ∧
    exec .clockStopEnd s = .next { s with pkg := { p with stopped := false } } ∧
    (p.m ≠ 16 → exec .coolantTemperatureLimit s = .next s) ∧
    (p.m = 16 → ∃ s', exec .coolantTemperatureLimit s = .next s' ∧
      { s'.pkg with tokens := p.tokens } = { p with thermal := true, fatal := true }) ∧
    (∀ i, ∀ e ∈ [Instr.portLossOfLock i, .laneFailure (.port i)],
      let port := p.ports[i]?.getD {}
      (port.state = 0 → exec e s = .next s) ∧
      (port.state ≠ 0 → ∃ s', exec e s = .next s' ∧ s'.pkg = { p with ports := p.ports.setIfInBounds i { port with state := 1 } } ∧
        Pending s s' .mapPublished)) ∧
    (∀ c h, exec (.laneFailure (.crossing c h)) s = .next { s with pkg := { p with
      severed := p.severed ++ [(c, h)] ++ (match neighbour c (BitVec.ofNat 2 h) with
        | some d => [(d, 3 - h)]
        | none => []) } }) ∧
    ∀ ch, exec (.laneFailure (.channel ch)) s = .next { s with pkg := { p with dead := p.dead ++ [ch] } }) ∧
  (∀ (s : State),
    (∀ die tile, (s.tile tile).trace = [] → exec (.traceRingWrite die tile) s = .next s) ∧
    (∀ die tile r rest, (s.tile tile).trace = r :: rest → die < 8 →
      let base := reserveBase + 0x4000000 + die * 0x1000000
      let h := (s.granule (.hbm base)).data.toNat
      let written := h % 2 ^ 64
      let consumed := h / 2 ^ 128 % 2 ^ 64
      (written - consumed < 524160 → s.hbmShut (.hbm base) = false →
        (s.cycle < (s.die die).writer → exec (.traceRingWrite die tile) s =
          .next (s.schedule (s.die die).writer phaseAccess (.traceRingWrite die tile))) ∧
        ((s.die die).writer ≤ s.cycle → (s.tile tile).traceLost = 0 → ∃ s', exec (.traceRingWrite die tile) s = .next s' ∧
          s'.granule (.hbm (base + 32 * (128 + written % 524160))) = sealed r 0 ∧
          s'.granule (.hbm base) = sealed (BitVec.ofNat 256 ((written + 1) % 2 ^ 64 + 524160 * 2 ^ 64 + consumed * 2 ^ 128)) 0 ∧
          s'.tile tile = { s.tile tile with trace := rest } ∧ (s'.die die).writer = s.cycle + 2 ∧
          ∀ a, (a < base ∨ base + 32 ≤ a) →
            (a < base + 32 * (128 + written % 524160) ∨ base + 32 * (129 + written % 524160) ≤ a) → s'.byte a = s.byte a)) ∧
      (524160 ≤ written - consumed ∨ s.hbmShut (.hbm base) = true → ∃ s', exec (.traceRingWrite die tile) s = .next s' ∧
        SameMemory s s' ∧ s'.tiles = s.tiles ∧ Pending s s' (.traceRingWrite (tile / 5120) tile))) ∧
    (∀ tile n t, s.thread ⟨tile, ((s.tile tile).pmcSel[n]?.getD 0).toNat / 2 ^ 59 % 8⟩ = some t →
      exec (.counterWrap tile n) s =
        .next (s.setThread ⟨tile, ((s.tile tile).pmcSel[n]?.getD 0).toNat / 2 ^ 59 % 8⟩ { t with ipend := t.ipend ||| 32 })) ∧
    (∀ die, s.hbmShut (.hbm (dumpBase die)) = true → exec (.dump die) s = .next (s.schedule (s.cycle + 1) phaseAccess (.dump die))) ∧
    (∀ die, s.hbmShut (.hbm (dumpBase die)) = false → (s.die die).lost = 0 → (s.die die).dumps = [] → exec (.dump die) s = .next s) ∧
    (∀ die d rest t, s.hbmShut (.hbm (dumpBase die)) = false → die < 8 → (s.die die).lost = 0 → (s.die die).dumps = d :: rest →
      d.kind = 0 → d.thread = none → s.thread d.who = some t → (s.tile d.who.tile).trace.length < 16 →
      let base := reserveBase + 0x10000000 + die * 0x2000000
      let h := (s.granule (.hbm base)).data.toNat
      let next := max 32 (h % 2 ^ 64)
      let body := saveGranules t none
      next % 32 = 0 → next + 64 + 32 * body.length ≤ 0x2000000 → ∃ s', exec (.dump die) s = .next s' ∧
        (s'.die die).dumps = rest ∧ (∀ i < body.length, some (s'.granule (.hbm (base + next + 64 + 32 * i))) = body[i]?.map (sealed · 0)) ∧
        s'.granule (.hbm base) = sealed (BitVec.ofNat 256 (next + 64 + 32 * body.length + (h / 2 ^ 64 % 2 ^ 64 + 1) % 2 ^ 64 * 2 ^ 64 +
          h / 2 ^ 128 % 2 ^ 64 * 2 ^ 128)) 0 ∧
        (∀ a, (a < base ∨ base + 32 ≤ a) → (a < base + next ∨ base + next + 64 + 32 * body.length ≤ a) → s'.byte a = s.byte a) ∧
        Pending s s' (.threadFatal d.who)) ∧
    (∀ die n v, exec (.watchdogWrite die n v) s =
      .next (s.modDie die fun d => { d with dogs := d.dogs.setIfInBounds n { word := v &&& 0x83FFFFFFFFFFFFFF, count := 0, expired := false } })) ∧
    (∀ die n,
      let g := (s.die die).dogs[n]?.getD {}
      let w : Who := ⟨g.word.toNat / 2 ^ 42 % 65536, g.word.toNat / 2 ^ 39 % 8⟩
      (g.word.getLsbD 63 = false → exec (.watchdogExpiry die n) s = .next s) ∧
      (∀ t, g.word.getLsbD 63 = true → g.expired = false → s.thread w = some t → exec (.watchdogExpiry die n) s = .next
        ((s.modDie die fun d => { d with dogs := d.dogs.setIfInBounds n { g with count := 0, expired := true } }).setThread w { t with
          asyncs := t.asyncs ++ [{ code := 0x16, info := BitVec.ofNat 64 n, epc := 0, fpc := 0 }] })) ∧
      (g.word.getLsbD 63 = true → g.expired = true ∨ s.thread w = none → ∃ s', exec (.watchdogExpiry die n) s = .next s' ∧
        { s'.pkg with tokens := s.pkg.tokens } = { s.pkg with fatal := true } ∧ SameMemory s s')) ∧
    (∀ w, s.thread w = none → (∀ id, exec (.debugStopSlot w id) s = .next s) ∧ exec (.debugResume w) s = .next s ∧
      ∀ r v, exec (.debugRegisterWrite w r v) s = .next s) ∧
    (∀ w t, s.thread w = some t → t.halted = none →
      (∀ id, exec (.debugStopSlot w id) s = .next (s.setThread w { t with halted := some (id.map (BitVec.ofNat 12)) })) ∧
      exec (.debugResume w) s = .next s ∧ ∀ r v, exec (.debugRegisterWrite w r v) s = .next s) ∧
    (∀ w t id, s.thread w = some t → t.halted = some id →
      let put (t' : Thread) : State := s.setThread w t'
      (∀ id', exec (.debugStopSlot w id') s = .next s) ∧
      let resumed : Thread := { t with halted := none, debugMode := none, status := { t.status with mode := t.debugMode.getD t.status.mode } }
      (id = none → exec (.debugResume w) s = .next (put resumed)) ∧
      (∀ n, id = some n → exec (.debugResume w) s = .next (put { resumed with
        asyncs := t.asyncs ++ [{ code := 0x14, info := n.setWidth 64, epc := 0, fpc := 0 }] })) ∧
      ∀ v : Vec,
        exec (.debugRegisterWrite w .pc v) s = .next (put { t with pc := BitVec.ofNat 15 (v.toNat / 4 * 4), wait := none }) ∧
        (∀ n < 32, exec (.debugRegisterWrite w (.x n) v) s = .next (put (t.setX (BitVec.ofNat 5 n) (v.setWidth 64)))) ∧
        (∀ n, exec (.debugRegisterWrite w (.v n) v) s = .next (put (if n < t.window then t.setV n v else t))) ∧
        (∀ n < 8, exec (.debugRegisterWrite w (.k n) v) s = .next (put (t.setK (BitVec.ofNat 3 n) (v.setWidth 32)))) ∧
        (∀ n < 8, ∃ g : Seg, exec (.debugRegisterWrite w (.seg n) v) s = .next (put (t.setSeg (BitVec.ofNat 3 n) g)) ∧
          g = segValue (v.setWidth 64) ((v >>> 64).setWidth 64)) ∧
        (∀ n < 8, exec (.debugRegisterWrite w (.gen n) v) s = .next (put { t with gen := t.gen.setIfInBounds n (v.setWidth 32) })) ∧
        (v.toNat % 4 ≠ 2 → v.toNat / 4 % 4 ≠ 2 → ∃ t', exec (.debugRegisterWrite w (.cr 0) v) s = .next (put t') ∧
          t'.debugMode = some (BitVec.ofNat 2 v.toNat) ∧ t'.status.mode = t.status.mode ∧ t'.status.pmode = BitVec.ofNat 2 (v.toNat / 4) ∧
          t'.status.ie = v.getLsbD 4)) ∧
    (let answered (x : Answer) : Result := .next { s with answers := s.answers ++ [x] }
     (∀ w r, (∀ t, s.thread w = some t → t.halted = none) → exec (.debugRegisterRead w r) s = .next s) ∧
     (∀ w t, s.thread w = some t → t.halted ≠ none →
       exec (.debugRegisterRead w .pc) s = answered (.thread w (BitVec.ofNat 256 t.pc.toNat)) ∧
       (∀ n, exec (.debugRegisterRead w (.x n)) s = answered (.thread w (BitVec.ofNat 256 (t.getX (BitVec.ofNat 5 n)).toNat))) ∧
       (∀ n, exec (.debugRegisterRead w (.v n)) s = answered (.thread w (if n < t.window then t.getV n else 0))) ∧
       ∀ n, exec (.debugRegisterRead w (.k n)) s = answered (.thread w (BitVec.ofNat 256 (t.getK (BitVec.ofNat 3 n)).toNat))) ∧
     ∀ tile n, let entry := (s.tile tile).locks.find? (·.1 = n)
       (entry = none → exec (.debugLockTableRead tile n) s = answered (.lock tile n 0)) ∧
       ∀ l : Lock, entry = some (n, l) → ∃ v : BitVec 128, exec (.debugLockTableRead tile n) s = answered (.lock tile n v) ∧
         v.toNat % 2 ^ 56 = l.first % 2 ^ 56 ∧ v.toNat / 2 ^ 56 % 2 ^ 56 = l.last % 2 ^ 56 ∧ v.extractLsb' 112 10 = l.ident ∧
         v.extractLsb' 122 2 = l.owner ∧ v.extractLsb' 124 2 = l.lock ∧ v.getLsbD 126 = l.virt ∧ v.getLsbD 127 = true))

/-- O60. (16 R381, R383, R387 to R391, R394 to R396, R399 to R401) a request of another package waits for its rank's entry, is refused
without effect, or acts on its local part; one that no answer comes for ends with its timeout; an answer ends what waits for it; a group's
tokens freeze, resume, halt, start and abandon regions and set the clock; the move service answers a request that names no page with
status 2. -/
def Obligations.FabricEvents : Prop :=
  ∀ (s : State),
    (∀ src tile slot va op,
      let e := s.rankEntry src
      let need : Nat := match op with
        | .load _ => 0 | .get _ => 0 | .atomic .. => 2 | _ => 1
      let allowed := e.toNat / 2 ^ 252 % 8 ≠ 0 ∧ (need = 0 → e.getLsbD 249 = true) ∧ (need = 1 → e.getLsbD 250 = true) ∧
        (need = 2 → e.getLsbD 250 = true ∧ e.getLsbD 251 = true)
      let at_ := match op with
        | .put [] flag => flag
        | _ => some va
      (at_ = none → exec (.remoteRequest src tile slot va op) s = .next s) ∧
      (at_ ≠ none → e.getLsbD 255 = false → exec (.remoteRequest src tile slot va op) s =
        .next (s.schedule (s.cycle + 1) phaseAccess (.remoteRequest src tile slot va op))) ∧
      (at_ ≠ none → e.getLsbD 255 = true → ¬ allowed → exec (.remoteRequest src tile slot va op) s = .next s) ∧
      ∀ data bytes tag n s1 s2 f, op = .store data bytes tag → e.getLsbD 255 = true → allowed → s.drawLatency = (n, s1) →
        forwardTo s1 (n % 2560) va = none → translateFor (n % 2560) va .write s1 = (.ok f, s2) → f.logged = false →
        (∀ off, f.loc ≠ .page off) → s2.busyAt f.loc = false →
        (refusesFar s2 f.loc true 1 = true → exec (.remoteRequest src tile slot va op) s = .next s2) ∧
        (refusesFar s2 f.loc true 1 = false → ∃ s', exec (.remoteRequest src tile slot va op) s = .next s' ∧
          OnlyAt s2 s' f.loc.granule 32 ∧ ∀ i < 32, bytes.getLsbD i = true → s'.byte (f.loc.granule.addr + i) = data.extractLsb' (8 * i) 8)) ∧
    (∀ mode src tile slot va op,
      (mode = 2 ∨ mode = 3 → exec (.ueReceive mode ⟨src, tile, slot⟩ va op) s =
        .next (s.schedule s.cycle phaseAccess (.remoteRequest src tile slot va op))) ∧
      (mode ≠ 2 → mode ≠ 3 → exec (.ueReceive mode ⟨src, tile, slot⟩ va op) s = .next s)) ∧
    (∀ a, s.access a.id = some a →
      (a.stage ≠ 2 ∨ (∀ rank va, a.loc ≠ some (.remote rank va)) → exec (.fabricTimeout a.id) s = .next s) ∧
      (∀ tok i rank va, a.kind = .granule tok i → a.stage = 2 → a.loc = some (.remote rank va) → exec (.fabricTimeout a.id) s =
        .next (failAccess a { code := 0x17, info := BitVec.ofNat 64 a.addr } s)) ∧
      (∀ data mask tag rank va, a.kind = .release data mask tag → a.loc = some (.remote rank va) → a.stage = 2 →
          exec (.fabricTimeout a.id) s = .next ((if (s.accessThread a).isSome then setInput a.who 7 s else s).dropAccess a.id) ∧
          exec (.remoteReplyArrival a.id .done) s = .next (s.dropAccess a.id) ∧
          exec (.remoteReplyArrival a.id .refused) s =
            .next ((if (s.accessThread a).isSome then setInput a.who 7 s else s).dropAccess a.id)) ∧
      ∀ rank va, a.loc = some (.remote rank va) →
        (∀ ans, a.stage ≠ 2 → exec (.remoteReplyArrival a.id ans) s = .next s) ∧
        (a.stage = 2 → ∀ tok op wide x y d, a.kind = .atomic tok op wide x y d →
          exec (.remoteReplyArrival a.id .refused) s = .next (failAccess a { code := 0x18, info := BitVec.ofNat 64 a.addr } s) ∧
          ∀ old fl, ∃ s', exec (.remoteReplyArrival a.id (.old old fl)) s = .next s' ∧ s'.access a.id = none ∧ SameMemory s s' ∧
            ∀ t, s.thread a.who = some t → ∀ o ∈ t.outst, o.tok = tok → ∃ t' v, s'.thread a.who = some t' ∧
              v = (if wide then old else BitVec.ofInt 64 (BitVec.ofNat 32 old.toNat).toInt) ∧
              { o with fin := .ready [.x d v, .flags fl, .fold 8 v] } ∈ t'.outst)) ∧
    (∀ id, s.access id = none → s.packet id = none → s.findOp id = none →
      exec (.fabricTimeout id) s = .next s ∧ ∀ ans, exec (.remoteReplyArrival id ans) s = .next s) ∧
    (let now (time : Nat) : Nat := max s.cycle (time - s.pkg.gtime)
     (∀ k, groupRegion s k = none → (∀ t, exec (.tokenArrival (.freeze k t)) s = .next s ∧ exec (.tokenArrival (.resume k t)) s = .next s ∧
         ∀ d, exec (.tokenArrival (.halt k t d)) s = .next s) ∧
       exec (.tokenArrival (.abort k)) s =
         .next (if k < s.pkg.regions then s else { s with pkg := { s.pkg with aborted := s.pkg.aborted ++ [k] } })) ∧
     (∀ k id r, groupRegion s k = some (id, r) → s.region id = some r →
       let as (r' : Region) : State := { s with regions := Tab.put s.regions id r' }
       (∀ t, exec (.tokenArrival (.freeze k t)) s = .next (as (if r.started = true ∧ r.halted = false then { r with
         freezes := r.freezes ++ [{ close := none, addr := 0, missing := 0, point := t + r.s, count := 0, timeout := 0 }] } else r))) ∧
       (∀ t, let stops := r.stopped ≠ none ∨ r.debugAt ≠ none
         let halts := r.haltAt ≠ none ∨ r.halted = true
         (halts → exec (.tokenArrival (.resume k t)) s = .next (as { r with resumeAt := some (now t) })) ∧
         (¬ halts → stops → exec (.tokenArrival (.resume k t)) s =
           .next ((as { r with debugEnd := some (now t) }).schedule (now t) phaseLand (.debugRegionResume id))) ∧
         (¬ halts → ¬ stops → exec (.tokenArrival (.resume k t)) s = .next (as { r with
           freezes := r.freezes.map fun f => if f.close = none ∧ f.until_ = none then { f with until_ := some t } else f }))) ∧
       (∀ t, (r.started = false → ∀ d, exec (.tokenArrival (.halt k t d)) s = .next s) ∧
         (r.started = true → r.rolled = false → ∃ s' r', exec (.tokenArrival (.halt k t false)) s = .next s' ∧ s'.region id = some r' ∧
           r'.haltAt = some (max r.cycle (min (t + r.s) (r.haltAt.getD (t + r.s)))) ∧ (r.fault = none → r'.fault = none) ∧
           (∀ f, r.fault = some f → r'.fault = if f.at_ ≤ t then some f else none) ∧ SameMemory s s') ∧
         (r.started = true → r.stopped = none → r.debugAt = none → exec (.tokenArrival (.halt k t true)) s =
           .next (as { r with debugAt := some (max r.cycle (t + r.s)) }))) ∧
       ∃ s', exec (.tokenArrival (.abort k)) s = .next s' ∧ s'.region id = none ∧ Pending s s' (.launchAbandon r.launch 4)) ∧
     (∀ index k time, exec (.tokenArrival (.ready index k time)) s =
       .next (startGroup { s with pkg := { s.pkg with tokens := s.pkg.tokens ++ [(index, k, time)] } })) ∧
     ∀ member m time,
       (s.pkg.gindex ≠ 0 → exec (.tokenArrival (.clock member m time)) s = .next (s.schedule (now time) phaseLand (.groupClockChange m))) ∧
       (s.pkg.gindex = 0 → exec (.tokenArrival (.clock member m time)) s = .next (decideClock { s with
         pkg := { s.pkg with wanted := s.pkg.wanted.filter (·.1 ≠ member) ++ [(member, m)] } }))) ∧
    (let head := s.mem.readN moveRing 8
     let tail := s.mem.readN (moveRing + 8) 8
     (head ≤ tail → exec .pageMove s = .next s) ∧
     ∀ h v e, tail < head → Sound s (.hbm moveRing) h → Sound s (.hbm (moveRing + 128 * (1 + tail % 64) + 64)) v →
       let at_ := moveRing + 128 * (1 + tail % 64)
       let va := (s.granule (.hbm at_)).data.toNat % 2 ^ 56
       pagePending s va = false → walkFrom s (va % 2 ^ 44) 4 s.pkg.root = .error e →
       ∃ s', exec .pageMove s = .next s' ∧ Holds s' (at_ + 72) 8 (2 ^ 63 + 2) ∧ Holds s' (moveRing + 8) 8 (tail + 1) ∧
         ∀ a, (a < at_ + 72 ∨ at_ + 80 ≤ a) → (a < moveRing + 8 ∨ moveRing + 16 ≤ a) → s'.byte a = s.byte a)
end

