-- ==== Sys2Proof/Laws/Table.lean ====
section
/-! SUPPORT. Tables and memories: reading after writing, and the canonical form that every memory operation keeps. -/

namespace Sys2Proof.Machine

/-! Reading after writing -/

theorem Tab.erase_cons {α : Type} (p : Nat × α) (t : Tab α) (k : Nat) :
    Tab.erase (p :: t) k = if p.1 = k then Tab.erase t k else p :: Tab.erase t k := by
  by_cases h : p.1 = k <;> simp [Tab.erase, h]

theorem Tab.get_cons {α : Type} (d : α) (p : Nat × α) (t : Tab α) (k : Nat) :
    Tab.get d (p :: t) k = if p.1 = k then p.2 else Tab.get d t k := rfl

theorem Tab.get_erase_self {α : Type} (d : α) (t : Tab α) (k : Nat) : Tab.get d (Tab.erase t k) k = d := by
  induction t with
  | nil => rfl
  | cons p t ih => rw [Tab.erase_cons]; split <;> simp_all [Tab.get_cons]

theorem Tab.get_erase_ne {α : Type} (d : α) (t : Tab α) {k j : Nat} (h : j ≠ k) :
    Tab.get d (Tab.erase t k) j = Tab.get d t j := by
  induction t with
  | nil => rfl
  | cons p t ih =>
    rw [Tab.erase_cons, Tab.get_cons]
    split
    · rw [ih, if_neg (by omega)]
    · rw [Tab.get_cons, ih]

theorem Tab.get_insert_self {α : Type} (d : α) (t : Tab α) (k : Nat) (v : α) (h : ∀ p ∈ t, p.1 ≠ k) :
    Tab.get d (Tab.insert t k v) k = v := by
  induction t with
  | nil => simp [Tab.insert, Tab.get]
  | cons p t ih =>
    have hp := h p (List.mem_cons_self ..)
    simp only [Tab.insert]
    split
    · simp [Tab.get]
    · simpa [Tab.get, hp] using ih fun q hq => h q (List.mem_cons_of_mem _ hq)

theorem Tab.get_insert_ne {α : Type} (d : α) (t : Tab α) {k j : Nat} (v : α) (h : j ≠ k) :
    Tab.get d (Tab.insert t k v) j = Tab.get d t j := by
  induction t with
  | nil => simp [Tab.insert, Tab.get, Ne.symm h]
  | cons p t ih =>
    simp only [Tab.insert]
    split
    · simp [Tab.get, Ne.symm h]
    · rw [Tab.get_cons, Tab.get_cons, ih]

theorem Tab.erase_ne {α : Type} (t : Tab α) (k : Nat) : ∀ p ∈ Tab.erase t k, p.1 ≠ k := by
  intro p hp
  simpa using (List.mem_filter.mp hp).2

/-- A table reads what was put last. -/
theorem Tab.get_put {α : Type} (d : α) (t : Tab α) (k j : Nat) (v : α) :
    Tab.get d (Tab.put t k v) j = if j = k then v else Tab.get d t j := by
  by_cases h : j = k
  · subst h
    simpa [Tab.put] using Tab.get_insert_self d _ _ v (Tab.erase_ne t j)
  · simpa [h, Tab.put, Tab.get_insert_ne d _ v h] using Tab.get_erase_ne d t h

theorem Tab.erase_insert {α : Type} (t : Tab α) (k : Nat) (v : α) (h : ∀ p ∈ t, p.1 ≠ k) :
    Tab.erase (Tab.insert t k v) k = t := by
  induction t with
  | nil => simp [Tab.insert, Tab.erase]
  | cons p t ih =>
    have ht : ∀ q ∈ t, q.1 ≠ k := fun q hq => h q (List.mem_cons_of_mem _ hq)
    have hp : p.1 ≠ k := h p List.mem_cons_self
    have he : t.filter (fun q => decide (q.1 ≠ k)) = t := List.filter_eq_self.mpr fun q hq => decide_eq_true (ht q hq)
    unfold Tab.insert
    split
    · simp only [Tab.erase, List.filter_cons, decide_eq_true hp, if_true, ne_eq, not_true_eq_false, decide_false,
        Bool.false_eq_true, if_false]
      rw [he]
    · rw [Tab.erase_cons, ih ht]; simp [hp]

/-- Of two writes of one entry the later stands. -/
theorem Tab.put_put {α : Type} (t : Tab α) (k : Nat) (v v' : α) : Tab.put (Tab.put t k v) k v' = Tab.put t k v' := by
  unfold Tab.put
  rw [Tab.erase_insert _ _ _ (Tab.erase_ne t k)]

theorem Tab.get_putD {α : Type} [DecidableEq α] (d : α) (t : Tab α) (k j : Nat) (v : α) :
    Tab.get d (Tab.putD d t k v) j = if j = k then v else Tab.get d t j := by
  by_cases hv : v = d
  · by_cases h : j = k
    · subst h; simp [Tab.putD, hv, Tab.get_erase_self]
    · simp [Tab.putD, hv, h, Tab.get_erase_ne d t h]
  · simp [Tab.putD, hv, Tab.get_put]

/-! Memory -/

@[simp] theorem Memory.read_write (m : Memory) (a b : Nat) (v : Byte) :
    (m.write a v).read b = if b = a then v else m.read b := Tab.get_putD ..

/-- n bytes written: the bytes outside them read as before. -/
theorem Memory.read_writeN_outside (m : Memory) (a v n : Nat) (b : Nat) (h : b < a ∨ a + n ≤ b) :
    (m.writeN a v n).read b = m.read b := by
  induction n generalizing m a v with
  | zero => rfl
  | succ n ih =>
    rw [Memory.writeN, ih _ _ _ (by omega), Memory.read_write, if_neg (by omega)]

/-- n bytes written: byte i of them is byte i of the value. -/
theorem Memory.read_writeN_inside (m : Memory) (a v n i : Nat) (h : i < n) :
    (m.writeN a v n).read (a + i) = BitVec.ofNat 8 (v / 256 ^ i) := by
  induction n generalizing m a v i with
  | zero => omega
  | succ n ih =>
    cases i with
    | zero =>
      rw [Memory.writeN, Memory.read_writeN_outside _ _ _ _ _ (by omega)]
      simp
    | succ i =>
      have := ih (m.write a (BitVec.ofNat 8 v)) (a + 1) (v / 256) i (by omega)
      rw [Memory.writeN, show a + (i + 1) = a + 1 + i by omega, this, Nat.pow_succ', Nat.div_div_eq_div_mul]

/-! The canonical form -/

/-- A table whose keys rise strictly and that lists no default. -/
abbrev Tab.wf {α : Type} (d : α) (t : Tab α) : Prop := t.Pairwise (fun a b => a.1 < b.1) ∧ ∀ p ∈ t, p.2 ≠ d

theorem Tab.wf_erase {α : Type} {d : α} {t : Tab α} (k : Nat) (h : Tab.wf d t) : Tab.wf d (Tab.erase t k) :=
  ⟨h.1.sublist List.filter_sublist, fun p hp => h.2 p (List.mem_filter.mp hp).1⟩

theorem Tab.mem_insert {α : Type} {t : Tab α} {k : Nat} {v : α} {p : Nat × α} (h : p ∈ Tab.insert t k v) :
    p = (k, v) ∨ p ∈ t := by
  induction t with
  | nil => simpa [Tab.insert] using h
  | cons q t ih =>
    simp only [Tab.insert] at h
    split at h
    · simpa using h
    · rcases List.mem_cons.mp h with h | h
      · exact .inr (h ▸ List.mem_cons_self ..)
      · exact (ih h).imp_right (List.mem_cons_of_mem _)

theorem Tab.wf_insert {α : Type} {d : α} {t : Tab α} {k : Nat} {v : α} (h : Tab.wf d t) (hk : ∀ p ∈ t, p.1 ≠ k) (hv : v ≠ d) :
    Tab.wf d (Tab.insert t k v) := by
  refine ⟨?_, fun p hp => (Tab.mem_insert hp).elim (fun e => e ▸ hv) (h.2 p)⟩
  have h1 := h.1
  clear h
  induction t with
  | nil => simp [Tab.insert]
  | cons q t ih =>
    rw [List.pairwise_cons] at h1
    have hq := hk q (List.mem_cons_self ..)
    simp only [Tab.insert]
    split
    · rename_i hlt
      refine List.pairwise_cons.mpr ⟨fun p hp => ?_, List.pairwise_cons.mpr h1⟩
      rcases List.mem_cons.mp hp with e | hp
      · exact e ▸ hlt
      · exact Nat.lt_trans hlt (h1.1 p hp)
    · refine List.pairwise_cons.mpr ⟨fun p hp => ?_, ih (fun p hp => hk p (List.mem_cons_of_mem _ hp)) h1.2⟩
      rcases Tab.mem_insert hp with e | hp
      · subst e; simp only; omega
      · exact h1.1 p hp

/-- Putting an entry, or the default, keeps the canonical form. -/
theorem Tab.wf_putD {α : Type} [DecidableEq α] {d : α} {t : Tab α} (k : Nat) (v : α) (h : Tab.wf d t) :
    Tab.wf d (Tab.putD d t k v) := by
  unfold Tab.putD
  split
  · exact Tab.wf_erase k h
  · exact Tab.wf_insert (Tab.wf_erase k h) (Tab.erase_ne t k) ‹_›

theorem Tab.wf_filter {α : Type} {d : α} {t : Tab α} (p : Nat × α → Bool) (h : Tab.wf d t) : Tab.wf d (t.filter p) :=
  ⟨h.1.sublist List.filter_sublist, fun q hq => h.2 q (List.mem_filter.mp hq).1⟩

/-- Writing a byte keeps the canonical form of memory. -/
theorem Memory.wf_write {m : Memory} (a : Nat) (b : Byte) (h : m.wf) : (m.write a b).wf := Tab.wf_putD a b h

/-- Writing n bytes keeps it. -/
theorem Memory.wf_writeN {m : Memory} (a v n : Nat) (h : m.wf) : (m.writeN a v n).wf := by
  induction n generalizing m a v with
  | zero => exact h
  | succ n ih => exact ih _ _ (Memory.wf_write _ _ h)

/-- Two canonical tables that read alike are the same table. -/
theorem Tab.ext_wf {α : Type} {d : α} {t u : Tab α} (ht : Tab.wf d t) (hu : Tab.wf d u)
    (h : ∀ k, Tab.get d t k = Tab.get d u k) : t = u := by
  induction t generalizing u with
  | nil =>
    cases u with
    | nil => rfl
    | cons q u => exact absurd (by simpa [Tab.get] using (h q.1).symm) (hu.2 q (List.mem_cons_self ..))
  | cons p t ih =>
    cases u with
    | nil => exact absurd (by simpa [Tab.get] using h p.1) (ht.2 p (List.mem_cons_self ..))
    | cons q u =>
      have low {r : Nat × α} {l : Tab α} (hl : (r :: l).Pairwise (fun a b => a.1 < b.1)) {k : Nat} (hk : k < r.1) :
          Tab.get d (r :: l) k = d := by
        have all : ∀ x ∈ r :: l, k < x.1 := fun x hx => by
          rcases List.mem_cons.mp hx with e | hx
          · exact e ▸ hk
          · exact Nat.lt_trans hk ((List.pairwise_cons.mp hl).1 x hx)
        clear hk hl
        generalize r :: l = m at all
        induction m with
        | nil => rfl
        | cons x m ih =>
          have := all x (List.mem_cons_self ..)
          simpa [Tab.get, show x.1 ≠ k by omega] using ih fun y hy => all y (List.mem_cons_of_mem _ hy)
      have hp := ht.2 p (List.mem_cons_self ..)
      have hq := hu.2 q (List.mem_cons_self ..)
      have key : p.1 = q.1 := by
        rcases Nat.lt_trichotomy p.1 q.1 with hlt | e | hlt
        · exact absurd ((by simp [Tab.get] : Tab.get d (p :: t) p.1 = p.2) ▸ (h p.1).trans (low hu.1 hlt)) hp
        · exact e
        · exact absurd ((by simp [Tab.get] : Tab.get d (q :: u) q.1 = q.2) ▸ (h q.1).symm.trans (low ht.1 hlt)) hq
      have val : p.2 = q.2 := by simpa [Tab.get, key] using h q.1
      have e : p = q := Prod.ext key val
      subst e
      refine congrArg _ (ih ⟨ht.1.of_cons, fun x hx => ht.2 x (List.mem_cons_of_mem _ hx)⟩
        ⟨hu.1.of_cons, fun x hx => hu.2 x (List.mem_cons_of_mem _ hx)⟩ fun k => ?_)
      by_cases hk : p.1 = k
      · have miss {l : Tab α} (hl : (p :: l).Pairwise (fun a b => a.1 < b.1)) : Tab.get d l k = d := by
          have all : ∀ x ∈ l, x.1 ≠ k := fun x hx => by have := (List.pairwise_cons.mp hl).1 x hx; omega
          clear hl
          induction l with
          | nil => rfl
          | cons x l ih =>
            simpa [Tab.get, all x (List.mem_cons_self ..)] using ih fun y hy => all y (List.mem_cons_of_mem _ hy)
        rw [miss ht.1, miss hu.1]
      · simpa [Tab.get, hk] using h k

/-- Canonical memories that read alike are equal data. -/
theorem Memory.ext_wf {m n : Memory} (hm : m.wf) (hn : n.wf) (h : ∀ a, m.read a = n.read a) : m = n := Tab.ext_wf hm hn h

end Sys2Proof.Machine
end

