-- ==== Sys2Proof/Laws/State.lean ====
section
/-! SUPPORT. What each update of the state leaves alone, a lemma a field, and what the tiles, slots and threads read as after
one. -/

namespace Sys2Proof.Machine

/-! One lemma per field per update -/

@[simp] theorem State.setTile_cycle (s : State) (n : Nat) (t : Tile) : (s.setTile n t).cycle = s.cycle := rfl
@[simp] theorem State.setTile_mem (s : State) (n : Nat) (t : Tile) : (s.setTile n t).mem = s.mem := rfl
@[simp] theorem State.setTile_seals (s : State) (n : Nat) (t : Tile) : (s.setTile n t).seals = s.seals := rfl
@[simp] theorem State.setTile_clusters (s : State) (n : Nat) (t : Tile) : (s.setTile n t).clusters = s.clusters := rfl
@[simp] theorem State.setTile_channels (s : State) (n : Nat) (t : Tile) : (s.setTile n t).channels = s.channels := rfl
@[simp] theorem State.setTile_dies (s : State) (n : Nat) (t : Tile) : (s.setTile n t).dies = s.dies := rfl
@[simp] theorem State.setTile_pkg (s : State) (n : Nat) (t : Tile) : (s.setTile n t).pkg = s.pkg := rfl
@[simp] theorem State.setTile_accs (s : State) (n : Nat) (t : Tile) : (s.setTile n t).accs = s.accs := rfl
@[simp] theorem State.setTile_deliveries (s : State) (n : Nat) (t : Tile) : (s.setTile n t).deliveries = s.deliveries := rfl
@[simp] theorem State.setTile_launches (s : State) (n : Nat) (t : Tile) : (s.setTile n t).launches = s.launches := rfl
@[simp] theorem State.setTile_regions (s : State) (n : Nat) (t : Tile) : (s.setTile n t).regions = s.regions := rfl
@[simp] theorem State.setTile_posts (s : State) (n : Nat) (t : Tile) : (s.setTile n t).posts = s.posts := rfl
@[simp] theorem State.setTile_packets (s : State) (n : Nat) (t : Tile) : (s.setTile n t).packets = s.packets := rfl
@[simp] theorem State.setTile_pend (s : State) (n : Nat) (t : Tile) : (s.setTile n t).pend = s.pend := rfl
@[simp] theorem State.setTile_todo (s : State) (n : Nat) (t : Tile) : (s.setTile n t).todo = s.todo := rfl
@[simp] theorem State.setTile_hosts (s : State) (n : Nat) (t : Tile) : (s.setTile n t).hosts = s.hosts := rfl
@[simp] theorem State.setTile_answers (s : State) (n : Nat) (t : Tile) : (s.setTile n t).answers = s.answers := rfl
@[simp] theorem State.setTile_inputs (s : State) (n : Nat) (t : Tile) : (s.setTile n t).inputs = s.inputs := rfl
@[simp] theorem State.setTile_cur (s : State) (n : Nat) (t : Tile) : (s.setTile n t).cur = s.cur := rfl
@[simp] theorem State.setTile_draws (s : State) (n : Nat) (t : Tile) : (s.setTile n t).draws = s.draws := rfl
@[simp] theorem State.setTile_serial (s : State) (n : Nat) (t : Tile) : (s.setTile n t).serial = s.serial := rfl

@[simp] theorem State.modTile_cycle (s : State) (n : Nat) (f : Tile → Tile) : (s.modTile n f).cycle = s.cycle := rfl
@[simp] theorem State.modTile_mem (s : State) (n : Nat) (f : Tile → Tile) : (s.modTile n f).mem = s.mem := rfl
@[simp] theorem State.modTile_seals (s : State) (n : Nat) (f : Tile → Tile) : (s.modTile n f).seals = s.seals := rfl
@[simp] theorem State.modTile_clusters (s : State) (n : Nat) (f : Tile → Tile) : (s.modTile n f).clusters = s.clusters := rfl
@[simp] theorem State.modTile_channels (s : State) (n : Nat) (f : Tile → Tile) : (s.modTile n f).channels = s.channels := rfl
@[simp] theorem State.modTile_dies (s : State) (n : Nat) (f : Tile → Tile) : (s.modTile n f).dies = s.dies := rfl
@[simp] theorem State.modTile_pkg (s : State) (n : Nat) (f : Tile → Tile) : (s.modTile n f).pkg = s.pkg := rfl
@[simp] theorem State.modTile_accs (s : State) (n : Nat) (f : Tile → Tile) : (s.modTile n f).accs = s.accs := rfl
@[simp] theorem State.modTile_deliveries (s : State) (n : Nat) (f : Tile → Tile) : (s.modTile n f).deliveries = s.deliveries := rfl
@[simp] theorem State.modTile_launches (s : State) (n : Nat) (f : Tile → Tile) : (s.modTile n f).launches = s.launches := rfl
@[simp] theorem State.modTile_regions (s : State) (n : Nat) (f : Tile → Tile) : (s.modTile n f).regions = s.regions := rfl
@[simp] theorem State.modTile_posts (s : State) (n : Nat) (f : Tile → Tile) : (s.modTile n f).posts = s.posts := rfl
@[simp] theorem State.modTile_packets (s : State) (n : Nat) (f : Tile → Tile) : (s.modTile n f).packets = s.packets := rfl
@[simp] theorem State.modTile_pend (s : State) (n : Nat) (f : Tile → Tile) : (s.modTile n f).pend = s.pend := rfl
@[simp] theorem State.modTile_todo (s : State) (n : Nat) (f : Tile → Tile) : (s.modTile n f).todo = s.todo := rfl
@[simp] theorem State.modTile_hosts (s : State) (n : Nat) (f : Tile → Tile) : (s.modTile n f).hosts = s.hosts := rfl
@[simp] theorem State.modTile_answers (s : State) (n : Nat) (f : Tile → Tile) : (s.modTile n f).answers = s.answers := rfl
@[simp] theorem State.modTile_inputs (s : State) (n : Nat) (f : Tile → Tile) : (s.modTile n f).inputs = s.inputs := rfl
@[simp] theorem State.modTile_cur (s : State) (n : Nat) (f : Tile → Tile) : (s.modTile n f).cur = s.cur := rfl
@[simp] theorem State.modTile_draws (s : State) (n : Nat) (f : Tile → Tile) : (s.modTile n f).draws = s.draws := rfl
@[simp] theorem State.modTile_serial (s : State) (n : Nat) (f : Tile → Tile) : (s.modTile n f).serial = s.serial := rfl

@[simp] theorem State.setSlot_cycle (s : State) (w : Who) (sl : Slot) : (s.setSlot w sl).cycle = s.cycle := rfl
@[simp] theorem State.setSlot_mem (s : State) (w : Who) (sl : Slot) : (s.setSlot w sl).mem = s.mem := rfl
@[simp] theorem State.setSlot_seals (s : State) (w : Who) (sl : Slot) : (s.setSlot w sl).seals = s.seals := rfl
@[simp] theorem State.setSlot_clusters (s : State) (w : Who) (sl : Slot) : (s.setSlot w sl).clusters = s.clusters := rfl
@[simp] theorem State.setSlot_channels (s : State) (w : Who) (sl : Slot) : (s.setSlot w sl).channels = s.channels := rfl
@[simp] theorem State.setSlot_dies (s : State) (w : Who) (sl : Slot) : (s.setSlot w sl).dies = s.dies := rfl
@[simp] theorem State.setSlot_pkg (s : State) (w : Who) (sl : Slot) : (s.setSlot w sl).pkg = s.pkg := rfl
@[simp] theorem State.setSlot_accs (s : State) (w : Who) (sl : Slot) : (s.setSlot w sl).accs = s.accs := rfl
@[simp] theorem State.setSlot_deliveries (s : State) (w : Who) (sl : Slot) : (s.setSlot w sl).deliveries = s.deliveries := rfl
@[simp] theorem State.setSlot_launches (s : State) (w : Who) (sl : Slot) : (s.setSlot w sl).launches = s.launches := rfl
@[simp] theorem State.setSlot_regions (s : State) (w : Who) (sl : Slot) : (s.setSlot w sl).regions = s.regions := rfl
@[simp] theorem State.setSlot_posts (s : State) (w : Who) (sl : Slot) : (s.setSlot w sl).posts = s.posts := rfl
@[simp] theorem State.setSlot_packets (s : State) (w : Who) (sl : Slot) : (s.setSlot w sl).packets = s.packets := rfl
@[simp] theorem State.setSlot_pend (s : State) (w : Who) (sl : Slot) : (s.setSlot w sl).pend = s.pend := rfl
@[simp] theorem State.setSlot_todo (s : State) (w : Who) (sl : Slot) : (s.setSlot w sl).todo = s.todo := rfl
@[simp] theorem State.setSlot_hosts (s : State) (w : Who) (sl : Slot) : (s.setSlot w sl).hosts = s.hosts := rfl
@[simp] theorem State.setSlot_answers (s : State) (w : Who) (sl : Slot) : (s.setSlot w sl).answers = s.answers := rfl
@[simp] theorem State.setSlot_inputs (s : State) (w : Who) (sl : Slot) : (s.setSlot w sl).inputs = s.inputs := rfl
@[simp] theorem State.setSlot_cur (s : State) (w : Who) (sl : Slot) : (s.setSlot w sl).cur = s.cur := rfl
@[simp] theorem State.setSlot_draws (s : State) (w : Who) (sl : Slot) : (s.setSlot w sl).draws = s.draws := rfl
@[simp] theorem State.setSlot_serial (s : State) (w : Who) (sl : Slot) : (s.setSlot w sl).serial = s.serial := rfl

@[simp] theorem State.modSlot_cycle (s : State) (w : Who) (f : Slot → Slot) : (s.modSlot w f).cycle = s.cycle := rfl
@[simp] theorem State.modSlot_mem (s : State) (w : Who) (f : Slot → Slot) : (s.modSlot w f).mem = s.mem := rfl
@[simp] theorem State.modSlot_seals (s : State) (w : Who) (f : Slot → Slot) : (s.modSlot w f).seals = s.seals := rfl
@[simp] theorem State.modSlot_clusters (s : State) (w : Who) (f : Slot → Slot) : (s.modSlot w f).clusters = s.clusters := rfl
@[simp] theorem State.modSlot_channels (s : State) (w : Who) (f : Slot → Slot) : (s.modSlot w f).channels = s.channels := rfl
@[simp] theorem State.modSlot_dies (s : State) (w : Who) (f : Slot → Slot) : (s.modSlot w f).dies = s.dies := rfl
@[simp] theorem State.modSlot_pkg (s : State) (w : Who) (f : Slot → Slot) : (s.modSlot w f).pkg = s.pkg := rfl
@[simp] theorem State.modSlot_accs (s : State) (w : Who) (f : Slot → Slot) : (s.modSlot w f).accs = s.accs := rfl
@[simp] theorem State.modSlot_deliveries (s : State) (w : Who) (f : Slot → Slot) : (s.modSlot w f).deliveries = s.deliveries := rfl
@[simp] theorem State.modSlot_launches (s : State) (w : Who) (f : Slot → Slot) : (s.modSlot w f).launches = s.launches := rfl
@[simp] theorem State.modSlot_regions (s : State) (w : Who) (f : Slot → Slot) : (s.modSlot w f).regions = s.regions := rfl
@[simp] theorem State.modSlot_posts (s : State) (w : Who) (f : Slot → Slot) : (s.modSlot w f).posts = s.posts := rfl
@[simp] theorem State.modSlot_packets (s : State) (w : Who) (f : Slot → Slot) : (s.modSlot w f).packets = s.packets := rfl
@[simp] theorem State.modSlot_pend (s : State) (w : Who) (f : Slot → Slot) : (s.modSlot w f).pend = s.pend := rfl
@[simp] theorem State.modSlot_todo (s : State) (w : Who) (f : Slot → Slot) : (s.modSlot w f).todo = s.todo := rfl
@[simp] theorem State.modSlot_hosts (s : State) (w : Who) (f : Slot → Slot) : (s.modSlot w f).hosts = s.hosts := rfl
@[simp] theorem State.modSlot_answers (s : State) (w : Who) (f : Slot → Slot) : (s.modSlot w f).answers = s.answers := rfl
@[simp] theorem State.modSlot_inputs (s : State) (w : Who) (f : Slot → Slot) : (s.modSlot w f).inputs = s.inputs := rfl
@[simp] theorem State.modSlot_cur (s : State) (w : Who) (f : Slot → Slot) : (s.modSlot w f).cur = s.cur := rfl
@[simp] theorem State.modSlot_draws (s : State) (w : Who) (f : Slot → Slot) : (s.modSlot w f).draws = s.draws := rfl
@[simp] theorem State.modSlot_serial (s : State) (w : Who) (f : Slot → Slot) : (s.modSlot w f).serial = s.serial := rfl

@[simp] theorem State.setThread_cycle (s : State) (w : Who) (t : Thread) : (s.setThread w t).cycle = s.cycle := rfl
@[simp] theorem State.setThread_mem (s : State) (w : Who) (t : Thread) : (s.setThread w t).mem = s.mem := rfl
@[simp] theorem State.setThread_seals (s : State) (w : Who) (t : Thread) : (s.setThread w t).seals = s.seals := rfl
@[simp] theorem State.setThread_clusters (s : State) (w : Who) (t : Thread) : (s.setThread w t).clusters = s.clusters := rfl
@[simp] theorem State.setThread_channels (s : State) (w : Who) (t : Thread) : (s.setThread w t).channels = s.channels := rfl
@[simp] theorem State.setThread_dies (s : State) (w : Who) (t : Thread) : (s.setThread w t).dies = s.dies := rfl
@[simp] theorem State.setThread_pkg (s : State) (w : Who) (t : Thread) : (s.setThread w t).pkg = s.pkg := rfl
@[simp] theorem State.setThread_accs (s : State) (w : Who) (t : Thread) : (s.setThread w t).accs = s.accs := rfl
@[simp] theorem State.setThread_deliveries (s : State) (w : Who) (t : Thread) : (s.setThread w t).deliveries = s.deliveries := rfl
@[simp] theorem State.setThread_launches (s : State) (w : Who) (t : Thread) : (s.setThread w t).launches = s.launches := rfl
@[simp] theorem State.setThread_regions (s : State) (w : Who) (t : Thread) : (s.setThread w t).regions = s.regions := rfl
@[simp] theorem State.setThread_posts (s : State) (w : Who) (t : Thread) : (s.setThread w t).posts = s.posts := rfl
@[simp] theorem State.setThread_packets (s : State) (w : Who) (t : Thread) : (s.setThread w t).packets = s.packets := rfl
@[simp] theorem State.setThread_pend (s : State) (w : Who) (t : Thread) : (s.setThread w t).pend = s.pend := rfl
@[simp] theorem State.setThread_todo (s : State) (w : Who) (t : Thread) : (s.setThread w t).todo = s.todo := rfl
@[simp] theorem State.setThread_hosts (s : State) (w : Who) (t : Thread) : (s.setThread w t).hosts = s.hosts := rfl
@[simp] theorem State.setThread_answers (s : State) (w : Who) (t : Thread) : (s.setThread w t).answers = s.answers := rfl
@[simp] theorem State.setThread_inputs (s : State) (w : Who) (t : Thread) : (s.setThread w t).inputs = s.inputs := rfl
@[simp] theorem State.setThread_cur (s : State) (w : Who) (t : Thread) : (s.setThread w t).cur = s.cur := rfl
@[simp] theorem State.setThread_draws (s : State) (w : Who) (t : Thread) : (s.setThread w t).draws = s.draws := rfl
@[simp] theorem State.setThread_serial (s : State) (w : Who) (t : Thread) : (s.setThread w t).serial = s.serial := rfl

@[simp] theorem State.modCluster_cycle (s : State) (n : Nat) (f : Cluster → Cluster) : (s.modCluster n f).cycle = s.cycle := rfl
@[simp] theorem State.modCluster_mem (s : State) (n : Nat) (f : Cluster → Cluster) : (s.modCluster n f).mem = s.mem := rfl
@[simp] theorem State.modCluster_seals (s : State) (n : Nat) (f : Cluster → Cluster) : (s.modCluster n f).seals = s.seals := rfl
@[simp] theorem State.modCluster_tiles (s : State) (n : Nat) (f : Cluster → Cluster) : (s.modCluster n f).tiles = s.tiles := rfl
@[simp] theorem State.modCluster_channels (s : State) (n : Nat) (f : Cluster → Cluster) : (s.modCluster n f).channels = s.channels := rfl
@[simp] theorem State.modCluster_dies (s : State) (n : Nat) (f : Cluster → Cluster) : (s.modCluster n f).dies = s.dies := rfl
@[simp] theorem State.modCluster_pkg (s : State) (n : Nat) (f : Cluster → Cluster) : (s.modCluster n f).pkg = s.pkg := rfl
@[simp] theorem State.modCluster_accs (s : State) (n : Nat) (f : Cluster → Cluster) : (s.modCluster n f).accs = s.accs := rfl
@[simp] theorem State.modCluster_deliveries (s : State) (n : Nat) (f : Cluster → Cluster) : (s.modCluster n f).deliveries = s.deliveries := rfl
@[simp] theorem State.modCluster_launches (s : State) (n : Nat) (f : Cluster → Cluster) : (s.modCluster n f).launches = s.launches := rfl
@[simp] theorem State.modCluster_regions (s : State) (n : Nat) (f : Cluster → Cluster) : (s.modCluster n f).regions = s.regions := rfl
@[simp] theorem State.modCluster_posts (s : State) (n : Nat) (f : Cluster → Cluster) : (s.modCluster n f).posts = s.posts := rfl
@[simp] theorem State.modCluster_packets (s : State) (n : Nat) (f : Cluster → Cluster) : (s.modCluster n f).packets = s.packets := rfl
@[simp] theorem State.modCluster_pend (s : State) (n : Nat) (f : Cluster → Cluster) : (s.modCluster n f).pend = s.pend := rfl
@[simp] theorem State.modCluster_todo (s : State) (n : Nat) (f : Cluster → Cluster) : (s.modCluster n f).todo = s.todo := rfl
@[simp] theorem State.modCluster_hosts (s : State) (n : Nat) (f : Cluster → Cluster) : (s.modCluster n f).hosts = s.hosts := rfl
@[simp] theorem State.modCluster_answers (s : State) (n : Nat) (f : Cluster → Cluster) : (s.modCluster n f).answers = s.answers := rfl
@[simp] theorem State.modCluster_inputs (s : State) (n : Nat) (f : Cluster → Cluster) : (s.modCluster n f).inputs = s.inputs := rfl
@[simp] theorem State.modCluster_cur (s : State) (n : Nat) (f : Cluster → Cluster) : (s.modCluster n f).cur = s.cur := rfl
@[simp] theorem State.modCluster_draws (s : State) (n : Nat) (f : Cluster → Cluster) : (s.modCluster n f).draws = s.draws := rfl
@[simp] theorem State.modCluster_serial (s : State) (n : Nat) (f : Cluster → Cluster) : (s.modCluster n f).serial = s.serial := rfl

@[simp] theorem State.modDie_cycle (s : State) (n : Nat) (f : Die → Die) : (s.modDie n f).cycle = s.cycle := rfl
@[simp] theorem State.modDie_mem (s : State) (n : Nat) (f : Die → Die) : (s.modDie n f).mem = s.mem := rfl
@[simp] theorem State.modDie_seals (s : State) (n : Nat) (f : Die → Die) : (s.modDie n f).seals = s.seals := rfl
@[simp] theorem State.modDie_tiles (s : State) (n : Nat) (f : Die → Die) : (s.modDie n f).tiles = s.tiles := rfl
@[simp] theorem State.modDie_clusters (s : State) (n : Nat) (f : Die → Die) : (s.modDie n f).clusters = s.clusters := rfl
@[simp] theorem State.modDie_channels (s : State) (n : Nat) (f : Die → Die) : (s.modDie n f).channels = s.channels := rfl
@[simp] theorem State.modDie_pkg (s : State) (n : Nat) (f : Die → Die) : (s.modDie n f).pkg = s.pkg := rfl
@[simp] theorem State.modDie_accs (s : State) (n : Nat) (f : Die → Die) : (s.modDie n f).accs = s.accs := rfl
@[simp] theorem State.modDie_deliveries (s : State) (n : Nat) (f : Die → Die) : (s.modDie n f).deliveries = s.deliveries := rfl
@[simp] theorem State.modDie_launches (s : State) (n : Nat) (f : Die → Die) : (s.modDie n f).launches = s.launches := rfl
@[simp] theorem State.modDie_regions (s : State) (n : Nat) (f : Die → Die) : (s.modDie n f).regions = s.regions := rfl
@[simp] theorem State.modDie_posts (s : State) (n : Nat) (f : Die → Die) : (s.modDie n f).posts = s.posts := rfl
@[simp] theorem State.modDie_packets (s : State) (n : Nat) (f : Die → Die) : (s.modDie n f).packets = s.packets := rfl
@[simp] theorem State.modDie_pend (s : State) (n : Nat) (f : Die → Die) : (s.modDie n f).pend = s.pend := rfl
@[simp] theorem State.modDie_todo (s : State) (n : Nat) (f : Die → Die) : (s.modDie n f).todo = s.todo := rfl
@[simp] theorem State.modDie_hosts (s : State) (n : Nat) (f : Die → Die) : (s.modDie n f).hosts = s.hosts := rfl
@[simp] theorem State.modDie_answers (s : State) (n : Nat) (f : Die → Die) : (s.modDie n f).answers = s.answers := rfl
@[simp] theorem State.modDie_inputs (s : State) (n : Nat) (f : Die → Die) : (s.modDie n f).inputs = s.inputs := rfl
@[simp] theorem State.modDie_cur (s : State) (n : Nat) (f : Die → Die) : (s.modDie n f).cur = s.cur := rfl
@[simp] theorem State.modDie_draws (s : State) (n : Nat) (f : Die → Die) : (s.modDie n f).draws = s.draws := rfl
@[simp] theorem State.modDie_serial (s : State) (n : Nat) (f : Die → Die) : (s.modDie n f).serial = s.serial := rfl

@[simp] theorem State.schedule_cycle (s : State) (n p : Nat) (ev : Event) : (s.schedule n p ev).cycle = s.cycle := rfl
@[simp] theorem State.schedule_mem (s : State) (n p : Nat) (ev : Event) : (s.schedule n p ev).mem = s.mem := rfl
@[simp] theorem State.schedule_seals (s : State) (n p : Nat) (ev : Event) : (s.schedule n p ev).seals = s.seals := rfl
@[simp] theorem State.schedule_tiles (s : State) (n p : Nat) (ev : Event) : (s.schedule n p ev).tiles = s.tiles := rfl
@[simp] theorem State.schedule_clusters (s : State) (n p : Nat) (ev : Event) : (s.schedule n p ev).clusters = s.clusters := rfl
@[simp] theorem State.schedule_channels (s : State) (n p : Nat) (ev : Event) : (s.schedule n p ev).channels = s.channels := rfl
@[simp] theorem State.schedule_dies (s : State) (n p : Nat) (ev : Event) : (s.schedule n p ev).dies = s.dies := rfl
@[simp] theorem State.schedule_pkg (s : State) (n p : Nat) (ev : Event) : (s.schedule n p ev).pkg = s.pkg := rfl
@[simp] theorem State.schedule_accs (s : State) (n p : Nat) (ev : Event) : (s.schedule n p ev).accs = s.accs := rfl
@[simp] theorem State.schedule_deliveries (s : State) (n p : Nat) (ev : Event) : (s.schedule n p ev).deliveries = s.deliveries := rfl
@[simp] theorem State.schedule_launches (s : State) (n p : Nat) (ev : Event) : (s.schedule n p ev).launches = s.launches := rfl
@[simp] theorem State.schedule_regions (s : State) (n p : Nat) (ev : Event) : (s.schedule n p ev).regions = s.regions := rfl
@[simp] theorem State.schedule_posts (s : State) (n p : Nat) (ev : Event) : (s.schedule n p ev).posts = s.posts := rfl
@[simp] theorem State.schedule_packets (s : State) (n p : Nat) (ev : Event) : (s.schedule n p ev).packets = s.packets := rfl
@[simp] theorem State.schedule_todo (s : State) (n p : Nat) (ev : Event) : (s.schedule n p ev).todo = s.todo := rfl
@[simp] theorem State.schedule_hosts (s : State) (n p : Nat) (ev : Event) : (s.schedule n p ev).hosts = s.hosts := rfl
@[simp] theorem State.schedule_answers (s : State) (n p : Nat) (ev : Event) : (s.schedule n p ev).answers = s.answers := rfl
@[simp] theorem State.schedule_inputs (s : State) (n p : Nat) (ev : Event) : (s.schedule n p ev).inputs = s.inputs := rfl
@[simp] theorem State.schedule_cur (s : State) (n p : Nat) (ev : Event) : (s.schedule n p ev).cur = s.cur := rfl
@[simp] theorem State.schedule_draws (s : State) (n p : Nat) (ev : Event) : (s.schedule n p ev).draws = s.draws := rfl
@[simp] theorem State.schedule_serial (s : State) (n p : Nat) (ev : Event) : (s.schedule n p ev).serial = s.serial := rfl

@[simp] theorem State.setGranuleAt_cycle (s : State) (a : Nat) (g : Granule) : (s.setGranuleAt a g).cycle = s.cycle := rfl
@[simp] theorem State.setGranuleAt_tiles (s : State) (a : Nat) (g : Granule) : (s.setGranuleAt a g).tiles = s.tiles := rfl
@[simp] theorem State.setGranuleAt_clusters (s : State) (a : Nat) (g : Granule) : (s.setGranuleAt a g).clusters = s.clusters := rfl
@[simp] theorem State.setGranuleAt_channels (s : State) (a : Nat) (g : Granule) : (s.setGranuleAt a g).channels = s.channels := rfl
@[simp] theorem State.setGranuleAt_dies (s : State) (a : Nat) (g : Granule) : (s.setGranuleAt a g).dies = s.dies := rfl
@[simp] theorem State.setGranuleAt_pkg (s : State) (a : Nat) (g : Granule) : (s.setGranuleAt a g).pkg = s.pkg := rfl
@[simp] theorem State.setGranuleAt_accs (s : State) (a : Nat) (g : Granule) : (s.setGranuleAt a g).accs = s.accs := rfl
@[simp] theorem State.setGranuleAt_deliveries (s : State) (a : Nat) (g : Granule) : (s.setGranuleAt a g).deliveries = s.deliveries := rfl
@[simp] theorem State.setGranuleAt_launches (s : State) (a : Nat) (g : Granule) : (s.setGranuleAt a g).launches = s.launches := rfl
@[simp] theorem State.setGranuleAt_regions (s : State) (a : Nat) (g : Granule) : (s.setGranuleAt a g).regions = s.regions := rfl
@[simp] theorem State.setGranuleAt_posts (s : State) (a : Nat) (g : Granule) : (s.setGranuleAt a g).posts = s.posts := rfl
@[simp] theorem State.setGranuleAt_packets (s : State) (a : Nat) (g : Granule) : (s.setGranuleAt a g).packets = s.packets := rfl
@[simp] theorem State.setGranuleAt_pend (s : State) (a : Nat) (g : Granule) : (s.setGranuleAt a g).pend = s.pend := rfl
@[simp] theorem State.setGranuleAt_todo (s : State) (a : Nat) (g : Granule) : (s.setGranuleAt a g).todo = s.todo := rfl
@[simp] theorem State.setGranuleAt_hosts (s : State) (a : Nat) (g : Granule) : (s.setGranuleAt a g).hosts = s.hosts := rfl
@[simp] theorem State.setGranuleAt_answers (s : State) (a : Nat) (g : Granule) : (s.setGranuleAt a g).answers = s.answers := rfl
@[simp] theorem State.setGranuleAt_inputs (s : State) (a : Nat) (g : Granule) : (s.setGranuleAt a g).inputs = s.inputs := rfl
@[simp] theorem State.setGranuleAt_cur (s : State) (a : Nat) (g : Granule) : (s.setGranuleAt a g).cur = s.cur := rfl
@[simp] theorem State.setGranuleAt_draws (s : State) (a : Nat) (g : Granule) : (s.setGranuleAt a g).draws = s.draws := rfl
@[simp] theorem State.setGranuleAt_serial (s : State) (a : Nat) (g : Granule) : (s.setGranuleAt a g).serial = s.serial := rfl

@[simp] theorem State.setGranule_cycle (s : State) (l : Loc) (g : Granule) : (s.setGranule l g).cycle = s.cycle := rfl
@[simp] theorem State.setGranule_tiles (s : State) (l : Loc) (g : Granule) : (s.setGranule l g).tiles = s.tiles := rfl
@[simp] theorem State.setGranule_clusters (s : State) (l : Loc) (g : Granule) : (s.setGranule l g).clusters = s.clusters := rfl
@[simp] theorem State.setGranule_channels (s : State) (l : Loc) (g : Granule) : (s.setGranule l g).channels = s.channels := rfl
@[simp] theorem State.setGranule_dies (s : State) (l : Loc) (g : Granule) : (s.setGranule l g).dies = s.dies := rfl
@[simp] theorem State.setGranule_pkg (s : State) (l : Loc) (g : Granule) : (s.setGranule l g).pkg = s.pkg := rfl
@[simp] theorem State.setGranule_accs (s : State) (l : Loc) (g : Granule) : (s.setGranule l g).accs = s.accs := rfl
@[simp] theorem State.setGranule_deliveries (s : State) (l : Loc) (g : Granule) : (s.setGranule l g).deliveries = s.deliveries := rfl
@[simp] theorem State.setGranule_launches (s : State) (l : Loc) (g : Granule) : (s.setGranule l g).launches = s.launches := rfl
@[simp] theorem State.setGranule_regions (s : State) (l : Loc) (g : Granule) : (s.setGranule l g).regions = s.regions := rfl
@[simp] theorem State.setGranule_posts (s : State) (l : Loc) (g : Granule) : (s.setGranule l g).posts = s.posts := rfl
@[simp] theorem State.setGranule_packets (s : State) (l : Loc) (g : Granule) : (s.setGranule l g).packets = s.packets := rfl
@[simp] theorem State.setGranule_pend (s : State) (l : Loc) (g : Granule) : (s.setGranule l g).pend = s.pend := rfl
@[simp] theorem State.setGranule_todo (s : State) (l : Loc) (g : Granule) : (s.setGranule l g).todo = s.todo := rfl
@[simp] theorem State.setGranule_hosts (s : State) (l : Loc) (g : Granule) : (s.setGranule l g).hosts = s.hosts := rfl
@[simp] theorem State.setGranule_answers (s : State) (l : Loc) (g : Granule) : (s.setGranule l g).answers = s.answers := rfl
@[simp] theorem State.setGranule_inputs (s : State) (l : Loc) (g : Granule) : (s.setGranule l g).inputs = s.inputs := rfl
@[simp] theorem State.setGranule_cur (s : State) (l : Loc) (g : Granule) : (s.setGranule l g).cur = s.cur := rfl
@[simp] theorem State.setGranule_draws (s : State) (l : Loc) (g : Granule) : (s.setGranule l g).draws = s.draws := rfl
@[simp] theorem State.setGranule_serial (s : State) (l : Loc) (g : Granule) : (s.setGranule l g).serial = s.serial := rfl

@[simp] theorem State.fresh_cycle (s : State) : (s.fresh.2).cycle = s.cycle := rfl
@[simp] theorem State.fresh_mem (s : State) : (s.fresh.2).mem = s.mem := rfl
@[simp] theorem State.fresh_seals (s : State) : (s.fresh.2).seals = s.seals := rfl
@[simp] theorem State.fresh_tiles (s : State) : (s.fresh.2).tiles = s.tiles := rfl
@[simp] theorem State.fresh_clusters (s : State) : (s.fresh.2).clusters = s.clusters := rfl
@[simp] theorem State.fresh_channels (s : State) : (s.fresh.2).channels = s.channels := rfl
@[simp] theorem State.fresh_dies (s : State) : (s.fresh.2).dies = s.dies := rfl
@[simp] theorem State.fresh_pkg (s : State) : (s.fresh.2).pkg = s.pkg := rfl
@[simp] theorem State.fresh_accs (s : State) : (s.fresh.2).accs = s.accs := rfl
@[simp] theorem State.fresh_deliveries (s : State) : (s.fresh.2).deliveries = s.deliveries := rfl
@[simp] theorem State.fresh_launches (s : State) : (s.fresh.2).launches = s.launches := rfl
@[simp] theorem State.fresh_regions (s : State) : (s.fresh.2).regions = s.regions := rfl
@[simp] theorem State.fresh_posts (s : State) : (s.fresh.2).posts = s.posts := rfl
@[simp] theorem State.fresh_packets (s : State) : (s.fresh.2).packets = s.packets := rfl
@[simp] theorem State.fresh_pend (s : State) : (s.fresh.2).pend = s.pend := rfl
@[simp] theorem State.fresh_todo (s : State) : (s.fresh.2).todo = s.todo := rfl
@[simp] theorem State.fresh_hosts (s : State) : (s.fresh.2).hosts = s.hosts := rfl
@[simp] theorem State.fresh_answers (s : State) : (s.fresh.2).answers = s.answers := rfl
@[simp] theorem State.fresh_inputs (s : State) : (s.fresh.2).inputs = s.inputs := rfl
@[simp] theorem State.fresh_cur (s : State) : (s.fresh.2).cur = s.cur := rfl
@[simp] theorem State.fresh_draws (s : State) : (s.fresh.2).draws = s.draws := rfl

@[simp] theorem State.modThread_cycle (s : State) (w : Who) (f : Thread → Thread) : (s.modThread w f).cycle = s.cycle := by
  unfold State.modThread; split <;> rfl
@[simp] theorem State.modThread_mem (s : State) (w : Who) (f : Thread → Thread) : (s.modThread w f).mem = s.mem := by
  unfold State.modThread; split <;> rfl
@[simp] theorem State.modThread_seals (s : State) (w : Who) (f : Thread → Thread) : (s.modThread w f).seals = s.seals := by
  unfold State.modThread; split <;> rfl
@[simp] theorem State.modThread_clusters (s : State) (w : Who) (f : Thread → Thread) : (s.modThread w f).clusters = s.clusters := by
  unfold State.modThread; split <;> rfl
@[simp] theorem State.modThread_channels (s : State) (w : Who) (f : Thread → Thread) : (s.modThread w f).channels = s.channels := by
  unfold State.modThread; split <;> rfl
@[simp] theorem State.modThread_dies (s : State) (w : Who) (f : Thread → Thread) : (s.modThread w f).dies = s.dies := by
  unfold State.modThread; split <;> rfl
@[simp] theorem State.modThread_pkg (s : State) (w : Who) (f : Thread → Thread) : (s.modThread w f).pkg = s.pkg := by
  unfold State.modThread; split <;> rfl
@[simp] theorem State.modThread_accs (s : State) (w : Who) (f : Thread → Thread) : (s.modThread w f).accs = s.accs := by
  unfold State.modThread; split <;> rfl
@[simp] theorem State.modThread_deliveries (s : State) (w : Who) (f : Thread → Thread) : (s.modThread w f).deliveries = s.deliveries := by
  unfold State.modThread; split <;> rfl
@[simp] theorem State.modThread_launches (s : State) (w : Who) (f : Thread → Thread) : (s.modThread w f).launches = s.launches := by
  unfold State.modThread; split <;> rfl
@[simp] theorem State.modThread_regions (s : State) (w : Who) (f : Thread → Thread) : (s.modThread w f).regions = s.regions := by
  unfold State.modThread; split <;> rfl
@[simp] theorem State.modThread_posts (s : State) (w : Who) (f : Thread → Thread) : (s.modThread w f).posts = s.posts := by
  unfold State.modThread; split <;> rfl
@[simp] theorem State.modThread_packets (s : State) (w : Who) (f : Thread → Thread) : (s.modThread w f).packets = s.packets := by
  unfold State.modThread; split <;> rfl
@[simp] theorem State.modThread_pend (s : State) (w : Who) (f : Thread → Thread) : (s.modThread w f).pend = s.pend := by
  unfold State.modThread; split <;> rfl
@[simp] theorem State.modThread_todo (s : State) (w : Who) (f : Thread → Thread) : (s.modThread w f).todo = s.todo := by
  unfold State.modThread; split <;> rfl
@[simp] theorem State.modThread_hosts (s : State) (w : Who) (f : Thread → Thread) : (s.modThread w f).hosts = s.hosts := by
  unfold State.modThread; split <;> rfl
@[simp] theorem State.modThread_answers (s : State) (w : Who) (f : Thread → Thread) : (s.modThread w f).answers = s.answers := by
  unfold State.modThread; split <;> rfl
@[simp] theorem State.modThread_inputs (s : State) (w : Who) (f : Thread → Thread) : (s.modThread w f).inputs = s.inputs := by
  unfold State.modThread; split <;> rfl
@[simp] theorem State.modThread_cur (s : State) (w : Who) (f : Thread → Thread) : (s.modThread w f).cur = s.cur := by
  unfold State.modThread; split <;> rfl
@[simp] theorem State.modThread_draws (s : State) (w : Who) (f : Thread → Thread) : (s.modThread w f).draws = s.draws := by
  unfold State.modThread; split <;> rfl
@[simp] theorem State.modThread_serial (s : State) (w : Who) (f : Thread → Thread) : (s.modThread w f).serial = s.serial := by
  unfold State.modThread; split <;> rfl

/-! Tiles -/

@[simp] theorem State.tile_setTile (s : State) (n k : Nat) (t : Tile) :
    (s.setTile n t).tile k = if k = n then t else s.tile k := Tab.get_put ..

@[simp] theorem State.tile_modTile (s : State) (n k : Nat) (f : Tile → Tile) :
    (s.modTile n f).tile k = if k = n then f (s.tile n) else s.tile k := Tab.get_put ..

@[simp] theorem Tile.slot_setSlot (t : Tile) (n m : Nat) (sl : Slot) :
    (t.setSlot n sl).slot m = if m = n ∧ n < 8 then sl else t.slot m := by
  simp only [Tile.slot, Tile.setSlot, Vector.getElem?_setIfInBounds]
  by_cases h : n = m
  · subst h
    by_cases hn : n < 8 <;> simp [hn]
  · simp [h, Ne.symm h]

@[simp] theorem Tile.setSlot_slots_only (t : Tile) (n : Nat) (sl : Slot) :
    { t.setSlot n sl with slots := t.slots } = t := rfl

/-! Slots and threads -/

theorem State.slot_setSlot (s : State) (w v : Who) (sl : Slot) :
    (s.setSlot w sl).slot v = if v = w ∧ w.slot < 8 then sl else s.slot v := by
  obtain ⟨wt, ws⟩ := w
  obtain ⟨vt, vs⟩ := v
  simp only [State.slot, State.setSlot, State.tile_modTile, Who.mk.injEq]
  by_cases h : vt = wt
  · subst h; simp
  · simp [h]

theorem State.slot_modSlot (s : State) (w v : Who) (f : Slot → Slot) :
    (s.modSlot w f).slot v = if v = w ∧ w.slot < 8 then f (s.slot w) else s.slot v := State.slot_setSlot ..

theorem State.slot_modSlot_ne (s : State) {w v : Who} (f : Slot → Slot) (h : v ≠ w) : (s.modSlot w f).slot v = s.slot v := by
  simp [State.slot_modSlot, h]

/-- A slot that holds a thread is one of the eight. -/
theorem State.thread_lt {s : State} {w : Who} {t : Thread} (h : s.thread w = some t) : w.slot < 8 := by
  by_cases hw : w.slot < 8
  · exact hw
  · rw [State.thread, State.slot, Tile.slot, Vector.getElem?_eq_none (by omega)] at h
    cases h

theorem State.slot_modSlot_self {s : State} {w : Who} {t : Thread} (f : Slot → Slot) (h : s.thread w = some t) :
    (s.modSlot w f).slot w = f (s.slot w) := by
  simp [State.slot_modSlot, State.thread_lt h]

theorem State.thread_setThread {s : State} {w : Who} {t : Thread} (t' : Thread) (h : s.thread w = some t) :
    (s.setThread w t').thread w = some t' := by
  rw [State.thread, State.setThread, State.slot_modSlot_self _ h]

theorem State.thread_setThread_ne (s : State) {w v : Who} (t' : Thread) (h : v ≠ w) :
    (s.setThread w t').thread v = s.thread v := by
  rw [State.thread, State.setThread, State.slot_modSlot_ne _ _ h, State.thread]

theorem State.setTile_setTile (s : State) (n : Nat) (t t' : Tile) : (s.setTile n t).setTile n t' = s.setTile n t' := by
  simp [State.setTile, Tab.put_put]

theorem State.setSlot_setSlot (s : State) (w : Who) (a b : Slot) : (s.setSlot w a).setSlot w b = s.setSlot w b := by
  unfold State.setSlot State.modTile
  rw [State.setTile_setTile]
  simp [Tile.setSlot]

/-- Of two writes of one slot's thread the later stands. -/
theorem State.setThread_setThread {s : State} {w : Who} {t : Thread} (h : s.thread w = some t) (a b : Thread) :
    (s.setThread w a).setThread w b = s.setThread w b := by
  unfold State.setThread
  rw [State.modSlot, State.slot_modSlot_self _ h, State.modSlot, State.modSlot, State.setSlot_setSlot]

theorem State.modThread_eq {s : State} {w : Who} {t : Thread} (f : Thread → Thread) (h : s.thread w = some t) :
    s.modThread w f = s.setThread w (f t) := by
  simp [State.modThread, h]

theorem State.thread_modThread {s : State} {w : Who} {t : Thread} (f : Thread → Thread) (h : s.thread w = some t) :
    (s.modThread w f).thread w = some (f t) := by
  rw [State.modThread_eq f h, State.thread_setThread _ h]

theorem State.thread_modThread_ne (s : State) {w v : Who} (f : Thread → Thread) (h : v ≠ w) :
    (s.modThread w f).thread v = s.thread v := by
  unfold State.modThread
  split
  · exact State.thread_setThread_ne s _ h
  · rfl

@[simp] theorem State.thread_schedule (s : State) (n p : Nat) (ev : Event) (w : Who) :
    (s.schedule n p ev).thread w = s.thread w := rfl
@[simp] theorem State.slot_schedule (s : State) (n p : Nat) (ev : Event) (w : Who) :
    (s.schedule n p ev).slot w = s.slot w := rfl
@[simp] theorem State.tile_schedule (s : State) (n p : Nat) (ev : Event) (k : Nat) :
    (s.schedule n p ev).tile k = s.tile k := rfl
@[simp] theorem State.thread_fresh (s : State) (w : Who) : s.fresh.2.thread w = s.thread w := rfl
@[simp] theorem State.slot_fresh (s : State) (w : Who) : s.fresh.2.slot w = s.slot w := rfl
@[simp] theorem State.tile_fresh (s : State) (k : Nat) : s.fresh.2.tile k = s.tile k := rfl
@[simp] theorem State.thread_setGranule (s : State) (l : Loc) (g : Granule) (w : Who) :
    (s.setGranule l g).thread w = s.thread w := rfl
@[simp] theorem State.tile_setGranule (s : State) (l : Loc) (g : Granule) (k : Nat) :
    (s.setGranule l g).tile k = s.tile k := rfl

/-! Pending completions -/

theorem mem_insertDue (d e : Due) (l : List Due) : e ∈ insertDue d l ↔ e = d ∨ e ∈ l := by
  induction l with
  | nil => simp [insertDue]
  | cons x l ih =>
    simp only [insertDue]
    split
    · simp
    · simp only [List.mem_cons, ih]
      exact or_left_comm

/-- What is scheduled is pending, and what was pending stays so. -/
theorem State.mem_schedule (s : State) (n p : Nat) (ev : Event) (e : Due) :
    e ∈ (s.schedule n p ev).pend ↔ e = ⟨n, p, ev⟩ ∨ e ∈ s.pend := mem_insertDue ..

/-! Granules -/

/-- The bytes outside a granule that is stored read as before. -/
theorem State.byte_setGranuleAt (s : State) (a : Nat) (g : Granule) (b : Nat) (h : b < a ∨ a + 32 ≤ b) :
    (s.setGranuleAt a g).byte b = s.byte b := Memory.read_writeN_outside _ _ _ _ _ h

/-- A granule stored keeps memory canonical. -/
theorem State.mem_wf_setGranuleAt {s : State} (a : Nat) (g : Granule) (h : s.mem.wf) : (s.setGranuleAt a g).mem.wf :=
  Memory.wf_writeN _ _ _ h

theorem State.mem_wf_setGranule {s : State} (l : Loc) (g : Granule) (h : s.mem.wf) : (s.setGranule l g).mem.wf :=
  State.mem_wf_setGranuleAt _ g h

/-- n bytes read after n bytes written at the same place. -/
theorem Memory.readN_writeN (m : Memory) (a v n : Nat) : (m.writeN a v n).readN a n = v % 256 ^ n := by
  induction n generalizing m a v with
  | zero => simp [Memory.readN, Nat.mod_one]
  | succ n ih =>
    have h := Memory.read_writeN_inside m a v (n + 1) 0 (by omega)
    simp only [Nat.add_zero, Nat.pow_zero, Nat.div_one] at h
    rw [Memory.readN, h, Memory.writeN, ih, Nat.pow_succ', Nat.mod_mul, BitVec.toNat_ofNat]

/-- A granule stored at a multiple of 32 reads back, seal and data. -/
theorem State.granuleAt_setGranuleAt (s : State) (a : Nat) (g : Granule) : (s.setGranuleAt a g).granuleAt a = g := by
  have h : ((s.setGranuleAt a g).mem.readN a 32) = g.data.toNat := by
    rw [State.setGranuleAt, Memory.readN_writeN]
    exact Nat.mod_eq_of_lt g.data.isLt
  have hs : Tab.get sealZero (s.setGranuleAt a g).seals (a / 32) = g.sl := by
    rw [State.setGranuleAt, Tab.get_putD, if_pos rfl]
  rw [State.granuleAt, h, hs]
  simp

/-! Registers -/

@[simp] theorem Thread.getX_setX (t : Thread) (r q : Reg) (v : Word) :
    (t.setX r v).getX q = if q = 0 then 0 else if q = r then v else t.getX q := by
  by_cases hq : q = 0
  · rw [Thread.getX, Thread.getX, if_pos hq, if_pos hq]
  · rw [Thread.getX, Thread.getX, if_neg hq, if_neg hq, if_neg hq]
    by_cases hr : r = 0
    · have e : q ≠ r := fun e => hq (e.trans hr)
      rw [Thread.setX, if_pos hr, if_neg e]
    · rw [Thread.setX, if_neg hr]
      by_cases e : q = r
      · subst e; simp [q.isLt]
      · have : r.toNat ≠ q.toNat := fun h => e (BitVec.eq_of_toNat_eq h.symm)
        simp [e, this]

@[simp] theorem Thread.getX_zero (t : Thread) : t.getX 0 = 0 := by simp [Thread.getX]

@[simp] theorem Thread.getK_zero (t : Thread) : t.getK 0 = ones 32 := by simp [Thread.getK]

@[simp] theorem Thread.getK_setK (t : Thread) (r q : BitVec 3) (v : BitVec 32) :
    (t.setK r v).getK q = if q = 0 then ones 32 else if q = r then v else t.getK q := by
  by_cases hq : q = 0
  · rw [Thread.getK, Thread.getK, if_pos hq, if_pos hq]
  · rw [Thread.getK, Thread.getK, if_neg hq, if_neg hq, if_neg hq]
    by_cases hr : r = 0
    · have e : q ≠ r := fun e => hq (e.trans hr)
      rw [Thread.setK, if_pos hr, if_neg e]
    · rw [Thread.setK, if_neg hr]
      by_cases e : q = r
      · subst e; simp [q.isLt]
      · have : r.toNat ≠ q.toNat := fun h => e (BitVec.eq_of_toNat_eq h.symm)
        simp [e, this]

@[simp] theorem Thread.getV_setV (t : Thread) (n m : Nat) (v : Vec) :
    (t.setV n v).getV m = if m = n then v else t.getV m := by
  unfold Thread.setV Thread.getV Thread.touchV
  split <;> simp [Tab.get_put]

end Sys2Proof.Machine
end

