-- ==== Sys2Proof/Laws/Issue.lean ====
section
/-! SUPPORT. What counting events does, what a restart mark does, and what the issue of an instruction answers. -/

namespace Sys2Proof.Machine

/-! Counting (14 R343) -/

theorem Counts.refl (s : State) : Counts s s := ⟨rfl, fun _ => rfl, fun _ h => h, fun _ h => .inl h⟩

theorem Counts.trans {a b c : State} (h : Counts a b) (k : Counts b c) : Counts a c where
  rest := by
    have e : { c with tiles := a.tiles, pend := a.pend } = { ({ c with tiles := b.tiles, pend := b.pend } : State) with
      tiles := a.tiles, pend := a.pend } := rfl
    rw [e, k.rest, h.rest]
  tiles n := by
    have e : { c.tile n with pmc := (a.tile n).pmc } = { ({ c.tile n with pmc := (b.tile n).pmc } : Tile) with
      pmc := (a.tile n).pmc } := rfl
    rw [e, k.tiles, h.tiles]
  kept d hd := k.kept d (h.kept d hd)
  wraps d hd := (k.wraps d hd).elim (fun hb => h.wraps d hb) .inr

theorem Counts.one (tile ev : Nat) (slot : Option Nat) (n : Nat) (s : State) (k : Nat) : Counts s (tallyOne tile ev slot n s k) := by
  have base : ∀ p, Counts s (s.setTile tile { s.tile tile with pmc := p }) := fun p =>
    ⟨rfl, fun m => by by_cases h : m = tile <;> simp [h], fun _ h => h, fun _ h => .inl h⟩
  unfold tallyOne
  simp only
  split
  · split
    · refine (base _).trans ⟨rfl, fun _ => rfl, fun d h => ?_, fun d h => ?_⟩
      · exact (State.mem_schedule ..).mpr (.inr h)
      · exact ((State.mem_schedule ..).mp h).elim (fun e => .inr ⟨tile, k, by rw [e]⟩) .inl
    · exact base _
  · exact Counts.refl s

/-- Counting changes nothing but counters. -/
theorem Counts.tally (tile ev : Nat) (slot : Option Nat) (n : Nat) (s : State) : Counts s (s.tally tile ev slot n) := by
  unfold State.tally
  split
  · exact Counts.refl s
  · simp only [List.foldl_cons, List.foldl_nil]
    exact (((Counts.one ..).trans (Counts.one ..)).trans (Counts.one ..)).trans (Counts.one ..)

theorem Counts.tallySlot (w : Who) (ev : Nat) (s : State) : Counts s (s.tallySlot w ev) := Counts.tally ..

theorem Counts.slot {s s' : State} (h : Counts s s') (w : Who) : s'.slot w = s.slot w := by
  have e := congrArg Tile.slots (h.tiles w.tile)
  have e : (s'.tile w.tile).slots = (s.tile w.tile).slots := e
  rw [State.slot, State.slot, Tile.slot, Tile.slot, e]

theorem Counts.thread {s s' : State} (h : Counts s s') (w : Who) : s'.thread w = s.thread w := by
  rw [State.thread, State.thread, h.slot]

theorem Counts.cur {s s' : State} (h : Counts s s') : s'.cur = s.cur := by
  have e := congrArg State.cur h.rest; exact e
theorem Counts.cycle {s s' : State} (h : Counts s s') : s'.cycle = s.cycle := by
  have e := congrArg State.cycle h.rest; exact e
theorem Counts.mem {s s' : State} (h : Counts s s') : s'.mem = s.mem := by
  have e := congrArg State.mem h.rest; exact e
theorem Counts.seals {s s' : State} (h : Counts s s') : s'.seals = s.seals := by
  have e := congrArg State.seals h.rest; exact e
theorem Counts.accs {s s' : State} (h : Counts s s') : s'.accs = s.accs := by
  have e := congrArg State.accs h.rest; exact e
theorem Counts.pkg {s s' : State} (h : Counts s s') : s'.pkg = s.pkg := by
  have e := congrArg State.pkg h.rest; exact e
theorem Counts.packets {s s' : State} (h : Counts s s') : s'.packets = s.packets := by
  have e := congrArg State.packets h.rest; exact e
theorem Counts.posts {s s' : State} (h : Counts s s') : s'.posts = s.posts := by
  have e := congrArg State.posts h.rest; exact e
theorem Counts.regions {s s' : State} (h : Counts s s') : s'.regions = s.regions := by
  have e := congrArg State.regions h.rest; exact e
theorem Counts.serial {s s' : State} (h : Counts s s') : s'.serial = s.serial := by
  have e := congrArg State.serial h.rest; exact e

theorem Counts.sameMemory {s s' : State} (h : Counts s s') : SameMemory s s' :=
  ⟨fun _ => by rw [State.byte, State.byte, h.mem], h.seals⟩

/-! Restart marks (03 R80, R82) -/

/-- A release puts an access in flight, and changes nothing else but the model's own numbering. -/
theorem releaseOne_rest (w : Who) (serial : Nat) (s : State) (n : Nat) (g : Gated) :
    (releaseOne w serial s n g).tiles = s.tiles ∧ (releaseOne w serial s n g).cur = s.cur ∧
    (releaseOne w serial s n g).cycle = s.cycle ∧ (releaseOne w serial s n g).mem = s.mem ∧
    (releaseOne w serial s n g).seals = s.seals := by
  obtain ⟨key, data, mask, tag, loc⟩ := g
  cases loc with
  | none => exact ⟨rfl, rfl, rfl, rfl, rfl⟩
  | some loc => cases key <;> exact ⟨rfl, rfl, rfl, rfl, rfl⟩

theorem releaseAll_rest (w : Who) (serial : Nat) (s : State) (n : Nat) (gs : List Gated) :
    (releaseAll w serial s n gs).tiles = s.tiles ∧ (releaseAll w serial s n gs).cur = s.cur ∧
    (releaseAll w serial s n gs).cycle = s.cycle ∧ (releaseAll w serial s n gs).mem = s.mem ∧
    (releaseAll w serial s n gs).seals = s.seals := by
  induction gs generalizing s n with
  | nil => exact ⟨rfl, rfl, rfl, rfl, rfl⟩
  | cons g gs ih =>
    obtain ⟨a, b, c, d, e⟩ := releaseOne_rest w serial s n g
    obtain ⟨a', b', c', d', e'⟩ := ih (releaseOne w serial s n g) (n + 1)
    exact ⟨a'.trans a, b'.trans b, c'.trans c, d'.trans d, e'.trans e⟩

theorem releaseAll_thread (w : Who) (serial : Nat) (s : State) (n : Nat) (gs : List Gated) (v : Who) :
    (releaseAll w serial s n gs).thread v = s.thread v := by
  simp only [State.thread, State.slot, State.tile, (releaseAll_rest ..).1]

/-- A mark changes its own thread's mark, shadow and store buffer, and nothing else of it. -/
theorem takeMark_thread {w : Who} {s : State} {t : Thread} (addr : BitVec 15) (h : s.thread w = some t) :
    (takeMark w addr s).thread w = some { t with
      gated := [], mpc := addr, shadow := t.snapshot (streamPositions (s.tile w.tile) w.slot t.serial) } := by
  simp only [takeMark, h]
  exact State.thread_modThread _ (by rw [releaseAll_thread]; exact h)

theorem takeMark_thread_ne {w v : Who} {s : State} (addr : BitVec 15) (h : v ≠ w) : (takeMark w addr s).thread v = s.thread v := by
  unfold takeMark
  split
  · rfl
  · rw [State.thread_modThread_ne _ _ h, releaseAll_thread]

@[simp] theorem takeMark_cur (w : Who) (addr : BitVec 15) (s : State) : (takeMark w addr s).cur = s.cur := by
  unfold takeMark
  split
  · rfl
  · rw [State.modThread_cur, (releaseAll_rest ..).2.1]

@[simp] theorem takeMark_cycle (w : Who) (addr : BitVec 15) (s : State) : (takeMark w addr s).cycle = s.cycle := by
  unfold takeMark
  split
  · rfl
  · rw [State.modThread_cycle, (releaseAll_rest ..).2.2.1]

/-- A mark stores nothing by itself: released stores perform later. -/
theorem takeMark_mem (w : Who) (addr : BitVec 15) (s : State) :
    (takeMark w addr s).mem = s.mem ∧ (takeMark w addr s).seals = s.seals := by
  unfold takeMark
  split
  · exact ⟨rfl, rfl⟩
  · rw [State.modThread_mem, State.modThread_seals]; exact (releaseAll_rest ..).2.2.2

/-! Issue -/

theorem markedFirst_thread {o : Opts} {s : State} {t : Thread} (h : s.thread s.cur = some t) :
    ∃ t1, (markedFirst o t s).thread s.cur = some t1 ∧ t1.pc = t.pc := by
  unfold markedFirst
  split
  · exact ⟨_, ((Counts.tallySlot ..).thread _).trans (takeMark_thread _ h), rfl⟩
  · exact ⟨t, h, rfl⟩

@[simp] theorem markedFirst_cur (o : Opts) (t : Thread) (s : State) : (markedFirst o t s).cur = s.cur := by
  unfold markedFirst
  split
  · rw [(Counts.tallySlot ..).cur, takeMark_cur]
  · rfl

@[simp] theorem begun_cur (o : Opts) (t : Thread) (s : State) : (begun o t s).cur = s.cur := by simp [begun]

theorem touchAll_pc (vs : List Nat) (t : Thread) : (vs.foldl Thread.touchV t).pc = t.pc := by
  induction vs generalizing t with
  | nil => rfl
  | cons v vs ih => rw [List.foldl_cons, ih]; unfold Thread.touchV; split <;> rfl

/-- With nothing to mark, an instruction begins with its program counter advanced. -/
theorem begun_plain {o : Opts} {s : State} {t : Thread} (h : s.thread s.cur = some t) (hm : marksFirst o t = false) :
    begun o t s = s.setThread s.cur ((o.vregs.foldl Thread.touchV t).stepped o.len) := by
  simp [begun, markedFirst, hm, State.modThread_eq _ h]

theorem getT_ok {s : State} {t : Thread} (h : s.thread s.cur = some t) : getT s = .ok (t, s) := by simp [getT, h]

theorem bind_ok {α β : Type} {m : M α} {f : α → M β} {s s' : State} {a : α} (h : m s = .ok (a, s')) :
    (m >>= f) s = f a s' := by
  show (StateT.bind m f) s = _
  unfold StateT.bind
  rw [h]; rfl

theorem waits_ok {o : Opts} {s : State} {t : Thread} (h : s.thread s.cur = some t) (hm : MayIssue o t) :
    waits o s = .ok (marksFirst o t, if marksFirst o t then takeMark s.cur t.pc s else s) := by
  obtain ⟨hw, hl, hc⟩ := hm
  have hw' : (o.w && !t.outst.isEmpty) = false := by
    cases e : o.w
    · rfl
    · simp [hw e]
  have hl' : (o.long && decide (32 ≤ t.outst.length)) = false := by
    cases e : o.long
    · rfl
    · simpa using hl e
  unfold waits
  rw [bind_ok (getT_ok h)]
  simp only [hw', hl']
  unfold marksFirst
  by_cases hx : (o.commits || t.overfull o.vregs) = true
  · have : t.outst.isEmpty = true := by simp [hc hx]
    have hb : markBefore s = .ok ((), takeMark s.cur t.pc s) := by
      unfold markBefore
      rw [bind_ok (getT_ok h)]
      simp [this]
      rfl
    simp only [hx, if_true]
    exact bind_ok hb
  · simp only [Bool.not_eq_true] at hx
    simp [hx]
    rfl

/-- THE ISSUE OF AN INSTRUCTION: with its checks passed and nothing to wait for, it answers the state after its own effect. -/
theorem issue_next {o : Opts} {checks : M Unit} {body : BitVec 15 → M Unit} {s s' : State} {t : Thread}
    (h : s.thread s.cur = some t) (hc : checks s = .ok ((), s)) (hm : MayIssue o t)
    (hb : body t.pc (begun o t s) = .ok ((), s')) : issue o checks body s = .next (ended o s') := by
  obtain ⟨t1, h1, hpc⟩ := markedFirst_thread (o := o) h
  have h2 : getT (markedFirst o t s) = .ok (t1, markedFirst o t s) := getT_ok (by rw [markedFirst_cur]; exact h1)
  have e : issueM o checks body s = .ok ((), ended o s') := by
    unfold issueM
    rw [bind_ok hc, bind_ok (waits_ok h hm)]
    unfold parkedAt
    have h3 : countMark (marksFirst o t) (if marksFirst o t then takeMark s.cur t.pc s else s) = .ok ((), markedFirst o t s) := by
      unfold markedFirst countMark modS
      cases marksFirst o t
      · rfl
      · simp [takeMark_cur]
    have : (do
        countMark (marksFirst o t)
        let pc := (← getT).pc
        advance o
        body pc
        if o.commits then modT fun t => { t with committing := true }
        modS fun s => (turnTaken s).tallySlot s.cur evIssued : M Unit) (if marksFirst o t then takeMark s.cur t.pc s else s) =
          .ok ((), ended o s') := by
      rw [bind_ok h3, bind_ok h2, hpc]
      have ha : advance o (markedFirst o t s) = .ok ((), begun o t s) := by
        simp [advance, modT, begun, Thread.stepped, touchAll_pc]
      rw [bind_ok ha, bind_ok hb]
      unfold ended
      cases o.commits
      · rfl
      · show Except.ok _ = _
        simp
    rw [this]
  simp [issue, runM, e]

/-- The end of an instruction that does not commit: its slot has had its turn. -/
theorem ended_did {o : Opts} (s : State) (ho : o.commits = false) : Did s (ended o s) := by
  unfold Did ended
  simp only [ho]
  exact Counts.tallySlot ..

/-- The end of a committing instruction: its slot has had its turn, and its second mark is to come. -/
theorem ended_commits {o : Opts} (s : State) (ho : o.commits = true) :
    Did (s.modThread s.cur fun t => { t with committing := true }) (ended o s) := by
  unfold Did ended
  simp only [ho]
  exact Counts.tallySlot ..

theorem marksFirst_plain {o : Opts} (t : Thread) (ho : o.commits = false) (hv : o.vregs = []) : marksFirst o t = false := by
  simp [marksFirst, ho, hv, Thread.overfull]

/-- The issue of an instruction that neither commits nor writes vector registers. -/
theorem issue_plain {o : Opts} {checks : M Unit} {body : BitVec 15 → M Unit} {s s' : State} {t : Thread}
    (h : s.thread s.cur = some t) (ho : o.commits = false) (hv : o.vregs = []) (hw : o.w = true → t.outst = [])
    (hl : o.long = true → t.outst.length < 32) (hc : checks s = .ok ((), s))
    (hb : body t.pc (s.setThread s.cur (t.stepped o.len)) = .ok ((), s')) :
    ∃ s'', issue o checks body s = .next s'' ∧ Did s' s'' := by
  have hm := marksFirst_plain (o := o) t ho hv
  refine ⟨_, issue_next h hc ⟨hw, hl, by simp [hm]⟩ ?_, ended_did s' ho⟩
  rw [begun_plain h hm, hv]
  exact hb

/-- The issue of an instruction whose whole effect is a change of its thread. -/
theorem issue_modT {o : Opts} {checks : M Unit} {f : BitVec 15 → Thread → Thread} {s : State} {t : Thread}
    (h : s.thread s.cur = some t) (ho : o.commits = false) (hv : o.vregs = []) (hw : o.w = true → t.outst = [])
    (hl : o.long = true → t.outst.length < 32) (hc : checks s = .ok ((), s)) :
    ∃ s'', issue o checks (fun pc => modT (f pc)) s = .next s'' ∧ Did (s.setThread s.cur (f t.pc (t.stepped o.len))) s'' := by
  refine issue_plain h ho hv hw hl hc ?_
  have h2 := State.thread_setThread (t.stepped o.len) h
  simp only [modT, State.setThread_cur]
  rw [State.modThread_eq _ h2, State.setThread_setThread h]

/-- A check that fails takes its precise trap (03 R84). -/
theorem issue_trap {o : Opts} {checks : M Unit} {body : BitVec 15 → M Unit} {s : State} {e : Stop} (hc : checks s = .error e) :
    issue o checks body s = afterStop s e := by
  have : issueM o checks body s = .error e := by
    unfold issueM
    show (StateT.bind checks _) s = _
    unfold StateT.bind
    rw [hc]; rfl
  simp [issue, runM, this]

/-! Outstanding results (03 R77) -/

theorem addOutst_ok (mk : Nat → Outst) (s : State) : addOutst mk s = .ok (s.serial, addResult s mk) := rfl

/-- A long result of a fixed latency enters the outstanding ones, and its landing is due then. -/
theorem longResult_ok (s : State) (pc : BitVec 15) (latency : Nat) (dests : List (Nat × Nat)) (ws : List Write) :
    longResult pc latency dests ws s =
      .ok ((), landsLater s.serial latency phaseLand
        (addResult s fun tok => { tok := tok, pc := pc, fin := .ready ws, lands := s.cycle + latency, dests := dests })) := rfl

/-- The landing of a result that pops nothing from a taken bank is due its latency from now (07 R170). -/
theorem landsLater_eq {s : State} {t : Thread} (h : s.thread s.cur = some t) (hl : t.late = []) (tok latency phase : Nat) :
    landsLater tok latency phase s = s.schedule (s.cycle + latency) phase (.longResultLands s.cur tok) := by
  unfold landsLater
  simp [h, hl]

end Sys2Proof.Machine
end

