-- ==== Sys2Proof/Laws/Seal.lean ====
section
/-! SUPPORT. What a fresh seal says and what a stored granule reads as (01 R33, R34). -/
namespace Sys2Proof.Machine

theorem tagOf_sealOf (d : Vec) (t : BitVec 6) : tagOf (sealOf d t) = t := by
  apply BitVec.eq_of_getLsbD_eq; intro i hi
  simp only [tagOf, sealOf, BitVec.getLsbD_extractLsb', BitVec.getLsbD_append]
  simp [hi, show ¬ 26 + i < 16 by omega, show ¬ 26 + i - 16 < 9 by omega, show ¬ 26 + i - 16 - 9 < 1 by omega,
    show 26 + i - 16 - 9 - 1 = i by omega]

theorem hamming_sealOf (d : Vec) (t : BitVec 6) : (sealOf d t).extractLsb' 16 9 = hamming d := by
  apply BitVec.eq_of_getLsbD_eq; intro i hi
  simp only [sealOf, BitVec.getLsbD_extractLsb', BitVec.getLsbD_append]
  simp [hi]

theorem crc_sealOf (d : Vec) (t : BitVec 6) : (sealOf d t).extractLsb' 0 16 = crc16 d := by
  apply BitVec.eq_of_getLsbD_eq; intro i hi
  simp only [sealOf, BitVec.getLsbD_extractLsb', BitVec.getLsbD_append]
  simp [hi]

theorem parity_sealOf (d : Vec) (t : BitVec 6) :
    (sealOf d t)[25] = (parityBits 256 d.toNat != parityBits 9 (hamming d).toNat) := by
  rw [← BitVec.getLsbD_eq_getElem]; simp only [sealOf, BitVec.getLsbD_append]
  simp only [show ¬ 25 < 16 by omega, show ¬ 25 - 16 < 9 by omega, if_false, show 25 - 16 - 9 = 0 by omega, show 0 < 1 by omega, if_true]
  cases (parityBits 256 d.toNat != parityBits 9 (hamming d).toNat) <;> decide

/-- A fresh seal under a tag that a reader may expect passes its check, and the data are what was sealed (R33, R34). -/
theorem sealCheck_sealed (d : Vec) (t : BitVec 6) (ht : t.toNat < 0x17) : sealCheck (sealed d t) (some t) = .ok (d, false) := by
  have h1 : t ≠ tagPoison := by rintro rfl; simp [tagPoison] at ht
  simp [sealCheck, sealed, tagOf_sealOf, h1, hamming_sealOf, parity_sealOf, crc_sealOf, show ¬ 0x17 ≤ t.toNat by omega]

theorem sealCheck_sealed_none (d : Vec) (t : BitVec 6) (ht : t.toNat < 0x17) : sealCheck (sealed d t) none = .ok (d, false) := by
  have h1 : t ≠ tagPoison := by rintro rfl; simp [tagPoison] at ht
  simp [sealCheck, sealed, tagOf_sealOf, h1, hamming_sealOf, parity_sealOf, crc_sealOf, show ¬ 0x17 ≤ t.toNat by omega]

/-- Bytes written leave bytes read elsewhere as they were. -/
theorem Memory.readN_writeN_outside (m : Memory) (a v n b k : Nat) (h : b + k ≤ a ∨ a + n ≤ b) :
    (m.writeN a v n).readN b k = m.readN b k := by
  induction k generalizing b with
  | zero => rfl
  | succ k ih =>
    rw [Memory.readN, Memory.readN, Memory.read_writeN_outside _ _ _ _ _ (by omega), ih _ (by omega)]

/-- A granule stored leaves every other granule as it was, seal and data. -/
theorem State.granuleAt_setGranuleAt_ne (s : State) {a b : Nat} (g : Granule) (ha : a % 32 = 0) (hb : b % 32 = 0) (h : b ≠ a) :
    (s.setGranuleAt a g).granuleAt b = s.granuleAt b := by
  have hr : (s.setGranuleAt a g).mem.readN b 32 = s.mem.readN b 32 := Memory.readN_writeN_outside _ _ _ _ _ _ (by omega)
  have hs : Tab.get sealZero (s.setGranuleAt a g).seals (b / 32) = Tab.get sealZero s.seals (b / 32) := by
    rw [State.setGranuleAt, Tab.get_putD, if_neg (by omega)]
  rw [State.granuleAt, hr, hs]; rfl

end Sys2Proof.Machine
end

