-- ==== Sys2Proof/Tests/Slice0.lean ====
section
/-! SUPPORT. Tests: an ill-formed term for each check of WellFormed, a witness for the premises of every obligation, a word
for every instruction that has an encoding, and the spec's worked examples. -/

namespace Sys2Proof.Tests

open Sys2Proof.Machine Sys2Proof.Claims

/- One theorem after another: a kernel evaluation waits for all that stands before it, and many that wait together take a
thread's stack each. -/
set_option Elab.async false

/-! ## Helpers -/

/-- The fields of a 64-bit form, all zero. -/
def vf : VForm := ⟨false, 0, 0, 0, 0, false, 0, 0, 0, 0, 0⟩

/-- A thread of tile 0 slot 2 in kernel mode, with its seven segments over the tile's SRAM. -/
def thread0 : Thread :=
  { Thread.born 1 64 1 48 with
    tvec := 0x400
    seg := Vector.replicate 8 { kind := 2, rights := 31, limit := 0x3FFFF, base := 0 } }

/-- A state in which that thread stands alone, at a later cycle than reset. -/
def withThread (t : Thread) : State :=
  ({ State.reset with todo := [], cycle := 1000, serial := 500, cur := ⟨0, 2⟩ } : State).modSlot ⟨0, 2⟩
    fun sl => { sl with thread := some t }

theorem test_withThread (t : Thread) : (withThread t).thread (withThread t).cur = some t := by rfl

/-! ## Ill-formed instructions: one for each check, which the check refuses (02 R49, 08 R203, R205, R209) -/

/-- FENCE of kind 0, scopes 7, the conditions 6 and 7 of WAITC (04 R106, R107, 07 R199). -/
theorem test_ill_formed_32 : WellFormed (.fence false 0 1) = false ∧ WellFormed (.fence false 1 7) = false ∧
    WellFormed (.drain false 7) = false ∧ WellFormed (.waitc ⟨false, 1, 2, 3, 0⟩ 6) = false ∧ WellFormed (.waitc ⟨false, 1, 2, 3, 0⟩ 7) = false := by decide

/-- Round code 7 and z without a mask, in every class (02 R44, R46). -/
theorem test_ill_formed_base : WellFormed (.vaddFloat { vf with et := 8, round := 7 }) = false ∧ WellFormed (.vaddFloat { vf with et := 8, z := true }) = false ∧
    WellFormed (.vmov { vf with round := 7 }) = false ∧ WellFormed (.vld { vf with z := true }) = false ∧ WellFormed (.vld { vf with round := 2 }) = false ∧
    WellFormed (.vspk { vf with et := 9, round := 7 }) = false := by decide

/-- Element types, func values and fields that floating operations do not take; stochastic rounding to .f32 (05 R118 to R122, R126; 01 R25). -/
theorem test_ill_formed_float : WellFormed (.vaddFloat { vf with et := 11 }) = false ∧ WellFormed (.vaddFloat { vf with et := 8, imm := 1 }) = false ∧
    WellFormed (.vaddFloat { vf with et := 8, round := 5 }) = false ∧ WellFormed (.vmaxn { vf with et := 13 }) = false ∧
    WellFormed (.vsqrt { vf with et := 8, b := 1 }) = false ∧ WellFormed (.vsqrt { vf with et := 8, kb := 1 }) = false ∧
    WellFormed (.vrcp { vf with et := 8, round := 5 }) = false ∧ WellFormed (.vabs { vf with et := 8, imm := 2 }) = false ∧
    WellFormed (.vneg { vf with et := 8, imm := 1, b := 1 }) = false ∧ WellFormed (.vcmpFloat { vf with et := 8, imm := 8 }) = false ∧
    WellFormed (.vdotFloat { vf with et := 8 }) = false ∧ WellFormed (.vdotFloat { vf with et := 9, round := 5 }) = false := by decide

/-- The same of integer and bitwise operations (05 R123 to R125). -/
theorem test_ill_formed_int : WellFormed (.vaddInt { vf with et := 8 }) = false ∧ WellFormed (.vaddInt { vf with imm := 1 }) = false ∧
    WellFormed (.vand { vf with et := 9 }) = false ∧ WellFormed (.vxor { vf with imm := 3 }) = false ∧ WellFormed (.vsll { vf with et := 14 }) = false ∧
    WellFormed (.vcmpInt { vf with imm := 6 }) = false ∧ WellFormed (.vdotInt { vf with et := 2 }) = false ∧ WellFormed (.vdotInt { vf with imm := 1 }) = false := by decide

/-- The same of moves, permutations, reductions, scans and mask operations (05 R132 to R136). -/
theorem test_ill_formed_move : WellFormed (.vmov { vf with b := 1 }) = false ∧ WellFormed (.vmovm { vf with mask := 1 }) = false ∧
    WellFormed (.vmovm { vf with imm := 8 }) = false ∧ WellFormed (.vperm { vf with imm := 1 }) = false ∧ WellFormed (.vperm2 { vf with mask := 1 }) = false ∧
    WellFormed (.vslide { vf with imm := 128 }) = false ∧ WellFormed (.vsel { vf with mask := 1, z := true }) = false ∧
    WellFormed (.vred { vf with et := 2, imm := 3 }) = false ∧ WellFormed (.vred { vf with et := 8, imm := 5 }) = false ∧
    WellFormed (.vred { vf with et := 2, mask := 1, z := true }) = false ∧ WellFormed (.vscan { vf with et := 8, imm := 3 }) = false ∧
    WellFormed (.vscan { vf with et := 2, imm := 4 }) = false ∧ WellFormed (.vscan { vf with et := 8, round := 5 }) = false ∧
    WellFormed (.vbcast { vf with imm := 128 }) = false ∧ WellFormed (.kand { vf with et := 1 }) = false ∧ WellFormed (.kor { vf with imm := 0 }) = false ∧
    WellFormed (.knot { vf with imm := 4, b := 1 }) = false ∧ WellFormed (.vmovx { vf with mask := 1 }) = false ∧ WellFormed (.vmovx { vf with imm := 128 }) = false := by decide

/-- The same of vector memory, conversions and the majors after them (05 R127 to R131, R137 to R145, 04 R90, 06 R157, 08 R208, 09 R252). -/
theorem test_ill_formed_memory : WellFormed (.vst { vf with et := 12, round := 1 }) = false ∧ WellFormed (.vst { vf with b := 1 }) = false ∧
    WellFormed (.vldx { vf with et := 8 }) = false ∧ WellFormed (.vgath { vf with et := 1 }) = false ∧ WellFormed (.vscat { vf with et := 9 }) = false ∧
    WellFormed (.vstm { vf with mask := 1 }) = false ∧ WellFormed (.vcvt { vf with et := 8, imm := 16 }) = false ∧ WellFormed (.vcvt { vf with et := 8, imm := 9 }) = false ∧
    WellFormed (.vcvt { vf with et := 2, imm := 17 }) = false ∧ WellFormed (.vcvt { vf with et := 8, imm := 2, round := 5 }) = false ∧
    WellFormed (.vcvtw { vf with et := 8, imm := 8 }) = false ∧ WellFormed (.vcvtn { vf with et := 13, imm := 3 }) = false ∧
    WellFormed (.vmxq { vf with et := 8, imm := 3 }) = false ∧ WellFormed (.vspk { vf with et := 10 }) = false ∧ WellFormed (.vupk { vf with et := 9, mask := 1 }) = false ∧
    WellFormed (.tblwB { vf with imm := 512 }) = false ∧ WellFormed (.tblwS { vf with imm := 4352 }) = false ∧ WellFormed (.tblwS { vf with imm := 4096, d := 1 }) = false ∧
    WellFormed (.upatw { vf with imm := 8 }) = false ∧ WellFormed (.decomp { vf with imm := 7 }) = false ∧ WellFormed (.decomp { vf with imm := 48 }) = false ∧
    WellFormed (.scalar64Add { vf with imm := 1 }) = false ∧ WellFormed (.scalar64Maxc { vf with imm := 14, ka := 1 }) = false := by decide

/-- Stream words and slot operations (08 R203, R209, R216, R222, R224, 09 R239, R243, R244, R247, R250). -/
theorem test_ill_formed_timed : WellFormed (.align 21) = false ∧ WellFormed (.mma 0 1 1 0 0 0 0 false false) = false ∧
    WellFormed (.mma 0 0 1 12 0 0 0 false false) = false ∧ WellFormed (.mma 0 0 1 0 1 0 0 false false) = false ∧ WellFormed (.mma 0 0 1 0 0 0 0 false true) = false ∧
    WellFormed (.mmasp 0 0 1 1 false false) = false ∧ WellFormed (.mmasp 0 0 1 0 false true) = false ∧ WellFormed (.mmat 0 2 2 false false) = false ∧
    WellFormed (.vtAdd ⟨0, 0, 0, true, true⟩) = false ∧ WellFormed (.vtMax ⟨0, 0, 0, true, false⟩) = false ∧ WellFormed (.vtExp2 ⟨0, 0, 0, false, true⟩) = false ∧
    WellFormed (.vtRmax ⟨0, 0, 1, false, false⟩) = false ∧ WellFormed (.vtRsum ⟨0, 0, 1, false, false⟩) = false ∧ WellFormed (.vtCvt 0 0 1 8 0 false) = false ∧
    WellFormed (.vtCvt 0 0 9 8 2 false) = false ∧ WellFormed (.sty false 0 0 23) = false ∧ WellFormed (.sty false 0 0 62) = false ∧
    WellFormed (.agset false 0 12288) = false ∧ WellFormed (.hld false 0 0 0 0) = false ∧ WellFormed (.hst true 0 0 0 0) = false ∧
    WellFormed (.lsend 28 0 0) = false ∧ WellFormed (.lrecv 31 0 0) = false ∧ WellFormed (.lpass 0 28 0) = false ∧ WellFormed (.wopen 0 12288) = false ∧
    WellFormed (.wcloseStall 0 0) = false ∧ WellFormed (.swaph 3 0) = false ∧ WellFormed (.swaph 0 1) = false := by decide

/-- Events that name what does not exist (00 R3, R4). -/
theorem test_ill_formed_event : WellFormed (.trapEntry ⟨40960, 0⟩) = false ∧ WellFormed (.interrupt ⟨0, 8⟩) = false ∧ WellFormed (.swapBoundary 40960) = false ∧
    WellFormed (.linkGranuleArrival 0 28 0 0 false) = false ∧ WellFormed (.hostDoorbell 0 8) = false := by decide


/-! ## Witnesses: states and operands that meet the premises of every statement of the obligations -/
/-! ## Witnesses: states and operands that meet every hypothesis of a statement together -/

/-- The thread with a result outstanding. -/
def busyThread : Thread := { thread0 with outst := [{ tok := 7, pc := 60, fin := .ready [.x 3 9], lands := 1010, dests := [(0, 3)] }] }

theorem witness_ScalarArithmeticWritesItsResult :
    (∃ (i : Instr) (s : State) (t : Thread) (func : Nat) (f : _), s.thread s.cur = some t ∧ aluForm i = some (func, f) ∧ (f.w = true → t.outst = [])) ∧
    (∃ (i : Instr) (s : State) (t : Thread) (func : Nat) (w : Bool) (d : Reg) (a : Reg) (imm : Word), s.thread s.cur = some t ∧ immForm i = some (func, w, d, a, imm) ∧ (w = true → t.outst = [])) ∧
    (∃ (i : Instr) (s : State) (t : Thread) (w : Bool) (d : Reg) (v : Word), s.thread s.cur = some t ∧ product t i = some (w, d, v) ∧ (w = true → t.outst = [])) ∧
    (∃ (i : Instr) (s : State) (t : Thread) (f : _) (g : _), s.thread s.cur = some t ∧ quotient i = some (f, g) ∧ (f.w = true → t.outst = []) ∧ t.outst.length < 32) ∧
    (∃ (i : Instr) (s : State) (t : Thread) (f : _), s.thread s.cur = some t ∧ bitForm i = some f ∧ (f.w = true → t.outst = [])) ∧
    (∃ (i : Instr) (s : State) (t : Thread) (func : Nat) (f : _), s.thread s.cur = some t ∧ alu64Form i = some (func, f) ∧ (f.w = true → t.outst = []) ∧ IsX f.d ∧ IsX f.a ∧ IsX f.b) := by
  refine ⟨⟨.maxc ⟨true, 5, 6, 7⟩, withThread thread0, thread0, 0x0E, _, rfl, rfl, fun _ => rfl⟩,
    ⟨.sltci ⟨true, 5, 6, -1⟩, withThread thread0, thread0, 0x0A, _, _, _, _, rfl, rfl, fun _ => rfl⟩,
    ⟨.muli ⟨true, 0, 6, -4096⟩, withThread thread0, thread0, _, _, _, rfl, rfl, fun _ => rfl⟩,
    ⟨.remc ⟨false, 5, 6, 7⟩, withThread busyThread, busyThread, _, _, rfl, rfl, nofun, by decide⟩,
    ⟨.bins ⟨true, 31, 6, 7⟩, withThread thread0, thread0, _, rfl, rfl, fun _ => rfl⟩,
    ⟨.scalar64Maxc { vf with d := 424, a := 455, b := 425, imm := 14 }, withThread thread0, thread0, _, _, rfl, rfl, nofun, ?_⟩⟩
  unfold IsX; decide

theorem witness_ShapesAndConstants :
    (∃ (s : State) (t : Thread) (w : Bool) (a b : Reg),
      s.thread s.cur = some t ∧ (w = true → t.outst = []) ∧
      let e : Vector (BitVec 32) 4 := #v[(t.getX a).extractLsb' 0 32, (t.getX a).extractLsb' 32 32,
        (t.getX b).extractLsb' 0 32, (t.getX b).extractLsb' 32 32]
      0 ∉ e.toList) ∧
    (∃ (s : State) (t : Thread) (w : Bool) (a b : Reg),
      s.thread s.cur = some t ∧ (w = true → t.outst = []) ∧
      let e : Vector (BitVec 32) 4 := #v[(t.getX a).extractLsb' 0 32, (t.getX a).extractLsb' 32 32,
        (t.getX b).extractLsb' 0 32, (t.getX b).extractLsb' 32 32]
      0 ∈ e.toList) ∧
    (∃ (s : State) (t : Thread) (f : VForm), let c := (f.imm.extractLsb' 3 3).toNat
      s.thread s.cur = some t ∧ (f.w = true → t.outst = []) ∧ IsX f.d ∧ IsX f.a ∧ 1 ≤ c ∧ c ≤ 5 ∧ (xOf f.d).toNat + c ≤ 32) ∧
    (∃ (s : State) (t : Thread) (w : Bool) (d : OpCode), s.thread s.cur = some t ∧ (w = true → t.outst = []) ∧ IsX d) := by
  refine ⟨⟨withThread (thread0.setX 1 0x100000001), thread0.setX 1 0x100000001, true, 1, 1, rfl, fun _ => rfl, by decide⟩,
    ⟨withThread thread0, thread0, true, 1, 1, rfl, fun _ => rfl, by decide⟩,
    ⟨withThread thread0, thread0, { vf with d := 451, a := 425, imm := 0x28 }, rfl, nofun, ?_⟩,
    ⟨withThread thread0, thread0, true, 455, rfl, fun _ => rfl, ?_⟩⟩ <;> (unfold IsX; decide)

theorem witness_ControlFlowGoesWhereItSays :
    (∃ (i : Instr) (s : State) (t : Thread) (f : _) (c : _), s.thread s.cur = some t ∧ branchForm i = some (f, c) ∧ (f.w = true → t.outst = [])) ∧
    (∃ (s : State) (t : Thread) (w : Bool) (f : IForm), s.thread s.cur = some t ∧ (w = true → t.outst = []) ∧ (f.w = true → t.outst = []) ∧
      (BitVec.ofInt 15 ((t.getX f.a).toInt + f.imm.toInt)).toNat % 4 = 0) ∧
    (∃ (s : State) (t : Thread) (f : IForm), s.thread s.cur = some t ∧ (f.w = true → t.outst = []) ∧
      (BitVec.ofInt 15 ((t.getX f.a).toInt + f.imm.toInt)).toNat % 4 ≠ 0) ∧
    (∃ (s : State) (t : Thread), s.thread s.cur = some t ∧ t.outst = []) ∧
    (∃ (s : State) (t : Thread), s.thread s.cur = some t ∧ t.outst ≠ []) := by
  refine ⟨⟨.bgec ⟨true, 1, 2, -3⟩, withThread thread0, thread0, _, _, rfl, rfl, fun _ => rfl⟩,
    ⟨withThread thread0, thread0, true, ⟨true, 31, 2, -4⟩, rfl, fun _ => rfl, fun _ => rfl, by decide⟩,
    ⟨withThread thread0, thread0, ⟨true, 31, 2, 3⟩, rfl, fun _ => rfl, by decide⟩,
    ⟨withThread thread0, thread0, rfl, rfl⟩, ⟨withThread busyThread, busyThread, rfl, nofun⟩⟩

theorem witness_MarksReleaseAndComeBeforeCommits : ∃ (s : State) (w : Who) (t : Thread), s.thread w = some t ∧ s.cur = w :=
  ⟨withThread thread0, ⟨0, 2⟩, thread0, rfl, rfl⟩

theorem witness_TrapEntrySavesAndGoesToTheHandler :
    ∀ e, ∃ (s : State) (w : Who) (t : Thread), s.thread w = some t ∧ t.outst = [] ∧ t.faults = [] ∧ t.status.inh = false ∧ t.entering = e :=
  fun e => ⟨withThread { thread0 with entering := e }, ⟨0, 2⟩, { thread0 with entering := e }, rfl, rfl, rfl, rfl, rfl⟩

/-- A rollback trap and a precise one. -/
def aRollback : Trap := { code := 0x06, info := 0x40, epc := 64, fpc := 64, rollback := true }
def aTrap : Trap := { code := 0x02, info := 5, epc := 64, fpc := 64 }
def faultyThread : Thread := { thread0 with entering := some aTrap, faults := [(499, aRollback), (480, aRollback)] }

theorem witness_FaultsAreCollectedAndTrapsWait :
    (∃ (s : State) (w : Who) (t : Thread) (first : Trap) (n : Nat) (tr : Trap),
      s.thread w = some t ∧ t.entering = some first ∧ t.status.inh = false ∧ (n, tr) ∈ t.faults ∧ tr.rollback = true ∧
      tr.async = false ∧ ∀ p ∈ t.faults, p ≠ (n, tr) → n < p.1) ∧
    (∃ (s : State) (w : Who) (t : Thread), s.thread w = some t ∧ t.outst = [] ∧ t.faults = [] ∧ t.status.inh = true) ∧
    (∃ (s : State) (w : Who) (t : Thread), s.thread w = some t ∧ t.outst ≠ []) := by
  refine ⟨⟨withThread faultyThread, ⟨0, 2⟩, faultyThread, aTrap, 480, aRollback, rfl, rfl, rfl, by decide, rfl, rfl, by decide⟩,
    ⟨withThread { thread0 with status := { mode := 1, inh := true } }, ⟨0, 2⟩, _, rfl, rfl, rfl, rfl⟩,
    ⟨withThread busyThread, ⟨0, 2⟩, busyThread, rfl, nofun⟩⟩

def userThread : Thread := { thread0 with status := { mode := 0 } }
def firmwareThread : Thread := { thread0 with status := { mode := 3 } }

theorem witness_TrapsPrivilegeAndReturn :
    (∃ (s : State) (t : Thread), s.thread s.cur = some t ∧ t.outst = [] ∧ 1 ≤ t.status.mode.toNat) ∧
    (∃ (i : Instr) (s : State) (t : Thread), s.thread s.cur = some t ∧ kernelOnly i ∧ t.status.mode = 0) := by
  refine ⟨⟨withThread thread0, thread0, rfl, rfl, by decide⟩, ⟨.segw false 1 2 3, withThread userThread, userThread, rfl, trivial, rfl⟩⟩

theorem witness_CrrReadsTheRegister :
    (∃ (s : State) (t : Thread) (r : BitVec 12) (m : Nat) (v : Word), s.thread s.cur = some t ∧ crValue s s.cur t r.toNat = some (m, v) ∧
      m ≤ t.status.mode.toNat) ∧
    (∃ (s : State) (t : Thread) (r : BitVec 12) (m : Nat) (v : Word), s.thread s.cur = some t ∧ crValue s s.cur t r.toNat = some (m, v) ∧
      t.status.mode.toNat < m) ∧
    (∃ (s : State) (t : Thread) (r : BitVec 12), s.thread s.cur = some t ∧ crValue s s.cur t r.toNat = none) := by
  refine ⟨⟨withThread userThread, userThread, 0x026, _, _, rfl, rfl, by decide⟩,
    ⟨withThread thread0, thread0, 0x006, _, _, rfl, rfl, by decide⟩, ⟨withThread thread0, thread0, 0x028, rfl, rfl⟩⟩

theorem witness_CrwWritesTheRegister :
    (∃ (s : State) (t : Thread) (r : BitVec 12) (a : Reg) (m : Nat) (t' : Thread), s.thread s.cur = some t ∧
      crWritten (t.stepped 4) (t.getX a) r.toNat = some (m, t') ∧ m ≤ t.status.mode.toNat ∧ r ≠ 0 ∧ plainCr r.toNat ∧ t.outst ≠ []) ∧
    (∃ (s : State) (t : Thread) (r : BitVec 12) (a : Reg) (m : Nat) (t' : Thread), s.thread s.cur = some t ∧
      crWritten (t.stepped 4) (t.getX a) r.toNat = some (m, t') ∧ m ≤ t.status.mode.toNat ∧ r = 0 ∧
      (t.getX a).toNat / 4 % 4 = 3 ∧ t.status.mode = 3 ∧ ¬ plainCr r.toNat ∧ t.outst = []) ∧
    (∃ (s : State) (t : Thread) (r : BitVec 12) (a : Reg) (m : Nat) (t' : Thread), s.thread s.cur = some t ∧
      crWritten t (t.getX a) r.toNat = some (m, t') ∧ t.status.mode.toNat < m) ∧
    (∃ (s : State) (t : Thread) (r : BitVec 12) (a : Reg), s.thread s.cur = some t ∧
      crWritten t (t.getX a) r.toNat = none ∧ crValue s s.cur t r.toNat ≠ none) ∧
    (∃ (s : State) (t : Thread) (r : BitVec 12), s.thread s.cur = some t ∧ crValue s s.cur t r.toNat = none) ∧
    (∃ (s : State) (t : Thread) (a : Reg), s.thread s.cur = some t ∧ 1 ≤ t.status.mode.toNat ∧ t.outst = [] ∧ (t.getX a).toNat / 4 % 4 = 2) ∧
    (∃ (s : State) (t : Thread) (a : Reg), s.thread s.cur = some t ∧ 1 ≤ t.status.mode.toNat ∧ t.outst = [] ∧ (t.getX a).toNat / 4 % 4 = 3 ∧
      t.status.mode ≠ 3) := by
  refine ⟨⟨withThread busyThread, busyThread, 0x012, 1, _, _, rfl, rfl, by decide, by decide, by unfold plainCr; decide, nofun⟩,
    ⟨withThread (firmwareThread.setX 1 12), firmwareThread.setX 1 12, 0, 1, _, _, rfl, rfl, by decide, by decide, by decide, rfl, by unfold plainCr; decide, rfl⟩,
    ⟨withThread thread0, thread0, 0x006, 1, _, _, rfl, rfl, by decide⟩,
    ⟨withThread thread0, thread0, 0x027, 1, rfl, rfl, nofun⟩,
    ⟨withThread thread0, thread0, 0x00A, rfl, rfl⟩,
    ⟨withThread (thread0.setX 1 8), thread0.setX 1 8, 1, rfl, by decide⟩,
    ⟨withThread (thread0.setX 1 12), thread0.setX 1 12, 1, rfl, by decide⟩⟩

theorem witness_WfiWaitsAndSegwWrites :
    (∃ (s : State) (t : Thread) (w : Bool), s.thread s.cur = some t ∧ (w = true → t.outst = []) ∧ t.ipend &&& t.ienable = 0) ∧
    (∃ (s : State) (t : Thread) (w : Bool), s.thread s.cur = some t ∧ (w = true → t.outst = []) ∧ t.ipend &&& t.ienable ≠ 0) ∧
    (∃ (s : State) (t : Thread) (a b : Reg), s.thread s.cur = some t ∧ 1 ≤ t.status.mode.toNat ∧ SegLegal (t.getX a) (t.getX b) ∧ t.outst = []) ∧
    (∃ (s : State) (t : Thread) (a b : Reg), s.thread s.cur = some t ∧ 1 ≤ t.status.mode.toNat ∧ ¬ SegLegal (t.getX a) (t.getX b)) := by
  unfold SegLegal
  refine ⟨⟨withThread thread0, thread0, true, rfl, fun _ => rfl, by decide⟩,
    ⟨withThread { thread0 with ipend := 0x80, ienable := 0xFF }, _, true, rfl, fun _ => rfl, by decide⟩,
    ⟨withThread (thread0.setX 2 0x2F8000000005FFFF), thread0.setX 2 0x2F8000000005FFFF, 1, 2, rfl, by decide, by decide, rfl⟩,
    ⟨withThread (thread0.setX 2 0x2F80000000060000), thread0.setX 2 0x2F80000000060000, 1, 2, rfl, by decide, by decide⟩⟩

/-- A segment over the tile's SRAM, a smaller one, one into virtual memory, and one without rights. -/
def sramSeg : Seg := { kind := 2, rights := 31, limit := 0x3FFFF, base := 0 }
def smallSeg : Seg := { kind := 2, rights := 31, limit := 63, base := 1 }
def farSeg : Seg := { kind := 1, rights := 15, limit := 0xFFFF, base := 0x1000 }
def blindSeg : Seg := { kind := 2, rights := 0, limit := 0x3FFFF, base := 0 }
def segThread : Thread :=
  { thread0 with seg := #v[sramSeg, smallSeg, farSeg, blindSeg, sramSeg, sramSeg, sramSeg, sramSeg] }
/-- The tile's first bank is timed-owned, with no window open; or a lock covers its first granule. -/
def shut (s : State) : State := s.modTile 0 fun u => { u with banks := 1 }
def lockedTile (s : State) : State := s.modTile 0 fun u => { u with locks := [(0, { virt := false, lock := 2, owner := 0, ident := 0, first := 0, last := 31 })] }

theorem witness_ScalarAccessTraps :
    let start (i : Instr) (s : State) (t : Thread) (need : Need) (n : BitVec 3) (off size : Nat) (w : Bool) : Prop :=
      s.thread s.cur = some t ∧ pieceForm t i = some (need, n, off, size, w) ∧ t.outst = [] ∧ t.gated = []
    let passes (s : State) (g : Seg) (need : Need) (off size : Nat) : Prop :=
      RightsOk s g need off ∧ off + size ≤ g.limit.toNat + 1 ∧ g.addr off % size = 0 ∧ g.kind = 2
    (∃ i s t need n off size w, start i s t need n off size w ∧ ¬ RightsOk s (t.getSeg n) need off) ∧
    (∃ i s t need n off size w, start i s t need n off size w ∧ RightsOk s (t.getSeg n) need off ∧ (t.getSeg n).limit.toNat + 1 < off + size) ∧
    (∃ i s t need n off size w, start i s t need n off size w ∧ RightsOk s (t.getSeg n) need off ∧ off + size ≤ (t.getSeg n).limit.toNat + 1 ∧
      (t.getSeg n).addr off % size ≠ 0) ∧
    (∃ i s t need n off size w, start i s t need n off size w ∧ passes s (t.getSeg n) need off size ∧
      (s.tile s.cur.tile).shutGranule ((t.getSeg n).addr off) size ≠ none) ∧
    (∃ i s t need n off size w, start i s t need n off size w ∧ passes s (t.getSeg n) need off size ∧
      (s.tile s.cur.tile).shutGranule ((t.getSeg n).addr off) size = none ∧
      (s.tile s.cur.tile).locked false need.writes ((t.getSeg n).addr off) ((t.getSeg n).addr off + size - 1) = true) := by
  refine ⟨⟨.ldc32 ⟨true, 4, 3, 0, 0⟩, withThread segThread, segThread, _, _, _, _, _, ⟨rfl, rfl, rfl, rfl⟩, ?_⟩,
    ⟨.st16 ⟨true, 4, 1, 0, 32⟩, withThread segThread, segThread, _, _, _, _, _, ⟨rfl, rfl, rfl, rfl⟩, ?_⟩,
    ⟨.ld64 ⟨true, 4, 1, 0, 0⟩, withThread segThread, segThread, _, _, _, _, _, ⟨rfl, rfl, rfl, rfl⟩, ?_⟩,
    ⟨.cas32 ⟨true, 4, 0, 5, 0⟩, shut (withThread segThread), segThread, _, _, _, _, _, ⟨rfl, rfl, rfl, rfl⟩, ?_⟩,
    ⟨.ld8 ⟨true, 4, 0, 0, 31⟩, lockedTile (withThread segThread), segThread, _, _, _, _, _, ⟨rfl, rfl, rfl, rfl⟩, ?_⟩⟩ <;>
  (unfold RightsOk; decide)

theorem witness_ScalarLoadsAndStoresIssue :
    (∃ (i : Instr) (s : State) (t : Thread) (size : Nat) (signed : Bool) (f : MForm),
      s.thread s.cur = some t ∧ loadForm i = some (size, signed, f) ∧ (f.w = true → t.outst = []) ∧ t.outst.length < 32 ∧
      PieceOk s (t.getSeg f.seg) .read ((t.getX f.base).toNat + f.off.toNat * size) size) ∧
    (∃ (i : Instr) (s : State) (t : Thread) (size : Nat) (f : MForm),
      s.thread s.cur = some t ∧ storeForm i = some (size, f) ∧ (f.w = true → t.outst = []) ∧
      PieceOk s (t.getSeg f.seg) .write ((t.getX f.base).toNat + f.off.toNat * size) size ∧ t.gated.length ≤ 64 ∧
      ((t.getSeg f.seg).kind = 1 → t.outst.length < 32)) := by
  refine ⟨⟨.ld64 ⟨true, 4, 0, 3, 1023⟩, withThread segThread, segThread, 8, true, _, rfl, rfl, fun _ => rfl, by decide, ?_⟩,
    ⟨.st8 ⟨true, 4, 2, 3, 0⟩, withThread segThread, segThread, 1, _, rfl, rfl, fun _ => rfl, ?_, by decide, fun _ => by decide⟩⟩ <;>
  (unfold PieceOk RightsOk OwnOpen; decide)

/-- A store buffer at its capacity. -/
def fullThread : Thread := { segThread with gated := (List.range 64).map fun i => { key := .own (32 * i), loc := none, data := 0, mask := 1, tag := none } }

theorem witness_ScalarStoreFull : ∃ (s : State) (t : Thread) (f : MForm), s.thread s.cur = some t ∧ storeForm (.st64 f) = some (8, f) ∧
    PieceOk s (t.getSeg f.seg) .write ((t.getX f.base).toNat + f.off.toNat * 8) 8 ∧ t.outst = [] ∧ t.gated.length = 64 ∧
    t.gated.all (fun e => e.key ≠ (t.getSeg f.seg).key ((t.getSeg f.seg).addr ((t.getX f.base).toNat + f.off.toNat * 8))) = true :=
  ⟨withThread fullThread, fullThread, ⟨true, 4, 0, 3, 1023⟩, rfl, rfl, by unfold PieceOk RightsOk OwnOpen; decide, rfl, rfl, by decide⟩

theorem witness_BufferLoadsAndAtomicsIssue :
    (∃ (s : State) (t : Thread) (n : BitVec 3) (base : Reg) (imm : BitVec 10), s.thread s.cur = some t ∧ t.outst = [] ∧ n ≠ 7 ∧
      PieceOk s (t.getSeg 7) .read ((t.getX base).toNat + imm.toNat * 32) 32 ∧ ((t.getX base).toNat + imm.toNat * 32) % 32 = 0) ∧
    (∃ (s : State) (t : Thread) (f : AtForm), s.thread s.cur = some t ∧ t.outst = [] ∧
      let g := t.getSeg f.seg
      let count := (t.getX f.d).toNat
      let off := (t.getX f.a).toNat
      count = 1024 ∧ RightsOk s g .execute off ∧ off + 32 * count ≤ g.limit.toNat + 1 ∧ off % 32 = 0 ∧
      (t.getX f.b).toNat % 32768 % 32 = 0 ∧ g.addr off % 32 = 0 ∧ (g.kind = 2 → OwnOpen s .execute (g.addr off) (32 * count))) ∧
    (∃ (i : Instr) (s : State) (t : Thread) (op : Nat) (wide : Bool) (f : AtForm), s.thread s.cur = some t ∧
      atomicForm i = some (op, wide, f) ∧ t.outst = [] ∧
      PieceOk s (t.getSeg f.seg) .atomic (t.getX f.a).toNat (if wide then 8 else 4)) := by
  refine ⟨⟨withThread segThread, segThread, 6, 3, 1023, rfl, rfl, ?_⟩,
    ⟨withThread (segThread.setX 4 1024), segThread.setX 4 1024, ⟨true, 4, 0, 5, 0⟩, rfl, rfl, rfl, ?_⟩,
    ⟨.afadd ⟨true, 4, 9, 5, 0⟩, withThread segThread, segThread, _, _, _, rfl, rfl, rfl, ?_⟩⟩ <;>
  (first | (unfold PieceOk RightsOk OwnOpen; decide) | (unfold RightsOk OwnOpen; decide +kernel))

/-- A thread with a store on its way. -/
def waiting (s : State) : State :=
  { s with accs := [{ id := 3, who := ⟨0, 2⟩, thread := 1, key := .own 0, loc := some (.sram 0 0), kind := .release 0 1 none }] }

theorem quiet_of {s : State} {t : Thread} (g : t.gated = []) (h : s.accs = []) : Quiet s t := ⟨g, fun a m => by simp [h] at m⟩

theorem witness_FenceAndDrainWait :
    (∃ (s : State) (t : Thread), s.thread s.cur = some t ∧ t.outst = [] ∧ Quiet s t) ∧
    (∃ (s : State) (t : Thread) (scope : BitVec 3), s.thread s.cur = some t ∧ t.outst = [] ∧ scope = 6 ∧
      pendingWithin (begun { commits := true } t s) s.cur t.serial scope.toNat = false) ∧
    (∃ (s : State) (t : Thread) (scope : BitVec 3), s.thread s.cur = some t ∧ t.outst = [] ∧ scope = 1 ∧
      pendingWithin (begun { commits := true } t s) s.cur t.serial scope.toNat = true) := by
  refine ⟨⟨withThread thread0, thread0, rfl, rfl, quiet_of rfl rfl⟩, ⟨withThread thread0, thread0, 6, rfl, rfl, rfl, ?_⟩,
    ⟨waiting (withThread thread0), thread0, 1, rfl, rfl, rfl, ?_⟩⟩ <;> decide

theorem witness_VectorInstructionOnRegisters :
    (∃ (i : Instr) (s : State) (t t1 : Thread) (l : Lane),
      s.thread s.cur = some t ∧ laneForm i = some l ∧ l.Legal t i ∧ l.f.d.toNat < 384 ∧ IsReg t l.f.a l.f.ka ∧ IsReg t l.b l.kb ∧
      MayIssue l.opts t ∧ (begun l.opts t s).thread s.cur = some t1 ∧ l.latency = none) ∧
    (∃ (i : Instr) (s : State) (t t1 : Thread) (l : Lane),
      s.thread s.cur = some t ∧ laneForm i = some l ∧ l.Legal t i ∧ l.f.d.toNat < 384 ∧ IsReg t l.f.a l.f.ka ∧ IsReg t l.b l.kb ∧
      MayIssue l.opts t ∧ (begun l.opts t s).thread s.cur = some t1 ∧ l.latency = some 38) ∧
    (∃ (s : State) (t t1 : Thread) (l : Lane) (f : VForm), f.imm.toNat = 31 ∧
      s.thread s.cur = some t ∧ laneForm (.vbcast f) = some l ∧ l.Legal t (.vbcast f) ∧ l.f.d.toNat < 384 ∧ IsReg t l.f.a l.f.ka ∧
      IsReg t l.b l.kb ∧ MayIssue l.opts t ∧ (begun l.opts t s).thread s.cur = some t1) := by
  refine ⟨⟨.vfma { vf with d := 47, a := 2, b := 455, et := 8 }, withThread thread0, thread0, _, _, rfl, rfl, ?_, by decide, ?_, ?_, ?_, rfl, rfl⟩,
    ⟨.vdiv { vf with d := 0, a := 2, b := 3, et := 9, round := 5, mask := 1, z := true }, withThread thread0, thread0, _, _, rfl, rfl, ?_, by decide, ?_, ?_, ?_, rfl, rfl⟩,
    ⟨withThread thread0, thread0, _, _, { vf with d := 0, a := 2, et := 0, imm := 31 }, rfl, rfl, rfl, ?_, by decide, ?_, ?_, ?_, rfl⟩⟩ <;>
  (first | (unfold Lane.Legal IsX; decide) | (unfold IsReg IsX; decide) | (unfold MayIssue; decide))

/-- A computation that answers a value. -/
def answers {ε α : Type} (r : Except ε α) : Bool := match r with
  | .ok _ => true
  | .error _ => false
/-- A computation that answers a value, of which something holds. -/
def answersWith {ε α : Type} (r : Except ε α) (f : α → Bool) : Bool := match r with
  | .ok x => f x
  | .error _ => false

/-- Queue 0 with two places, its first granule held. -/
def queued (s : State) : State :=
  (s.setGranule (.sram 0 0) (sealed 5 0x04)).modTile 0 fun u => u.setQueue 0 { cfg := 0xFFFF01000000, head := 0, tail := 1, count := 1 }

theorem witness_VectorInstructionOnAnyOperands :
    (∃ (i : Instr) (s : State) (t : Thread) (l : Lane), s.thread s.cur = some t ∧ laneForm i = some l ∧ l.Legal t i ∧ MayIssue l.opts t ∧
      answersWith (readOperands t.pc l.sw l.tag l.f.d l.f.a l.f.ka l.b l.kb (begun l.opts t s)) (fun ((a, b, lat), s1) =>
        answers (putVector t.pc l.f.d (if l.latency.isSome then l.latency else lat) 0 0 l.f.z (tagOfEt l.f.et) (l.flags t a b 0)
          (s1.modThread s.cur fun u => { u with gen := l.gen t }))) = true) ∧
    (∃ (i : Instr) (s : State) (t : Thread) (func : Nat) (f : VForm),
      let o : Opts := { w := f.w, len := 8, long := slowSource f.a || slowSource f.b, commits := commitsBy f.d f.a f.b }
      s.thread s.cur = some t ∧ alu64Form i = some (func, f) ∧ operandOk t [.x, .q, .s, .n] f.d 0 = true ∧
      operandOk t [.x, .q, .s] f.a 0 = true ∧ operandOk t [.x, .q, .s] f.b 0 = true ∧ MayIssue o t ∧
      answersWith (readOperands t.pc 64 0x05 f.d f.a 0 f.b 0 (begun o t s)) (fun ((a, b, lat), s1) =>
        answers (putScalar t.pc f.d lat (alu func (a.extractLsb' 0 64) (b.extractLsb' 0 64)) s1)) = true) := by
  refine ⟨⟨.vaddInt { vf with d := 3, a := 384, b := 2, et := 2 }, queued (withThread thread0), thread0, _, rfl, rfl, ?_, ?_, ?_⟩,
    ⟨.scalar64Add { vf with d := 384, a := 424, b := 425 }, queued (withThread thread0), thread0, _, _, rfl, rfl, ?_, ?_, ?_, ?_, ?_⟩⟩ <;>
  (first | (unfold Lane.Legal; decide) | (unfold MayIssue; decide) | decide +kernel)

theorem witness_DecodeOfEncodeIsTheInstruction :
    (∃ (i : Instr) (bytes rest : List Byte), WellFormed i = true ∧ encode i = some bytes ∧ rest ≠ []) ∧
    (∃ (bytes rest : List Byte) (i : Instr), decode bytes = .ok (i, rest) ∧ rest ≠ []) :=
  ⟨⟨.vmulFloat ⟨false, 7, 2, 426, 1, true, 0, 0, 8, 6, 0⟩, _, [1], rfl, rfl, nofun⟩,
    ⟨[0x00, 0xC7, 0x14, 0x00, 5], [5], .add ⟨false, 5, 6, 7⟩, rfl, nofun⟩⟩

theorem witness_StreamWordsAndSlotFieldsRoundTrip :
    (∃ (i : Instr) (w : BitVec 16) (more : Option (BitVec 16)), WellFormed i = true ∧ encodeStream i = some (w, more) ∧ more ≠ none) ∧
    (∃ (i : Instr) (w : BitVec 16) (more : Option (BitVec 16)), WellFormed i = true ∧ encodeStream i = some (w, more) ∧ more = none) ∧
    (∃ (w second : BitVec 16) (i : Instr), decodeStream w second = some i) ∧ ∃ o : SlotOp, o.ok = true :=
  ⟨⟨.brp 2 5 (-2), _, _, rfl, rfl, nofun⟩, ⟨.align 20, _, _, rfl, rfl, rfl⟩, ⟨0b00_000000011_00100, 0, _, rfl⟩,
    ⟨.hld true 2 3 4 64, rfl⟩⟩

/-- Slot 2's turn, on a cycle that is 2 modulo the rotation's width. -/
def turning (t : Thread) : State := { withThread t with cycle := 1002 }
/-- The same with a byte of the instruction store set, where the thread stands. -/
def storing (a : Nat) (b : Byte) (t : Thread) : State := (turning t).modTile 0 fun u => { u with istore := [(a, b)] }

theorem witness_StepRunsTheDecodedInstruction :
    (∃ (s : State) (w : Who) (t : Thread) (i : Instr) (rest : List Byte), TurnOf s w t ∧ t.asyncs = [] ∧ t.committing = false ∧
      t.wait = none ∧ t.interruptible = false ∧ decode (fetchBytes (s.tile w.tile) t.pc) = .ok (i, rest)) ∧
    (∃ (s : State) (w : Who) (t : Thread) (e : DecodeError), TurnOf s w t ∧ t.asyncs = [] ∧ t.committing = false ∧
      t.wait = none ∧ t.interruptible = false ∧ decode (fetchBytes (s.tile w.tile) t.pc) = .error e) := by
  refine ⟨⟨turning thread0, ⟨0, 2⟩, thread0, .add ⟨false, 0, 0, 0⟩, [0, 0, 0, 0], ?_, rfl, rfl, rfl, rfl, rfl⟩,
    ⟨storing 64 0x0F thread0, ⟨0, 2⟩, thread0, .illegalOpcode, ?_, rfl, rfl, rfl, rfl, rfl⟩⟩ <;>
  exact ⟨rfl, nofun, nofun, by decide, rfl⟩

def stoppedThread : Thread := { thread0 with asyncs := [{ code := 0x16, info := 0, epc := 0, fpc := 0 }] }
def committedThread : Thread := { busyThread with committing := true }
def interruptedThread : Thread := { thread0 with ipend := 4, ienable := 4, status := { mode := 1, ie := true } }
def sleepingThread : Thread := { thread0 with wait := some .wfi, ipend := 4, ienable := 3 }

def watchingThread (u : Option Nat) (reading : Bool) : Thread :=
  { thread0 with wait := some (.word 64 (.own 0) 0 0 5 3 4 u reading false) }
/-- The thread with an interrupt that may be taken, or without. -/
def signalled (b : Bool) (t : Thread) : Thread := { t with ipend := 4, ienable := 4, status := { mode := 1, ie := b } }

theorem witness_BoundaryComesBeforeTheInstruction :
    (∃ (s : State) (w : Who) (t : Thread) (tr : Trap) (rest : List Trap), TurnOf s w t ∧ t.asyncs = tr :: rest ∧ t.status.inh = false ∧
      t.interruptible = false) ∧
    (∃ (s : State) (w : Who) (t : Thread), TurnOf s w t ∧ t.asyncs ≠ [] ∧ t.interruptible = true) ∧
    (∀ b, ∃ (s : State) (w : Who) (t : Thread), TurnOf s w t ∧ t.asyncs = [] ∧ t.committing = true ∧ t.outst ≠ [] ∧ t.interruptible = b) ∧
    (∀ b, ∃ (s : State) (w : Who) (t : Thread) (x : Wait), TurnOf s w t ∧ t.asyncs = [] ∧ t.committing = false ∧ t.wait = some x ∧ x ≠ .wfi ∧
      t.interruptible = b) ∧
    (∃ (s : State) (w : Who) (t : Thread), TurnOf s w t ∧ t.asyncs = [] ∧ t.committing = false ∧ t.wait = none ∧
      t.interruptible = true ∧ beganPrecise w (runFetched w t { s with cur := w }) = false) ∧
    (∃ (s : State) (w : Who) (t : Thread), TurnOf s w t ∧ t.asyncs = [] ∧ t.committing = false ∧ t.wait = some .wfi ∧
      t.ipend &&& t.ienable = 0) := by
  refine ⟨⟨turning stoppedThread, ⟨0, 2⟩, stoppedThread, _, _, ?_, rfl, rfl, rfl⟩,
    ⟨turning { interruptedThread with asyncs := stoppedThread.asyncs }, ⟨0, 2⟩, { interruptedThread with asyncs := stoppedThread.asyncs }, ?_, nofun, by decide⟩,
    fun b => ⟨turning (signalled b committedThread), ⟨0, 2⟩, signalled b committedThread, ?_, rfl, rfl, nofun, by cases b <;> rfl⟩,
    fun b => ⟨turning (signalled b (watchingThread none true)), ⟨0, 2⟩, signalled b (watchingThread none true), _, ?_, rfl, rfl, rfl, nofun, by cases b <;> rfl⟩,
    ⟨turning interruptedThread, ⟨0, 2⟩, interruptedThread, ?_, rfl, rfl, rfl, by decide, by decide +kernel⟩,
    ⟨turning sleepingThread, ⟨0, 2⟩, sleepingThread, ?_, rfl, rfl, rfl, by decide⟩⟩ <;>
  first | exact ⟨rfl, nofun, nofun, by decide, rfl⟩ | (cases b <;> exact ⟨rfl, nofun, nofun, by decide, rfl⟩)

/-- A sequencer at a word, in the first tile. -/
def sequencing (w : BitVec 16) : State :=
  { State.reset.withStream w 0 with todo := [] }

theorem witness_StepRunsWhatIsDue :
    (∃ (s : State) (tile : Nat) (o : SlotOp) (i : Instr) (rest : List Todo), IsSlot i o ∧ s.todo = .slot tile o :: rest) ∧
    (∃ (s : State) (e : Event) (i : Instr) (rest : List Todo), IsEvent i e ∧ s.todo = .event e :: rest) ∧
    (∃ (s : State) (e : Event) (i : Instr) (c : Nat) (rest : List (Nat × Event)), IsEvent i e ∧ s.todo = [] ∧
      s.inputs = (c, e) :: rest ∧ c ≤ s.cycle) ∧
    (∃ (s : State) (e : Event) (i : Instr) (d : Due) (rest : List Due), IsEvent i e ∧ s.todo = [] ∧
      (∀ c ∈ s.inputs.head?, s.cycle < c.1) ∧ s.pend = d :: rest ∧ d.ev = e ∧ d.due ≤ s.cycle) ∧
    (∃ (s : State) (tile : Nat) (i : Instr), s.todo = [] ∧ (∀ c ∈ s.inputs.head?, s.cycle < c.1) ∧ (∀ d ∈ s.pend.head?, s.cycle < d.due) ∧
      nextAgent s = some (.sequencer tile) ∧ (s.tile tile).timed.seqr = .word ∧ (s.tile tile).timed.swap = false ∧
      decodeStream ((s.tile tile).timed.word (s.tile tile).timed.files.ptr)
        ((s.tile tile).timed.word ((s.tile tile).timed.files.ptr + 1)) = some i ∧
      (isControl i = true → (s.tile tile).timed.controls < maxControls)) ∧
    (∃ (s : State), s.todo = [] ∧ (∀ c ∈ s.inputs.head?, s.cycle < c.1) ∧ (∀ d ∈ s.pend.head?, s.cycle < d.due) ∧ nextAgent s = none) := by
  refine ⟨⟨{ State.reset with todo := [.slot 0 (.mzero 1)] }, 0, .mzero 1, .mzero 1, _, rfl, rfl⟩,
    ⟨State.reset, .boot, .boot, _, rfl, rfl⟩,
    ⟨{ withThread thread0 with inputs := [(1000, .jobRecordTake)] }, .jobRecordTake, .jobRecordTake, _, _, rfl, rfl, rfl, by decide⟩,
    ⟨{ withThread thread0 with pend := [{ due := 1000, phase := 0, ev := .trapEntry ⟨0, 2⟩ }], inputs := [(1001, .jobRecordTake)] },
      .trapEntry ⟨0, 2⟩, .trapEntry ⟨0, 2⟩, _, _, rfl, rfl, by decide, rfl, rfl, by decide⟩,
    ⟨sequencing 0b11_00101_000_10_0101, 0, .brp 2 5 0, rfl, nofun, nofun, by decide, rfl, rfl, rfl, by decide⟩,
    ⟨withThread thread0, rfl, nofun, nofun, by decide⟩⟩

/-- An outcome that is a next state. -/
def goesOn (r : Host.Outcome State Fault Refusal) : Bool := match r with
  | .next _ => true
  | _ => false
theorem goesOn_next {r : Host.Outcome State Fault Refusal} (h : goesOn r = true) : ∃ s', r = .next s' := by
  cases r <;> simp_all [goesOn]

theorem witness_StepKeepsMemoryCanonical : ∃ s s' : State, MemoryCanonical s ∧ s.mem ≠ [] ∧ step s = .next s' := by
  obtain ⟨s', h⟩ := goesOn_next (r := step (queued (turning thread0))) (by decide +kernel)
  exact ⟨_, s', by unfold MemoryCanonical; decide +kernel, by decide +kernel, h⟩

theorem witness_ComparisonsMasksAndMoves :
    (∃ (i : Instr) (s : State) (t : Thread) (f : VForm) (holds : Nat → Nat → Bool × Flags),
      let o : Opts := { w := f.w, len := 8, long := slowSource f.a || slowSource f.b, commits := commitsBy 0 f.a f.b }
      s.thread s.cur = some t ∧ compareForm i = some (f, holds) ∧ WellFormed i = true ∧ 1 ≤ f.d.toNat ∧ f.d.toNat ≤ 7 ∧
      operandOk t srcKinds f.a f.ka = true ∧ operandOk t srcKinds f.b f.kb = true ∧ MayIssue o t ∧
      answersWith (readOperands t.pc (etBits f.et) (tagOfEt f.et) 0 f.a f.ka f.b f.kb (begun o t s))
        (fun x => (x.2.thread s.cur).isSome) = true) ∧
    (∃ (i : Instr) (s : State) (t : Thread) (f : VForm) (unary : Bool) (g : BitVec 32 → BitVec 32 → BitVec 32),
      s.thread s.cur = some t ∧ (f.w = true → t.outst = []) ∧ maskForm i = some (f, unary, g) ∧ 1 ≤ f.d.toNat ∧ f.d.toNat ≤ 7 ∧
      f.a.toNat < 8 ∧ (unary = true ∨ f.b.toNat < 8)) ∧
    (∃ (s : State) (t : Thread) (f : VForm), s.thread s.cur = some t ∧ (f.w = true → t.outst = []) ∧ 1 ≤ f.d.toNat ∧ f.d.toNat ≤ 7 ∧ IsX f.a) ∧
    (∃ (s : State) (t : Thread) (f : VForm), s.thread s.cur = some t ∧ (f.w = true → t.outst = []) ∧ IsX f.d ∧ f.a.toNat < 8) ∧
    (∃ (s : State) (t : Thread) (f : VForm), s.thread s.cur = some t ∧ (f.w = true → t.outst = []) ∧ IsX f.d ∧ f.a.toNat < 384 ∧
      f.a.toNat < t.window ∧ f.ka = 0 ∧ f.imm.toNat % 128 < 256 / etBits f.et) := by
  refine ⟨⟨.vcmpInt { vf with d := 7, a := 384, b := 47, et := 2, imm := 5 }, queued (withThread thread0), thread0, _, _, rfl, rfl, rfl, by decide, by decide, by decide, by decide,
      by unfold MayIssue; decide, by decide +kernel⟩,
    ⟨.kmov { vf with d := 7, a := 0, imm := 5 }, withThread thread0, thread0, _, _, _, rfl, by decide, rfl, by decide, by decide, by decide, .inl rfl⟩,
    ⟨withThread thread0, thread0, { vf with d := 1, a := 455 }, rfl, nofun, by unfold IsX; decide⟩,
    ⟨withThread thread0, thread0, { vf with d := 424, a := 7 }, rfl, nofun, by unfold IsX; decide⟩,
    ⟨withThread thread0, thread0, { vf with d := 424, a := 47, imm := 3, et := 3 }, rfl, nofun, by unfold IsX; decide⟩⟩

theorem witness_ReductionsAndScans :
    (∃ (s : State) (t : Thread) (f : VForm),
      let o : Opts := { w := f.w, len := 8, long := slowSource f.a, commits := commitsBy f.d f.a 424, vregs := vDest f.d }
      s.thread s.cur = some t ∧ operandOk t [.x, .v, .q, .s, .n] f.d 0 = true ∧ operandOk t srcKinds f.a f.ka = true ∧ MayIssue o t ∧ IsX f.d ∧
      answers (readOperands t.pc (etBits f.et) (tagOfEt f.et) f.d f.a f.ka 424 0 (begun o t s)) = true) ∧
    (∃ (s : State) (t : Thread) (f : VForm),
      let o : Opts := { w := f.w, len := 8, long := slowSource f.a, commits := commitsBy f.d f.a 424, vregs := vDest f.d }
      s.thread s.cur = some t ∧ operandOk t [.x, .v, .q, .s, .n] f.d 0 = true ∧ operandOk t srcKinds f.a f.ka = true ∧ MayIssue o t ∧ ¬ IsX f.d ∧
      answersWith (readOperands t.pc (etBits f.et) (tagOfEt f.et) f.d f.a f.ka 424 0 (begun o t s)) (fun ((a, _, lat), s1) =>
        let r := redValue (f.imm.toNat % 8) f.et (t.getK f.mask) a.toNat
        answers (putVector t.pc f.d lat (r.1.setWidth 256) fullMask false (tagOfEt f.et) r.2 s1)) = true) ∧
    (∃ (s : State) (t : Thread) (f : VForm),
      let l := scanLane f
      s.thread s.cur = some t ∧ operandOk t dstKinds f.d 0 = true ∧ operandOk t srcKinds f.a f.ka = true ∧ MayIssue l.opts t ∧
      answersWith (readOperands t.pc (etBits f.et) (tagOfEt f.et) f.d f.a f.ka 424 0 (begun l.opts t s)) (fun ((_, _, lat), s1) =>
        answers (putVector t.pc f.d lat 0 0 f.z (tagOfEt f.et) 0 (s1.modThread s.cur fun u => { u with gen := l.gen t }))) = true) := by
  refine ⟨⟨queued (withThread thread0), thread0, { vf with d := 424, a := 384, et := 2 }, rfl, by decide, by decide, by unfold MayIssue; decide, by unfold IsX; decide, by decide +kernel⟩,
    ⟨withThread thread0, thread0, { vf with d := 47, a := 1, et := 8, imm := 4 }, rfl, by decide, by decide, by unfold MayIssue; decide, by unfold IsX; decide, by decide +kernel⟩,
    ⟨withThread thread0, thread0, { vf with d := 47, a := 1, et := 9, round := 5 }, rfl, by decide, by decide, by unfold MayIssue; decide, by decide +kernel⟩⟩

theorem witness_GroupInstructionWritesItsElements :
    (∃ (i : Instr) (s : State) (t t1 : Thread) (g : Group),
      s.thread s.cur = some t ∧ groupForm i = some g ∧ IsGroup t g.f.d 0 g.regs ∧ IsGroup t g.f.a g.f.ka g.src ∧
      (0 < g.bsrc → IsGroup t g.f.b g.f.kb g.bsrc) ∧ g.scales.isSome = true ∧ IsX g.f.b ∧ g.f.kb = 0 ∧
      WellFormed i = true ∧ MayIssue g.opts t ∧ (begun g.opts t s).thread s.cur = some t1) ∧
    (∃ (i : Instr) (s : State) (t t1 : Thread) (g : Group),
      s.thread s.cur = some t ∧ groupForm i = some g ∧ IsGroup t g.f.d 0 g.regs ∧ IsGroup t g.f.a g.f.ka g.src ∧
      0 < g.bsrc ∧ IsGroup t g.f.b g.f.kb g.bsrc ∧ g.scales = none ∧
      WellFormed i = true ∧ MayIssue g.opts t ∧ (begun g.opts t s).thread s.cur = some t1) := by
  refine ⟨⟨.vmxq { vf with d := 47, a := 40, b := 425, et := 8, imm := 2 }, withThread thread0, thread0, _, _, rfl, rfl, ?_, ?_, nofun, rfl, ?_, rfl, rfl, ?_, rfl⟩,
    ⟨.vperm2 { vf with d := 46, a := 44, b := 0, et := 3 }, withThread thread0, thread0, _, _, rfl, rfl, ?_, ?_, by decide, ?_, rfl, rfl, ?_, rfl⟩⟩ <;>
  (first | (unfold IsGroup; decide) | (unfold IsX; decide) | (unfold MayIssue; decide))

/-- Ten signed fields of three bits in each word, to .i8 (01 R22's example). -/
def patterned (s : State) : State := s.modTile 0 fun u => { u with upat := Vector.replicate 8 0x10001F }

theorem patterned_first (n : Nat) (h : ((List.range 32).filter fun k => (segThread.getK 0).getLsbD (k * 8 / 8)).any
    (fun k => patBit 0x10001F k / 256 = n || (patBit 0x10001F k + patW 0x10001F - 1) / 256 = n) = true) : n = 0 := by
  obtain ⟨k, hk, h⟩ := List.any_eq_true.1 h
  have := (by decide +kernel : ∀ k ∈ List.range 32, patBit 0x10001F k / 256 = 0 ∧ (patBit 0x10001F k + patW 0x10001F - 1) / 256 = 0)
    k (List.mem_filter.1 hk).1
  simp only [Bool.or_eq_true, decide_eq_true_eq] at h
  omega

theorem witness_VectorLoadsIssue :
    (∃ (s : State) (t t1 : Thread) (f : VForm) (bytes : BitVec 32), let o : Opts := { w := f.w, len := 8, long := true, vregs := [f.d.toNat] }
      s.thread s.cur = some t ∧ (begun o t s).thread s.cur = some t1 ∧ f.d.toNat < 384 ∧ f.d.toNat < t.window ∧ IsX f.a ∧ f.ka = 0 ∧
      MayIssue o t ∧ BytesOf (t.getK f.mask) (etBits f.et) bytes ∧ bytes = 0) ∧
    (∃ (s : State) (t t1 : Thread) (f : VForm) (bytes : BitVec 32) (first last : Nat),
      let o : Opts := { w := f.w, len := 8, long := true, vregs := [f.d.toNat] }
      s.thread s.cur = some t ∧ (begun o t s).thread s.cur = some t1 ∧ f.d.toNat < 384 ∧ f.d.toNat < t.window ∧ IsX f.a ∧ f.ka = 0 ∧
      MayIssue o t ∧ BytesOf (t.getK f.mask) (etBits f.et) bytes ∧ Spans bytes first last ∧
      GranuleOk s (t.getSeg (vSegment f)) .read (vOffset t f) first last) ∧
    (∃ (s : State) (t t1 : Thread) (f : VForm) (bytes : BitVec 32) (index : Vec),
      let o : Opts := { w := f.w, len := 8, long := true, vregs := [f.d.toNat] }
      let w := etBits f.et
      s.thread s.cur = some t ∧ (begun o t s).thread s.cur = some t1 ∧ f.d.toNat < 384 ∧ f.d.toNat < t.window ∧ IsX f.a ∧ f.ka = 0 ∧
      MayIssue o t ∧ BytesOf (t.getK f.mask) w bytes ∧ WellFormed (.vgath f) = true ∧ operandOk t [.v] f.b f.kb = true ∧
      answersWith (readOperands t.pc w 0 f.d 424 0 f.b f.kb (begun o t s)) (fun ((_, ix, _), _) => ix = index) = true ∧
      ∀ j ∈ (List.range (256 / w)).filter fun j => (t.getK f.mask).getLsbD (j * w / 8),
        PieceOk s (t.getSeg (vSegment f)) .read (vOffset t f + elem index.toNat w j) (w / 8) ∧ (vOffset t f + elem index.toNat w j) % (w / 8) = 0) ∧
    (∃ (s : State) (t t1 : Thread) (f : VForm) (bytes : BitVec 32) (last : Nat),
      let o : Opts := { w := f.w, len := 8, long := true, vregs := [f.d.toNat] }
      let pat := (s.tile s.cur.tile).upat[f.et.toNat % 8]?.getD 0
      let w := patOut pat
      s.thread s.cur = some t ∧ (begun o t s).thread s.cur = some t1 ∧ f.d.toNat < 384 ∧ f.d.toNat < t.window ∧ IsX f.a ∧ f.ka = 0 ∧
      MayIssue o t ∧ BytesOf (t.getK f.mask) w bytes ∧
      let outs := (List.range (256 / w)).filter fun k => (t.getK f.mask).getLsbD (k * w / 8)
      let touched (n : Nat) : Bool := outs.any fun k => patBit pat k / 256 = n || (patBit pat k + patW pat - 1) / 256 = n
      (∀ n, touched n = true → n ≤ last) ∧ (touched last = true ∨ last = 0) ∧
      ∀ n, touched n = true → GranuleOk s (t.getSeg (vSegment f)) .read (vOffset t f + 32 * n) 0 31) := by
  refine ⟨⟨withThread segThread, segThread, _, { vf with d := 47, a := 424, mask := 1, et := 2, z := true }, 0, rfl, rfl, ?_, ?_, ?_, rfl, ?_, ?_, rfl⟩,
    ⟨withThread segThread, segThread, _, { vf with d := 47, a := 424, et := 2 }, ones 32, 0, 31, rfl, rfl, ?_, ?_, ?_, rfl, ?_, ?_, ?_, ?_⟩,
    ⟨withThread segThread, segThread, _, { vf with d := 47, a := 424, b := 2, et := 2 }, ones 32, 0, rfl, rfl, ?_, ?_, ?_, rfl, ?_, ?_, rfl, rfl, ?_, ?_⟩,
    ⟨patterned (withThread segThread), segThread, _, { vf with d := 47, a := 424, et := 7 }, ones 32, 0, rfl, rfl, ?_, ?_, ?_, rfl, ?_, ?_, ?_, ?_, ?_⟩⟩ <;>
  first | decide | (unfold IsX; decide) | (unfold MayIssue; decide) | (unfold BytesOf; decide) | (unfold Spans; decide) |
    (unfold GranuleOk RightsOk OwnOpen; decide) | (unfold PieceOk RightsOk OwnOpen; decide) | decide +kernel | skip
  · exact ⟨by decide, by decide, by decide, by decide, by omega, by omega⟩
  · exact fun n h => Nat.le_of_eq (patterned_first n h)
  · intro n h
    obtain rfl := patterned_first n h
    unfold GranuleOk RightsOk OwnOpen; decide

/-- Thread 0 holds bytes for every element to store, and a granule's worth of multicast targets. -/
theorem witness_VectorStoresIssue :
    (∃ (s : State) (t : Thread) (f : VForm) (bytes : BitVec 32), s.thread s.cur = some t ∧ (f.w = true → t.outst = []) ∧ f.d.toNat < 384 ∧
      f.d.toNat < t.window ∧ IsX f.a ∧ f.ka = 0 ∧ BytesOf (t.getK f.mask) (storeAs f).2 bytes ∧ bytes = 0) ∧
    (∃ (s : State) (t : Thread) (f : VForm) (bytes : BitVec 32) (first last : Nat),
      let g := t.getSeg (vSegment f)
      s.thread s.cur = some t ∧ (f.w = true → t.outst = []) ∧ f.d.toNat < 384 ∧ f.d.toNat < t.window ∧ IsX f.a ∧ f.ka = 0 ∧
      BytesOf (t.getK f.mask) (storeAs f).2 bytes ∧ Spans bytes first last ∧ GranuleOk s g .write (vOffset t f) first last ∧
      t.gated.length < 64 ∧ g.kind = 1 ∧ t.outst.length < 32) ∧
    (∃ (s : State) (t : Thread) (f : VForm) (bytes : BitVec 32) (index : Vec),
      let g := t.getSeg (vSegment f)
      let w := etBits f.et
      let js := (List.range (256 / w)).filter fun j => (t.getK f.mask).getLsbD (j * w / 8)
      s.thread s.cur = some t ∧ (f.w = true → t.outst = []) ∧ f.d.toNat < 384 ∧ f.d.toNat < t.window ∧ IsX f.a ∧ f.ka = 0 ∧
      BytesOf (t.getK f.mask) (storeAs f).2 bytes ∧ WellFormed (.vscat f) = true ∧ operandOk t [.v] f.b f.kb = true ∧
      answersWith (readOperands t.pc w 0 f.d 424 0 f.b f.kb (s.setThread s.cur (t.stepped 8))) (fun x => x.1.2.1 = index) = true ∧
      (∀ j ∈ js, PieceOk s g .write (vOffset t f + elem index.toNat w j) (w / 8) ∧ (vOffset t f + elem index.toNat w j) % (w / 8) = 0) ∧ t.gated.length + js.length ≤ 64 ∧
      (g.kind = 1 → t.outst.length + js.length ≤ 32)) ∧
    (∃ (s : State) (t : Thread) (f : VForm),
      let g := t.getSeg (vSegment f)
      let addr := g.addr (vOffset t f)
      let tiles := ((List.range 16).filter ((t.getX (xOf f.b)).getLsbD ·)).map (clusterTile (clusterOf s.cur.tile))
      s.thread s.cur = some t ∧ t.outst = [] ∧ f.d.toNat < 384 ∧ f.d.toNat < t.window ∧ IsX f.a ∧ IsX f.b ∧ f.ka = 0 ∧ f.kb = 0 ∧ g.kind = 2 ∧
      RightsOk s g .write (vOffset t f) ∧ vOffset t f + 32 ≤ g.limit.toNat + 1 ∧ vOffset t f % 32 = 0 ∧ addr % 32 = 0 ∧ tiles ≠ [] ∧
      ∀ n ∈ tiles, s.hole n = false ∧ (s.tile n).openGranule addr = true ∧ (s.tile n).locked false true addr (addr + 31) = false) ∧
    (∃ (s : State) (t : Thread) (f : VForm), s.thread s.cur = some t ∧ t.outst = [] ∧ IsX f.a ∧ patOk (t.getX (xOf f.a)) = true ∧
      (s.regionLaunch s.cur.tile = true → 1 ≤ t.status.mode.toNat)) ∧
    (∃ (s : State) (t : Thread) (f : VForm), s.thread s.cur = some t ∧ t.outst = [] ∧ operandOk t [.v, .q, .s] f.a f.ka = true ∧
      answersWith (tableSource t.pc f (begun { w := f.w, len := 8, long := true, commits := true } t s))
        (fun x => entryFault s s.cur.tile x.1.1 = none) = true ∧ s.tileRegion s.cur.tile = none) := by
  refine ⟨⟨withThread segThread, segThread, { vf with d := 47, a := 424, mask := 1, et := 2 }, 0, rfl, nofun, ?_, ?_, ?_, rfl, ?_, rfl⟩,
    ⟨withThread segThread, segThread, { vf with d := 47, a := 424, et := 2, imm := 0x800 }, ones 32, 0, 31, rfl, nofun, ?_, ?_, ?_, rfl, ?_, ?_, ?_, ?_, ?_⟩,
    ⟨withThread segThread, segThread, { vf with d := 47, a := 424, b := 2, et := 2 }, ones 32, 0, rfl, nofun, ?_, ?_, ?_, rfl, ?_, rfl, rfl, ?_, ?_, ?_, ?_⟩,
    ⟨withThread (segThread.setX 1 0x8003), segThread.setX 1 0x8003, { vf with d := 47, a := 424, b := 425 }, rfl, rfl, ?_, ?_, ?_, ?_, rfl, rfl, rfl, ?_, ?_, ?_, ?_, ?_, ?_⟩,
    ⟨withThread (segThread.setX 1 0x10001F), segThread.setX 1 0x10001F, { vf with a := 425 }, rfl, rfl, ?_, ?_, nofun⟩,
    ⟨withThread segThread, segThread, { vf with a := 47 }, rfl, rfl, rfl, ?_, rfl⟩⟩ <;>
  first | decide | (unfold IsX; decide) | (unfold BytesOf; decide) |
    (unfold GranuleOk RightsOk OwnOpen; decide) | (unfold PieceOk RightsOk OwnOpen; decide) | (unfold RightsOk; decide) | decide +kernel | skip
  exact ⟨by decide, by decide, by decide, by decide, by omega, by omega⟩

/-- The thread in item 9, with registers 5 and 6 declared; what its slot's banks hold for it. -/
def itemThread : Thread := { thread0 with item := 9, fregs := [5, 6], run := some { launch := 3, position := 0 } }
def banked (e : FwdEntry) (s : State) : State := s.modSlot ⟨0, 2⟩ fun sl => { sl with fwd := [(⟨9, 1, 3⟩, e)] }
/-- A read stream of the thread with a granule held, and a write stream. -/
def readStream : Stream :=
  { write := false, seg := sramSeg, base := 0, stride := Vector.replicate 3 32, count := Vector.replicate 3 2, owner := 2, thread := 1
    held := [(0, some (sealed 5 0x04), none)] }
def writeStream : Stream := { readStream with write := true, held := [] }
def streaming (j : Nat) (st : Stream) (s : State) : State := s.modTile 0 (·.setStream j (some st))
/-- A descriptor of one place east in the mesh, loaded in port 7. -/
def loaded (s : State) : State := s.modTile 0 fun u => { u with ports := u.ports.setIfInBounds 7 (some (BitVec.ofNat 256 (5 * 2 ^ 192))) }

theorem witness_SourcesRead :
    (∃ (s : State) (t : Thread) (w : Nat) (c : OpCode), s.thread s.cur = some t ∧ 0 < w ∧ w ≤ 64 ∧ c.toNat < 384) ∧
    (∃ (s : State) (t : Thread) (w : Nat) (c : OpCode), s.thread s.cur = some t ∧ 0 < w ∧ w ≤ 64 ∧ IsX c ∧ 256 % w = 0) ∧
    (let held (s : State) (t : Thread) (c : OpCode) (k : BitVec 2) : Option FwdEntry :=
       ((s.slot s.cur).fwd.find? fun p => p.1 = ⟨t.item.toNat, (t.fregs.findIdx? (· = c.toNat)).getD 0, k.toNat⟩).map (·.2)
     (∃ (s : State) (t : Thread) (c : OpCode) (k : BitVec 2), s.thread s.cur = some t ∧ c.toNat < 384 ∧ k ≠ 0 ∧ held s t c k = none) ∧
     (∃ (s : State) (t : Thread) (c : OpCode) (k : BitVec 2), s.thread s.cur = some t ∧ c.toNat < 384 ∧ k ≠ 0 ∧ held s t c k = some .poison) ∧
     ∃ (s : State) (t : Thread) (c : OpCode) (k : BitVec 2) (g : Granule) (seed : Option Nat), s.thread s.cur = some t ∧ c.toNat < 384 ∧ k ≠ 0 ∧
       held s t c k = some (.value g seed) ∧ answersWith (sealCheck g none) (fun x => x.2 = false) = true) ∧
    (∃ (s : State) (t : Thread) (c : OpCode) (n : Nat), s.thread s.cur = some t ∧ 384 ≤ c.toNat ∧ c.toNat < 400 ∧
      ((s.tile s.cur.tile).queue (c.toNat - 384)).count ≤ n) ∧
    (∃ (s : State) (t : Thread) (c : OpCode) (n : Nat) (tag : BitVec 6), let q := (s.tile s.cur.tile).queue (c.toNat - 384)
      s.thread s.cur = some t ∧ 384 ≤ c.toNat ∧ c.toNat < 400 ∧ n < q.count ∧
      answersWith (sealCheck (s.granule (.sram s.cur.tile (q.offset (q.head + n)))) (some tag)) (fun x => x.2 = false) = true) ∧
    (∃ (s : State) (t : Thread) (c : OpCode) (st : Stream), s.thread s.cur = some t ∧ 400 ≤ c.toNat ∧ c.toNat < 416 ∧
      (s.tile s.cur.tile).stream (c.toNat - 400) = some st ∧ st.write = true) ∧
    (∀ b, ∃ (s : State) (t : Thread) (c : OpCode) (st : Stream) (n : Nat), s.thread s.cur = some t ∧ 400 ≤ c.toNat ∧ c.toNat < 416 ∧
      (s.tile s.cur.tile).stream (c.toNat - 400) = some st ∧ st.owner = s.cur.slot ∧ st.thread = t.serial ∧ st.write = false ∧ st.stalled = b ∧
      ∀ p ∈ st.held, p.1 ≠ st.pos + n) ∧
    (∃ (s : State) (t : Thread) (c : OpCode) (st : Stream) (n : Nat) (g : Granule) (tag : BitVec 6), s.thread s.cur = some t ∧ 400 ≤ c.toNat ∧
      c.toNat < 416 ∧ (s.tile s.cur.tile).stream (c.toNat - 400) = some st ∧ st.owner = s.cur.slot ∧ st.thread = t.serial ∧ st.write = false ∧
      st.held.find? (fun p => p.1 = st.pos + n) = some (st.pos + n, some g, none) ∧
      answersWith (sealCheck g (some tag)) (fun x => x.2 = false) = true) := by
  refine ⟨⟨withThread thread0, thread0, 64, 383, rfl, by decide, by decide, by decide⟩,
    ⟨withThread thread0, thread0, 64, 455, rfl, by decide, by decide, by unfold IsX; decide, rfl⟩,
    ⟨⟨withThread itemThread, itemThread, 6, 3, rfl, by decide, by decide, by decide⟩,
      ⟨banked .poison (withThread itemThread), itemThread, 6, 3, rfl, by decide, by decide, by decide⟩,
      ⟨banked (.value (sealed 5 0) none) (withThread itemThread), itemThread, 6, 3, sealed 5 0, none, rfl, by decide, by decide, by decide +kernel, by decide +kernel⟩⟩,
    ⟨queued (withThread thread0), thread0, 384, 1, rfl, by decide, by decide, by decide +kernel⟩,
    ⟨queued (withThread thread0), thread0, 384, 0, 4, rfl, by decide, by decide, by decide +kernel, by decide +kernel⟩,
    ⟨streaming 15 writeStream (withThread thread0), thread0, 415, writeStream, rfl, by decide, by decide, by decide +kernel, rfl⟩,
    fun b => ⟨streaming 15 { readStream with stalled := b } (withThread thread0), thread0, 415, { readStream with stalled := b }, 1, rfl, by decide, by decide,
      by cases b <;> decide +kernel, rfl, rfl, rfl, rfl, by cases b <;> decide⟩,
    ⟨streaming 15 readStream (withThread thread0), thread0, 415, readStream, 0, sealed 5 0x04, 4, rfl, by decide, by decide, by decide +kernel, rfl, rfl, rfl, by decide +kernel, by decide +kernel⟩⟩

theorem witness_DestinationsTake :
    (∃ (s : State) (t : Thread) (c : OpCode), s.thread s.cur = some t ∧ 384 ≤ c.toNat ∧ c.toNat < 400) ∧
    (∃ (s : State) (t : Thread) (c : OpCode) (st : Stream), s.thread s.cur = some t ∧ 400 ≤ c.toNat ∧ c.toNat < 416 ∧
      (s.tile s.cur.tile).stream (c.toNat - 400) = some st ∧ st.owner = s.cur.slot ∧ st.thread = t.serial ∧ st.write = true ∧ st.seg.kind = 2 ∧
      (s.tile s.cur.tile).shutGranule (st.seg.address (st.offset st.pos)) 32 = none) ∧
    (∃ (s : State) (t : Thread) (c : OpCode) (desc : Vec), s.thread s.cur = some t ∧ 416 ≤ c.toNat ∧ c.toNat < 424 ∧
      (s.tile s.cur.tile).ports[c.toNat - 416]?.getD none = some desc) ∧
    (∃ (s : State) (tile j : Nat), let q := (s.tile tile).queue j
      j < 16 ∧ q.enabled = true ∧ q.head < q.depth ∧ q.count < q.depth ∧ 0 < q.count ∧ q.tail = (q.head + q.count) % q.depth ∧
      q.offset 0 + 32 * q.depth ≤ sramSpan) := by
  refine ⟨⟨withThread thread0, thread0, 399, rfl, by decide, by decide⟩,
    ⟨streaming 15 writeStream (withThread thread0), thread0, 415, writeStream, rfl, by decide, by decide, by decide +kernel, rfl, rfl, rfl, rfl, by decide +kernel⟩,
    ⟨loaded (withThread thread0), thread0, 423, BitVec.ofNat 256 (5 * 2 ^ 192), rfl, by decide, by decide, by decide +kernel⟩,
    ⟨queued (withThread thread0), 0, 0, by decide +kernel⟩⟩

/-- Granules of the tile's SRAM, from its first on. -/
def holding (vs : List Vec) (s : State) : State := (vs.mapIdx fun i v => (i, v)).foldl (fun s p => s.setGranule (.sram 0 (32 * p.1)) (sealed p.2 0)) s

theorem forall_of_all {α : Type} {P : α → Prop} [DecidablePred P] {l : List α} (h : l.all (fun a => decide (P a)) = true) : ∀ a ∈ l, P a :=
  fun a m => of_decide_eq_true (List.all_eq_true.1 h a m)

/-- A granule of the tile that passes its check with a value. -/
def soundAt (s : State) (off : Nat) (v : Vec) : Bool := match sealCheck (s.granule (.sram s.cur.tile off)) none with
  | .ok (d, c) => d = v && !c
  | .error _ => false
theorem descriptorAt {s : State} {t : Thread} {off : Nat} {vs : List Vec}
    (h : (off % 32 = 0 && (s.tile s.cur.tile).threadOwned off (32 * vs.length) && s.accs.isEmpty &&
      ((List.range vs.length).all fun i => !s.portTaken s.cur.tile (off + 32 * i)) && (List.range vs.length).all fun i => soundAt s (off + 32 * i) (vs[i]?.getD 0)) = true) : DescriptorAt s t off vs := by
  simp only [Bool.and_eq_true, decide_eq_true_eq, List.isEmpty_iff, List.all_eq_true, List.mem_range, Bool.not_eq_true'] at h
  refine ⟨h.1.1.1.1, h.1.1.1.2, by simp [Settled, h.1.1.2], h.1.2, fun i hi => ?_⟩
  have h4 := h.2 i hi
  simp only [soundAt, List.getElem?_eq_getElem hi, Option.getD_some] at h4
  unfold OwnGranule
  split at h4 <;> simp_all

theorem witness_QueueAndStreamConfiguration :
    (∃ (s : State) (t : Thread) (a : Reg), s.thread s.cur = some t ∧ t.outst = [] ∧ QueueLegal (s.tile s.cur.tile) (t.getX a) ∧
      (t.getX a).toNat / 2 ^ 24 % 16 = 8) ∧
    (∃ (s : State) (t : Thread) (a : Reg), s.thread s.cur = some t ∧ t.outst = [] ∧ ¬ QueueLegal (s.tile s.cur.tile) (t.getX a)) ∧
    (∃ (s : State) (t : Thread) (a : Reg) (desc : Vec), s.thread s.cur = some t ∧ t.outst = [] ∧
      DescriptorAt (begun { commits := true } t s) t (t.getX a).toNat [desc] ∧ 1 ≤ desc.toNat / 2 ^ 192 % 256 ∧ desc.toNat / 2 ^ 192 % 256 ≤ 64 ∧
      desc.toNat / 2 ^ 204 = 0) ∧
    (∃ (s : State) (t : Thread) (a : Reg) (desc : Vec), s.thread s.cur = some t ∧ t.outst = [] ∧
      DescriptorAt (begun { commits := true } t s) t (t.getX a).toNat [desc] ∧ desc.toNat / 2 ^ 192 % 256 = 0) ∧
    (∃ (s : State) (t : Thread) (a : Reg) (n : BitVec 3) (d0 d1 : Vec), s.thread s.cur = some t ∧ t.outst = [] ∧
      (s.tile s.cur.tile).stream 3 = none ∧ DescriptorAt (begun { commits := true } t s) t (t.getX a).toNat [d0, d1] ∧
      BindOk s (t.getSeg n) (streamOf d0 d1 (t.getSeg n) s.cur.slot t.serial) d0 d1 ∧ (s.tile s.cur.tile).locks.length < 16) ∧
    (∃ (s : State) (t : Thread) (st : Stream), s.thread s.cur = some t ∧ t.outst = [] ∧ (s.tile s.cur.tile).stream 3 = some st ∧ st.owner ≠ s.cur.slot) ∧
    (∃ (s : State) (t : Thread) (st : Stream), s.thread s.cur = some t ∧ t.outst = [] ∧ (s.tile s.cur.tile).stream 3 = some st ∧
      st.owner = s.cur.slot ∧ st.thread = t.serial ∧ st.write = false) ∧
    (∃ (s : State) (t : Thread) (st : Stream), s.thread s.cur = some t ∧ t.outst = [] ∧ (s.tile s.cur.tile).stream 3 = some st ∧
      st.owner = s.cur.slot ∧ st.thread = t.serial ∧ st.write = true ∧ st.drain ≠ []) := by
  refine ⟨⟨withThread (thread0.setX 1 0x8000000), thread0.setX 1 0x8000000, 1, rfl, rfl, ?_, rfl⟩,
    ⟨withThread (thread0.setX 1 0x8000001), thread0.setX 1 0x8000001, 1, rfl, rfl, ?_⟩,
    ⟨holding [BitVec.ofNat 256 (64 * 2 ^ 192)] (withThread thread0), thread0, 1, BitVec.ofNat 256 (64 * 2 ^ 192), rfl, rfl, ?_⟩,
    ⟨holding [0] (withThread thread0), thread0, 1, 0, rfl, rfl, ?_⟩,
    ⟨holding [BitVec.ofNat 256 (2 ^ 160 + 2 ^ 176 + 2 ^ 192), 0] (withThread thread0), thread0, 1, 7, BitVec.ofNat 256 (2 ^ 160 + 2 ^ 176 + 2 ^ 192), 0, rfl, rfl, ?_⟩,
    ⟨streaming 3 { readStream with owner := 1 } (withThread thread0), thread0, _, rfl, rfl, rfl, ?_⟩,
    ⟨streaming 3 readStream (withThread thread0), thread0, _, rfl, rfl, rfl, rfl, rfl, rfl⟩,
    ⟨streaming 3 { writeStream with drain := [(0, sealed 0 0, .sram 0 0)] } (withThread thread0), thread0, _, rfl, rfl, rfl, rfl, rfl, rfl, nofun⟩⟩
  · unfold QueueLegal; decide +kernel
  · unfold QueueLegal; decide +kernel
  · exact ⟨descriptorAt (by decide +kernel), by decide +kernel⟩
  · exact ⟨descriptorAt (by decide +kernel), by decide +kernel⟩
  · exact ⟨rfl, descriptorAt (by decide +kernel), ⟨by decide +kernel, rfl, forall_of_all (by decide +kernel), rfl, forall_of_all (by decide +kernel), rfl, by decide +kernel,
      by unfold RightsOk; decide +kernel, by decide +kernel⟩, by decide +kernel⟩
  · decide

/-- The tile's first slot empty or held, by a victim of window 48. -/
def victimThread : Thread := { Thread.born 2 128 1 48 with window := 48 }
def occupied (s : State) : State := s.modSlot ⟨0, 1⟩ fun sl => { sl with thread := some victimThread }

theorem witness_SpawnInstructions :
    (∃ (s : State) (t : Thread) (f : AForm), s.thread s.cur = some t ∧ ¬ CopyLegal t (t.getX f.b)) ∧
    (∃ (s : State) (t : Thread) (f : AForm), s.thread s.cur = some t ∧ CopyLegal t (t.getX f.b) ∧ t.outst = [] ∧ (t.getX f.a).toNat % 4 ≠ 0) ∧
    (∃ (s : State) (t : Thread) (f : AForm), s.thread s.cur = some t ∧ CopyLegal t (t.getX f.b) ∧ t.outst = [] ∧ (t.getX f.a).toNat % 4 = 0 ∧
      (t.getX f.b).toNat / 2 ^ 9 % 64 = 32) ∧
    (∃ (s : State) (t : Thread) (f : AForm) (slot : Nat), s.thread s.cur = some t ∧ t.outst = [] ∧ 1 ≤ t.status.mode.toNat ∧
      CopyLegal t (t.getX f.b) ∧ (t.getX f.a).toNat % 4 = 0 ∧ (s.tile s.cur.tile).width ≤ slot) ∧
    (∃ (s : State) (t : Thread) (f : AForm) (slot : Nat), s.thread s.cur = some t ∧ t.outst = [] ∧ 1 ≤ t.status.mode.toNat ∧
      CopyLegal t (t.getX f.b) ∧ (t.getX f.a).toNat % 4 = 0 ∧ slot < (s.tile s.cur.tile).width ∧ slot = s.cur.slot) ∧
    (∃ (s : State) (t : Thread) (f : AForm) (slot : Nat), let sl := (s.tile s.cur.tile).slot slot
      s.thread s.cur = some t ∧ t.outst = [] ∧ 1 ≤ t.status.mode.toNat ∧ CopyLegal t (t.getX f.b) ∧ (t.getX f.a).toNat % 4 = 0 ∧
      slot < (s.tile s.cur.tile).width ∧ slot ≠ s.cur.slot ∧ sl.victim = none ∧ sl.evict = none ∧ sl.thread = none) ∧
    (∃ (s : State) (t : Thread) (f : AForm) (slot : Nat) (n : BitVec 3) (victim : Thread), let sl := (s.tile s.cur.tile).slot slot
      let g := t.getSeg n
      s.thread s.cur = some t ∧ t.outst = [] ∧ 1 ≤ t.status.mode.toNat ∧ CopyLegal t (t.getX f.b) ∧ (t.getX f.a).toNat % 4 = 0 ∧
      slot < (s.tile s.cur.tile).width ∧ slot ≠ s.cur.slot ∧ sl.victim = none ∧ sl.evict = none ∧ sl.thread = some victim ∧ g.kind = 2 ∧
      RightsOk s g .write 0 ∧ 768 + 32 * victim.window ≤ g.limit.toNat + 1 ∧ g.base.toNat % 32 = 0 ∧
      OwnOpen s .write (g.addr 0) (768 + 32 * victim.window)) := by
  unfold CopyLegal
  refine ⟨⟨withThread (thread0.setX 2 0x4211), thread0.setX 2 0x4211, ⟨true, 3, 1, 2⟩, rfl, by decide⟩,
    ⟨withThread (thread0.setX 1 2), thread0.setX 1 2, ⟨true, 3, 1, 2⟩, rfl, by decide, rfl, by decide⟩,
    ⟨withThread (thread0.setX 2 0x4010), thread0.setX 2 0x4010, ⟨true, 3, 1, 2⟩, rfl, by decide, rfl, by decide, by decide⟩,
    ⟨withThread thread0, thread0, ⟨true, 3, 1, 2⟩, 4, rfl, rfl, by decide, by decide, by decide, by decide⟩,
    ⟨withThread thread0, thread0, ⟨true, 3, 1, 2⟩, 2, rfl, rfl, by decide, by decide, by decide, by decide, rfl⟩,
    ⟨withThread thread0, thread0, ⟨true, 3, 1, 2⟩, 3, rfl, rfl, by decide, by decide, by decide, by decide, by decide, rfl, rfl, rfl⟩,
    ⟨occupied (withThread segThread), segThread, ⟨true, 3, 1, 2⟩, 1, 0, victimThread, rfl, rfl, by decide, by decide, by decide, by decide, by decide, rfl, rfl, rfl, rfl,
      by unfold RightsOk; decide, by decide, by decide, by unfold OwnOpen; decide +kernel⟩⟩

def taskOf (r : Vec) (n : Nat) : Task := { record := r, pusher := some 2, id := n }
/-- A deque of some length, with a continuation of the thread's slot at its newer end. -/
def forked (n : Nat) (s : State) : State :=
  s.modTile 0 fun u => { u with deque := (List.range n).map (taskOf 0xC0), conts := if n = 0 then [] else [(2, n - 1)] }
/-- A counter of the tile armed, fired or not. -/
def armedAt (i off : Nat) (fired : Bool) (s : State) : State :=
  s.modTile 0 fun u => { u with armed := u.armed.setIfInBounds i (some { off := off, record := 0x81, fired := fired }) }
def allArmed (s : State) : State := s.modTile 0 fun u => { u with armed := Vector.replicate 16 (some { off := 64, record := 0x81 }) }

theorem settled_of_empty {s : State} {t : Thread} (h : s.accs.isEmpty = true) : Settled s t := by
  simp [Settled, List.isEmpty_iff.1 h]

/-- The entry is armed on a word. -/
def armedOn (tile : Tile) (off k : Nat) : Bool := match tile.armed[k]?.getD none with
  | some a => a.off = off && !a.fired
  | none => false
theorem armedOn_iff (tile : Tile) (off k : Nat) :
    armedOn tile off k = true ↔ ∃ a, tile.armed[k]?.getD none = some a ∧ a.off = off ∧ a.fired = false := by
  unfold armedOn; split <;> simp_all
theorem armed_some {tile : Tile} {off i : Nat} (h : (decide (i < 16) && armedOn tile off i && (List.range i).all fun k => !armedOn tile off k) = true) :
    ArmedOn tile off (some i) := by
  simp only [Bool.and_eq_true, decide_eq_true_eq, List.all_eq_true, List.mem_range, Bool.not_eq_true'] at h
  exact ⟨h.1.1, (armedOn_iff ..).1 h.1.2, fun k hk => fun c => absurd ((armedOn_iff ..).2 c) (by simp [h.2 k hk])⟩
theorem armed_none {tile : Tile} {off : Nat} (h : ((List.range 16).all fun k => !armedOn tile off k) = true) : ArmedOn tile off none := by
  simp only [List.all_eq_true, List.mem_range, Bool.not_eq_true'] at h
  exact fun k hk c => absurd ((armedOn_iff ..).2 c) (by simp [h k hk])

theorem witness_DequeAndArmInstructions :
    (∃ (s : State) (t : Thread) (a : Reg), let tile := s.tile s.cur.tile
      s.thread s.cur = some t ∧ t.outst = [] ∧ a.toNat ≤ 29 ∧ 32 ≤ tile.deque.length + tile.forking) ∧
    (∃ (s : State) (t : Thread) (a d : Reg), let tile := s.tile s.cur.tile
      s.thread s.cur = some t ∧ t.outst = [] ∧ a.toNat ≤ 29 ∧ tile.deque.length + tile.forking < 32 ∧ d.toNat ≤ 28 ∧ tile.deque ≠ [] ∧
      ∃ c, tile.conts.find? (·.1 = s.cur.slot) = some c ∧ tile.deque.any (·.id = c.2) = true) ∧
    (∃ (s : State) (t : Thread), let tile := s.tile s.cur.tile
      s.thread s.cur = some t ∧ t.outst = [] ∧ tile.deque = [] ∧ tile.conts.find? (·.1 = s.cur.slot) = none) ∧
    (let legal (s : State) (t : Thread) (f : AForm) : Prop :=
       f.b.toNat ≤ 28 ∧ (t.getX f.a).toNat % 8 = 0 ∧ (s.tile s.cur.tile).threadOwned (t.getX f.a).toNat 8 = true
     (∃ (s : State) (t : Thread) (f : AForm), s.thread s.cur = some t ∧ ¬ legal s t f) ∧
     (∃ (s : State) (t : Thread) (f : AForm) (i : Nat), s.thread s.cur = some t ∧ legal s t f ∧ t.outst = [] ∧
       Settled (begun { commits := true } t s) t ∧ f.b = 0 ∧ ArmedOn (s.tile s.cur.tile) (t.getX f.a).toNat (some i)) ∧
     (∃ (s : State) (t : Thread) (f : AForm), s.thread s.cur = some t ∧ legal s t f ∧ t.outst = [] ∧
       Settled (begun { commits := true } t s) t ∧ f.b = 0 ∧ ArmedOn (s.tile s.cur.tile) (t.getX f.a).toNat none) ∧
     (∃ (s : State) (t : Thread) (f : AForm), let tile := s.tile s.cur.tile
       s.thread s.cur = some t ∧ legal s t f ∧ t.outst = [] ∧ Settled (begun { commits := true } t s) t ∧ f.b ≠ 0 ∧
       ArmedOn tile (t.getX f.a).toNat none ∧ tile.armed[1]?.getD none = none ∧ ∀ k < 1, tile.armed[k]?.getD none ≠ none) ∧
     (∃ (s : State) (t : Thread) (f : AForm), let tile := s.tile s.cur.tile
       s.thread s.cur = some t ∧ legal s t f ∧ t.outst = [] ∧ Settled (begun { commits := true } t s) t ∧ f.b ≠ 0 ∧
       ArmedOn tile (t.getX f.a).toNat none ∧ ∀ k < 16, tile.armed[k]?.getD none ≠ none)) := by
  refine ⟨⟨forked 32 (withThread thread0), thread0, 29, rfl, rfl, by decide, by decide⟩,
    ⟨forked 31 (withThread thread0), thread0, 0, 28, rfl, rfl, by decide, by decide, by decide, by decide, (2, 30), by decide, by decide⟩,
    ⟨withThread thread0, thread0, rfl, rfl, rfl, by decide⟩,
    ⟨withThread thread0, thread0, ⟨true, 3, 1, 29⟩, rfl, by decide⟩,
    ⟨armedAt 15 0 false (withThread thread0), thread0, ⟨true, 3, 1, 0⟩, 15, rfl, by decide +kernel, rfl, settled_of_empty (by decide +kernel), rfl, ?_⟩,
    ⟨armedAt 15 0 true (withThread thread0), thread0, ⟨true, 3, 1, 0⟩, rfl, by decide +kernel, rfl, settled_of_empty (by decide +kernel), rfl, ?_⟩,
    ⟨armedAt 0 64 false (withThread thread0), thread0, ⟨true, 3, 1, 28⟩, rfl, by decide +kernel, rfl, settled_of_empty (by decide +kernel), by decide, ?_, rfl, by decide⟩,
    ⟨allArmed (withThread thread0), thread0, ⟨true, 3, 1, 28⟩, rfl, by decide +kernel, rfl, settled_of_empty (by decide +kernel), by decide, ?_, by decide⟩⟩
  · exact armed_some (by decide +kernel)
  · exact armed_none (by decide +kernel)
  · exact armed_none (by decide +kernel)
  · exact armed_none (by decide +kernel)

theorem witness_PortInstructionsSendPackets :
    let spawns (t : Thread) (f : AForm) : Prop := CopyLegal t (t.getX f.b) ∧ (t.getX f.a).toNat % 4 = 0
    (∃ (s : State) (t : Thread) (d : Reg) (f : AForm) (n : BitVec 3), s.thread s.cur = some t ∧ t.outst = [] ∧
      (s.tile s.cur.tile).ports[n.toNat]?.getD none = none ∧ d.toNat ≤ 28 ∧ spawns t f) ∧
    (∃ (s : State) (t : Thread) (d : Reg) (f : AForm) (n : BitVec 3) (desc : Vec), s.thread s.cur = some t ∧ t.outst = [] ∧
      (s.tile s.cur.tile).ports[n.toNat]?.getD none = some desc ∧ d.toNat ≤ 28 ∧ spawns t f ∧
      Quiet s t ∧ pendingWithin (begun { commits := true } t s) s.cur t.serial 6 = false) := by
  unfold CopyLegal
  refine ⟨⟨withThread thread0, thread0, 28, ⟨true, 3, 1, 2⟩, 7, rfl, rfl, rfl, by decide, by decide⟩,
    ⟨loaded (withThread thread0), thread0, 28, ⟨true, 3, 1, 2⟩, 7, BitVec.ofNat 256 (5 * 2 ^ 192), rfl, rfl, by decide +kernel, by decide, by decide, quiet_of rfl rfl, by decide +kernel⟩⟩

theorem witness_BarriersAndWaitc :
    (∃ (s : State) (t : Thread), s.thread s.cur = some t ∧ t.outst = [] ∧ Quiet s t) ∧
    (∃ (s : State) (t : Thread) (a : Reg), s.thread s.cur = some t ∧ t.outst = [] ∧ (t.getX a).toNat = 0) ∧
    (∃ (s : State) (t : Thread) (a : Reg), s.thread s.cur = some t ∧ t.outst = [] ∧ (t.getX a).toNat = 9) ∧
    (∃ (s : State) (t : Thread) (a : Reg), s.thread s.cur = some t ∧ t.outst = [] ∧ (t.getX a).toNat = 129) ∧
    (∃ (s : State) (t : Thread) (a : Reg), s.thread s.cur = some t ∧ t.outst = [] ∧ (t.getX a).toNat = 8 ∧
      pendingWithin (barMarked t s) s.cur t.serial 1 = true ∧ pendingWithin (barMarked t s) s.cur t.serial 2 = true) ∧
    (∃ (s : State) (t : Thread) (a : Reg), s.thread s.cur = some t ∧ t.outst = [] ∧ (t.getX a).toNat = 8 ∧
      pendingWithin (barMarked t s) s.cur t.serial 1 = false ∧ pendingWithin (barMarked t s) s.cur t.serial 2 = false) ∧
    (∃ (s : State) (t : Thread) (a : Reg), s.thread s.cur = some t ∧ t.outst = [] ∧ (t.getX a).toNat = 128) ∧
    (∃ (s : State) (t : Thread) (f : AtForm), s.thread s.cur = some t ∧ (f.w = true → t.outst = []) ∧
      PieceOk s (t.getSeg f.seg) .read (t.getX f.a).toNat 8 ∧ (t.getX f.d).toNat = 0) ∧
    (∃ (s : State) (t : Thread) (f : AtForm), s.thread s.cur = some t ∧ (f.w = true → t.outst = []) ∧
      PieceOk s (t.getSeg f.seg) .read (t.getX f.a).toNat 8 ∧ (t.getX f.d).toNat = 1) := by
  refine ⟨⟨withThread thread0, thread0, rfl, rfl, quiet_of rfl rfl⟩, ⟨withThread thread0, thread0, 1, rfl, rfl, rfl⟩,
    ⟨withThread (thread0.setX 1 9), thread0.setX 1 9, 1, rfl, rfl, rfl⟩,
    ⟨withThread (thread0.setX 1 129), thread0.setX 1 129, 1, rfl, rfl, rfl⟩,
    ⟨waiting (withThread (thread0.setX 1 8)), thread0.setX 1 8, 1, rfl, rfl, rfl, by decide +kernel, by decide +kernel⟩,
    ⟨withThread (thread0.setX 1 8), thread0.setX 1 8, 1, rfl, rfl, rfl, by decide +kernel, by decide +kernel⟩,
    ⟨withThread (thread0.setX 1 128), thread0.setX 1 128, 1, rfl, rfl, rfl⟩,
    ⟨withThread segThread, segThread, ⟨true, 3, 0, 2, 0⟩, rfl, fun _ => rfl, by unfold PieceOk RightsOk OwnOpen; decide, rfl⟩,
    ⟨withThread (segThread.setX 3 1), segThread.setX 3 1, ⟨true, 3, 0, 2, 2⟩, rfl, fun _ => rfl, by unfold PieceOk RightsOk OwnOpen; decide, rfl⟩⟩

theorem witness_ItemsAndPosts :
    (∃ (s : State) (t : Thread) (mask : BitVec 8), s.thread s.cur = some t ∧ t.outst = [] ∧ mask ≠ 0 ∧ t.item ≠ ones 40 ∧
      mask.toNat < 2 ^ t.fregs.length) ∧
    (∃ (s : State) (t : Thread) (mask : BitVec 8), s.thread s.cur = some t ∧ ¬ (mask ≠ 0 ∧ t.item ≠ ones 40 ∧ mask.toNat < 2 ^ t.fregs.length)) ∧
    (∃ (s : State) (t : Thread) (r : Run), s.thread s.cur = some t ∧ t.run = some r) ∧
    (∃ (s : State) (t : Thread) (tt : Reg), s.thread s.cur = some t ∧ (t.getX tt).toNat % 65536 = 40960 ∧ t.outst = []) ∧
    (∃ (s : State) (t : Thread) (tt : Reg), s.thread s.cur = some t ∧ (t.getX tt).toNat % 65536 = 40959 ∧ t.outst = []) := by
  refine ⟨⟨withThread itemThread, itemThread, 3, rfl, rfl, by decide⟩, ⟨withThread itemThread, itemThread, 4, rfl, by decide⟩,
    ⟨withThread itemThread, itemThread, _, rfl, rfl⟩, ⟨withThread (thread0.setX 1 40960), thread0.setX 1 40960, 1, rfl, rfl, rfl⟩,
    ⟨withThread (thread0.setX 1 40959), thread0.setX 1 40959, 1, rfl, rfl, rfl⟩⟩

/-- A region whose steward is the thread. -/
def aRegion : Region := { launch := 3, tiles := [0], d := 4, s := 4, steward := ⟨0, 2⟩, stewardSerial := 1, started := true, cycle := 50 }
def inRegion (r : Region) (s : State) : State := { s.modTimed 0 (fun u => { u with region := some 7 }) with regions := [(7, r)] }

theorem witness_TimingTraceAndStepInstructions :
    (∃ (s : State) (t : Thread), s.thread s.cur = some t ∧ t.outst = [] ∧ stewardOf s = none) ∧
    (∃ (s : State) (t : Thread) (id : Nat) (r : Region), s.thread s.cur = some t ∧ stewardOf s = some (id, r) ∧ r.halted = false ∧ r.started = true) ∧
    (∃ (s : State) (t : Thread) (id : Nat) (r : Region), s.thread s.cur = some t ∧ stewardOf s = some (id, r) ∧ t.outst = [] ∧ r.halted = true) ∧
    (∃ (s : State) (t : Thread) (id : Nat) (r : Region), s.thread s.cur = some t ∧ stewardOf s = some (id, r) ∧ t.outst = [] ∧
      r.started = false ∧ 1 < s.pkg.gsize) ∧
    (∃ (s : State) (t : Thread) (a : Reg), s.thread s.cur = some t ∧ 1 ≤ t.status.mode.toNat ∧ t.outst = [] ∧
      (t.getX a).toNat % 256 ≤ 0x13 ∧ (t.getX a).toNat / 2 ^ 16 % 2 ^ 43 = 0) ∧
    (∃ (s : State) (t : Thread) (a : Reg), s.thread s.cur = some t ∧ 1 ≤ t.status.mode.toNat ∧
      ¬ ((t.getX a).toNat % 256 ≤ 0x13 ∧ (t.getX a).toNat / 2 ^ 16 % 2 ^ 43 = 0)) ∧
    (∃ (tile : Tile) (v k : Nat) (sel : Word) (val : BitVec 48) (d : Reg), v < 4 ∧ k < 8 ∧ tile.pmcNext = [(v, sel, val)] ∧
      tile.pmcReads = [(k, d, v)] ∧ ∃ u, (tile.slot k).thread = some u) := by
  refine ⟨⟨withThread thread0, thread0, rfl, rfl, by decide⟩,
    ⟨inRegion aRegion (withThread thread0), thread0, _, _, rfl, by rfl, rfl, rfl⟩,
    ⟨inRegion { aRegion with halted := true } (withThread thread0), thread0, _, _, rfl, by rfl, rfl, rfl⟩,
    ⟨{ inRegion { aRegion with started := false } (withThread thread0) with pkg := { gsize := 2 } }, thread0, _, _, rfl, by rfl, rfl, rfl, by decide⟩,
    ⟨withThread (thread0.setX 1 0x13), thread0.setX 1 0x13, 1, rfl, by decide⟩,
    ⟨withThread (thread0.setX 1 0x14), thread0.setX 1 0x14, 1, rfl, by decide⟩,
    ⟨{ (withThread thread0).tile 0 with pmcNext := [(3, 5, 1)], pmcReads := [(2, 4, 3)] }, 3, 2, 5, 1, 4, by decide, by decide, rfl, rfl, thread0, rfl⟩⟩

/-- One page of 512 MiB, with all rights, that covers the lowest addresses. -/
def bigPage : Cached := ⟨0, 0x20000000, BitVec.ofNat 64 (2 ^ 63 + 2 ^ 61 + 2 ^ 60 + 2 ^ 59 + 2 ^ 58 + 2 ^ 57 + 2 ^ 53), ones 64, 0x100000⟩
def mapped (s : State) : State := s.modCluster 0 fun k => { k with cache := [bigPage] }
/-- A replay descriptor: one page captured at most, of the whole die, saved at 4096. -/
def replayGranule : Vec := BitVec.ofNat 256 (0x1000 * 2 ^ 200 + 2 ^ 176 + 64 * 2 ^ 156 + 80 * 2 ^ 149)
def replaying (s : State) : State := s.modDie 0 fun k => { k with replay := some { tile := 0, off := 64, save := 4096, cap := 1, row0 := 0, col0 := 0, height := 1, width := 1 } }


theorem witness_DebugInstructions :
    let o : Opts := { w := true, long := true }
    let starts (s : State) (t : Thread) : Prop := s.thread s.cur = some t ∧ MayIssue o t ∧ 1 ≤ t.status.mode.toNat
    (∃ (s : State) (t : Thread) (a : Reg), starts s t ∧ (s.die (tileDie s.cur.tile)).replay = none ∧ (t.getX a).toNat % 64 ≠ 0) ∧
    (∃ (s : State) (t : Thread) (a : Reg), starts s t ∧ (s.die (tileDie s.cur.tile)).replay.isSome = true ∧ (t.getX a).toNat % 64 ≠ 0) ∧
    (∃ (s : State) (t : Thread) (a : Reg) (v : Vec), let x := (t.getX a).toNat
      starts s t ∧ (s.die (tileDie s.cur.tile)).replay.isSome = true ∧ x % 64 = 0 ∧ (s.tile s.cur.tile).threadOwned x 64 = true ∧ DescriptorAt s t x [v] ∧
      replayOk v = false) ∧
    (∀ b, ∃ (s : State) (t : Thread) (a : Reg) (v : Vec), let x := (t.getX a).toNat
      starts s t ∧ (s.die (tileDie s.cur.tile)).replay.isSome = true ∧ x % 64 = 0 ∧ (s.tile s.cur.tile).threadOwned x 64 = true ∧ DescriptorAt s t x [v] ∧
      replayOk v = true ∧ answersWith (saveSpan (tileDie s.cur.tile) (replayOf s.cur.tile x v) (s.setThread s.cur (t.stepped 4))) (fun x => answers x.1 = b) = true) ∧
    (∃ (s : State) (t : Thread) (a : Reg) (v : Vec), let x := (t.getX a).toNat
      starts s t ∧ (s.die (tileDie s.cur.tile)).replay = none ∧ x % 64 = 0 ∧ (s.tile s.cur.tile).threadOwned x 64 = true ∧ DescriptorAt s t x [v] ∧ replayOk v = false) ∧
    (∃ (s : State) (t : Thread) (a : Reg) (v : Vec), let x := (t.getX a).toNat
      starts s t ∧ (s.die (tileDie s.cur.tile)).replay = none ∧ x % 64 = 0 ∧ (s.tile s.cur.tile).threadOwned x 64 = true ∧ DescriptorAt s t x [v] ∧ replayOk v = true ∧
      answers (needSave t.pc (tileDie s.cur.tile) (replayOf s.cur.tile x v) (s.setThread s.cur (t.stepped 4))) = true) ∧
    (∃ (s : State) (t : Thread), starts s t ∧ (s.die (tileDie s.cur.tile)).replay = none) ∧
    (∃ (s : State) (t : Thread) (r : Replay), starts s t ∧ (s.die (tileDie s.cur.tile)).replay = some r) ∧
    (∃ (s : State) (t : Thread) (a : Reg), starts s t ∧ s.hole ((t.getX a).toNat % 65536) = true) ∧
    (∃ (s : State) (t : Thread) (a : Reg), let x := (t.getX a).toNat
      starts s t ∧ s.hole (x % 65536) = false ∧ (s.setThread s.cur (t.stepped 4)).thread ⟨x % 65536, x / 65536 % 8⟩ = none) ∧
    (∃ (s : State) (t : Thread) (a : Reg) (u : Thread), let x := (t.getX a).toNat
      starts s t ∧ s.hole (x % 65536) = false ∧ (s.setThread s.cur (t.stepped 4)).thread ⟨x % 65536, x / 65536 % 8⟩ = some u) := by
  unfold MayIssue
  refine ⟨⟨withThread (thread0.setX 1 32), thread0.setX 1 32, 1, ⟨rfl, by decide, by decide⟩, rfl, by decide⟩,
    ⟨replaying (withThread (thread0.setX 1 32)), thread0.setX 1 32, 1, ⟨rfl, by decide, by decide⟩, rfl, by decide⟩,
    ⟨replaying (holding [0] (withThread thread0)), thread0, 1, 0, ⟨rfl, by decide, by decide⟩, rfl, rfl, by decide +kernel, descriptorAt (by decide +kernel), by decide +kernel⟩,
    fun b => ⟨(if b then mapped else id) (replaying (holding [replayGranule] (withThread thread0))), thread0, 1, replayGranule, ?_⟩,
    ⟨holding [0] (withThread thread0), thread0, 1, 0, ⟨rfl, by decide, by decide⟩, rfl, rfl, by decide +kernel, descriptorAt (by decide +kernel), by decide +kernel⟩,
    ⟨mapped (holding [replayGranule] (withThread thread0)), thread0, 1, replayGranule, ⟨rfl, by decide, by decide⟩, rfl, rfl, by decide +kernel,
      descriptorAt (by decide +kernel), by decide +kernel, by decide +kernel⟩,
    ⟨withThread thread0, thread0, ⟨rfl, by decide, by decide⟩, rfl⟩, ⟨replaying (withThread thread0), thread0, _, ⟨rfl, by decide, by decide⟩, rfl⟩,
    ⟨withThread (thread0.setX 1 40960), thread0.setX 1 40960, 1, ⟨rfl, by decide, by decide⟩, by decide⟩,
    ⟨withThread (thread0.setX 1 40959), thread0.setX 1 40959, 1, ⟨rfl, by decide, by decide⟩, by decide, rfl⟩,
    ⟨occupied (withThread (thread0.setX 1 0x10000)), thread0.setX 1 0x10000, 1, victimThread, ⟨rfl, by decide, by decide⟩, by decide, rfl⟩⟩
  cases b <;> exact ⟨⟨rfl, by decide, by decide⟩, rfl, rfl, by decide +kernel, descriptorAt (by decide +kernel), by decide +kernel, by decide +kernel⟩

/-- The package's functions are all ready. -/
def awake (s : State) : State := { s with pkg := { s.pkg with ready := ones 64 } }

theorem none_in {α : Type} {l : List α} {P : α → Prop} (h : l.isEmpty = true) : ∀ x ∈ l, P x := by simp [List.isEmpty_iff.1 h]

/-- Granule 0 of a rank's entry: valid, by Ultra Ethernet, with all rights. -/
def rankGranule : Vec := BitVec.ofNat 256 (2 ^ 255 + 2 * 2 ^ 252 + 7 * 2 ^ 249 + 2 ^ 192)

theorem witness_RankWritesAndLaunches :
    (∃ (s : State) (t : Thread) (a : Reg), s.thread s.cur = some t ∧ 1 ≤ t.status.mode.toNat ∧ t.outst = [] ∧ (t.getX a).toNat % 4096 = s.pkg.rank ∧
      ∀ x ∈ s.accs, x.who = s.cur → x.thread ≠ t.serial) ∧
    (let legal (e v : Vec) : Prop := e.toNat / 2 ^ 244 % 32 = 0 ∧ e.toNat / 2 ^ 187 % 32 = 0 ∧ e.toNat / 2 ^ 176 % 256 = 0 ∧ e.toNat % 2 ^ 128 = 0 ∧
       e.toNat / 2 ^ 252 % 8 < 4 ∧ (e.getLsbD 255 = true → e.toNat / 2 ^ 192 % 2 ^ 32 ≠ 0) ∧
       (if e.toNat / 2 ^ 252 % 8 = 1 then routeStringOk v = true else v = 0)
     let starts (s : State) (t : Thread) (a b : Reg) (e v : Vec) : Prop := s.thread s.cur = some t ∧ 1 ≤ t.status.mode.toNat ∧ t.outst = [] ∧
       (t.getX a).toNat % 4096 ≠ s.pkg.rank ∧ (∀ x ∈ s.accs, x.who = s.cur → x.thread ≠ t.serial) ∧
       s.hbmShut (.hbm (rankAddr ((t.getX a).toNat % 4096))) = false ∧ (t.getX b).toNat % 64 = 0 ∧
       DescriptorAt s t (t.getX b).toNat [e, v]
     (∃ s t a b e v, starts s t a b e v ∧ legal e v) ∧ ∃ s t a b e v, starts s t a b e v ∧ ¬ legal e v) ∧
    (∃ (s : State) (t : Thread), s.thread s.cur = some t ∧ 1 ≤ t.status.mode.toNat ∧ t.outst = [] ∧
      ¬ ∀ x ∈ s.accs, x.who = s.cur → x.thread ≠ t.serial) ∧
    (∃ (s : State) (t : Thread) (a : Reg) (n : BitVec 3), let g := t.getSeg n
      let off := (t.getX a).toNat
      s.thread s.cur = some t ∧ t.outst = [] ∧ 1 ≤ t.status.mode.toNat ∧ RightsOk s g .read off ∧ off + 64 ≤ g.limit.toNat + 1 ∧
      off % 32 = 0 ∧ g.addr off % 32 = 0 ∧ (g.kind = 2 → OwnOpen s .read (g.addr off) 64)) := by
  refine ⟨⟨withThread thread0, thread0, 1, rfl, by decide, rfl, by decide, none_in (by decide +kernel)⟩,
    ⟨⟨holding [rankGranule, 0] (awake (withThread (thread0.setX 1 4095))), thread0.setX 1 4095, 1, 2, rankGranule, 0,
        ⟨rfl, by decide, rfl, by decide, none_in (by decide +kernel), by decide +kernel, by decide, descriptorAt (by decide +kernel)⟩, by decide +kernel⟩,
      ⟨holding [rankGranule, 1] (awake (withThread (thread0.setX 1 4095))), thread0.setX 1 4095, 1, 2, rankGranule, 1,
        ⟨rfl, by decide, rfl, by decide, none_in (by decide +kernel), by decide +kernel, by decide, descriptorAt (by decide +kernel)⟩, by decide +kernel⟩⟩,
    ⟨waiting (withThread thread0), thread0, rfl, by decide, rfl, by decide⟩,
    ⟨withThread segThread, segThread, 1, 2, rfl, rfl, by decide, by unfold RightsOk OwnOpen; decide⟩⟩

/-- A span was found. -/
def found {α : Type} (r : Except PortFault α × State) (f : α → State → Bool) : Bool := match r with
  | (.ok x, s) => f x s
  | (.error _, _) => false

/-- Tickets: one granule, with no completion word; the same, to the word at 8. -/
def ticket : Word := 0xFFFF000001
def paidTicket : Word := 0x1000001

/-- Engine operands: d names the ticket's register; the source stands at 0, the destination at 4096. -/
def engineThread (tick : Word) : Thread := ((segThread.setX 3 tick).setX 5 4096)
def copyForm : CForm := ⟨true, 3, 4, 5, 0, 2⟩

theorem witness_CopyEngineIssues_1 :
    (∃ (s : State) (t : Thread) (f : CForm), let tick := t.getX f.d
      let src : Reach := ⟨t.getSeg f.segS, (t.getX f.a).toNat, 32 * lengthOf tick⟩
      let dst : Reach := ⟨t.getSeg f.segT, (t.getX f.b).toNat, 32 * lengthOf tick⟩
      s.thread s.cur = some t ∧ t.outst = [] ∧ TicketOk s tick ∧ tick.toNat < 2 ^ 40 ∧ RangeOk s src .read ∧ RangeOk s dst .write ∧ Apart src dst ∧
      found (src.span s.cur.tile .read (begun { commits := true } t s)) (fun _ s2 => found (dst.span s.cur.tile .write s2) fun _ _ => true) = true) ∧
    (∃ (s : State) (t : Thread) (f : CForm), let tick := t.getX f.d
      let n := 32 * ((lengthOf tick + 112) / 112 + lengthOf tick)
      let src : Reach := ⟨t.getSeg f.segS, (t.getX f.a).toNat, n⟩
      let dst : Reach := ⟨t.getSeg f.segT, (t.getX f.b).toNat, n⟩
      s.thread s.cur = some t ∧ t.outst = [] ∧ TicketOk s tick ∧ tick.toNat < 2 ^ 40 ∧ RangeOk s src .read ∧ RangeOk s dst .write ∧ Apart src dst ∧
      found (src.span s.cur.tile .read (begun { commits := true } t s)) (fun _ s2 => found (dst.span s.cur.tile .write s2) fun _ _ => true) = true) ∧
    (∃ (s : State) (t : Thread) (f : CForm), s.thread s.cur = some t ∧ t.outst = [] ∧
      ¬ (TicketOk s (t.getX f.d) ∧ (t.getX f.d).toNat < 2 ^ 40)) ∧
    (∃ (s : State) (t : Thread) (h : AtForm), let tick := t.getX h.d
      let tag := tick.toNat / 2 ^ 40 % 64
      let dst : Reach := ⟨t.getSeg h.seg, (t.getX h.b).toNat, 32 * lengthOf tick⟩
      s.thread s.cur = some t ∧ t.outst = [] ∧ TicketOk s tick ∧ tick.toNat < 2 ^ 46 ∧ ¬ (0x17 ≤ tag ∧ tag ≤ 0x3E) ∧ tag = 0x3F ∧ RangeOk s dst .write ∧
      found (dst.span s.cur.tile .write (begun { commits := true } t s)) (fun _ _ => true) = true) ∧
    (∃ (s : State) (t : Thread) (h : AtForm), let tag := (t.getX h.d).toNat / 2 ^ 40 % 64
      s.thread s.cur = some t ∧ t.outst = [] ∧ 0x17 ≤ tag ∧ tag ≤ 0x3E) := by
  unfold TicketOk Apart
  refine ⟨⟨mapped (withThread (engineThread paidTicket)), engineThread paidTicket, copyForm, rfl, rfl, by decide +kernel, by decide, ?_, ?_, by decide, by decide +kernel⟩,
    ⟨mapped (withThread (engineThread ticket)), engineThread ticket, copyForm, rfl, rfl, by decide +kernel, by decide, ?_, ?_, by decide, by decide +kernel⟩,
    ⟨withThread thread0, thread0, copyForm, rfl, rfl, by decide⟩,
    ⟨withThread (engineThread (0x3FFFFF000001)), engineThread (0x3FFFFF000001), ⟨true, 3, 4, 5, 0⟩, rfl, rfl, by decide +kernel, by decide, by decide, by decide, ?_, by decide +kernel⟩,
    ⟨withThread (engineThread (0x3EFFFF000001)), engineThread (0x3EFFFF000001), ⟨true, 3, 4, 5, 0⟩, rfl, rfl, by decide⟩⟩ <;>
  (unfold RangeOk RightsOk; decide +kernel)

/-- A destination list whose first entry names a tile. -/
def listGranule (tile : Nat) : Vec := BitVec.ofNat 256 (2 ^ 126 + tile * 2 ^ 104 + 0xFFFF * 2 ^ 88 + 8192)
/-- A fingerprint record: the destination at 8192, the candidate where it is given. -/
def recordGranule (cand : Nat) : Vec := BitVec.ofNat 256 (cand * 2 ^ 64 + 8192)
def listForm : CForm := ⟨true, 3, 5, 4, 0, 0⟩

theorem witness_CopyEngineIssues_2 :
    (let starts (s : State) (t : Thread) (f : CForm) (gs : List Vec) : Prop :=
       let tick := t.getX f.d
       let src : Reach := ⟨t.getSeg f.segS, (t.getX f.a).toNat, 32 * lengthOf tick⟩
       s.thread s.cur = some t ∧ t.outst = [] ∧ tick.toNat < 2 ^ 40 ∧ lengthOf tick ≠ 0 ∧ RangeOk s src .read ∧ gs.length = 8 ∧
       DescriptorAt (begun { commits := true } t s) t (t.getX f.b).toNat gs
     let lists (s : State) (t : Thread) (f : CForm) (gs : List Vec) (ok : Nat → Bool) : Prop :=
       let tick := t.getX f.d
       let es := ((List.range 16).filter (tick.toNat / 2 ^ 24 % 65536).testBit).map fun j =>
         (j, (((gs[j / 2]?.getD 0).toNat / 2 ^ (128 * (j % 2)) : Nat) : BitVec 128))
       let src : Reach := ⟨t.getSeg f.segS, (t.getX f.a).toNat, 32 * lengthOf tick⟩
       es.all (fun e => listBad e.2 (t.getSeg f.segT) = false) = true ∧
       found (src.span s.cur.tile .read (begun { commits := true } t s)) (fun _ s2 =>
         es.all (fun e => !listWaits e.2 (t.getSeg f.segT) s.cur.tile (32 * lengthOf tick) s2) && ok (listDests es (t.getSeg f.segT) s.cur.tile (32 * lengthOf tick) s2).2.1) = true
     (∃ s t f gs, starts s t f gs ∧ lists s t f gs (· = 0)) ∧ ∃ s t f gs, starts s t f gs ∧ lists s t f gs (· ≠ 0)) ∧
    (let starts (s : State) (t : Thread) (f : CForm) (r : Vec) : Prop :=
       let tick := t.getX f.d
       let src : Reach := ⟨t.getSeg f.segS, (t.getX f.a).toNat, 32 * lengthOf tick⟩
       let dst : Reach := ⟨t.getSeg f.segT, r.toNat % 2 ^ 64, 32 * lengthOf tick⟩
       s.thread s.cur = some t ∧ t.outst = [] ∧ tick.toNat < 2 ^ 40 ∧ TicketOk s tick ∧ RangeOk s src .read ∧
       DescriptorAt (begun { commits := true } t s) t (t.getX f.b).toNat [r] ∧ RangeOk s dst .write ∧ Apart src dst
     let spans (s : State) (t : Thread) (f : CForm) (off : Nat) (need : Need) : Bool :=
       found (Reach.span ⟨t.getSeg f.segS, (t.getX f.a).toNat, 32 * lengthOf (t.getX f.d)⟩ s.cur.tile .read (begun { commits := true } t s)) fun _ s2 =>
         found (Reach.span ⟨t.getSeg f.segT, off, 32 * lengthOf (t.getX f.d)⟩ s.cur.tile need s2) fun _ _ => true
     (∃ s t f r, starts s t f r ∧ r.toNat / 2 ^ 64 % 2 ^ 64 = 2 ^ 64 - 1 ∧ spans s t f (r.toNat % 2 ^ 64) .write = true) ∧
     ∃ s t f r, let cand : Reach := ⟨t.getSeg f.segT, r.toNat / 2 ^ 64 % 2 ^ 64, 32 * lengthOf (t.getX f.d)⟩
       starts s t f r ∧ cand.off ≠ 2 ^ 64 - 1 ∧ RangeOk s cand .read ∧
       Apart cand ⟨t.getSeg f.segT, r.toNat % 2 ^ 64, 32 * lengthOf (t.getX f.d)⟩ ∧ spans s t f cand.off .read = true ∧
       spans s t f (r.toNat % 2 ^ 64) .write = true) := by
  unfold RangeOk RightsOk TicketOk Apart
  refine ⟨⟨⟨holding [listGranule 1, 0, 0, 0, 0, 0, 0, 0] (withThread (engineThread paidTicket)), engineThread paidTicket, listForm, [listGranule 1, 0, 0, 0, 0, 0, 0, 0], ⟨rfl, rfl, by decide, by decide,
        by decide +kernel, rfl, descriptorAt (by decide +kernel)⟩, by decide +kernel, by decide +kernel⟩,
      ⟨holding [listGranule 40960, 0, 0, 0, 0, 0, 0, 0] (withThread (engineThread paidTicket)), engineThread paidTicket, listForm, [listGranule 40960, 0, 0, 0, 0, 0, 0, 0], ⟨rfl, rfl, by decide, by decide,
        by decide +kernel, rfl, descriptorAt (by decide +kernel)⟩, by decide +kernel, by decide +kernel⟩⟩,
    ⟨holding [recordGranule (2 ^ 64 - 1)] (withThread (engineThread ticket)), engineThread ticket, listForm, _, ⟨rfl, rfl, by decide, by decide +kernel, by decide +kernel,
        descriptorAt (vs := [recordGranule (2 ^ 64 - 1)]) (by decide +kernel), by decide +kernel, by decide +kernel⟩, by decide +kernel⟩,
    ⟨holding [recordGranule 16384] (withThread (engineThread ticket)), engineThread ticket, listForm, _, ⟨rfl, rfl, by decide, by decide +kernel, by decide +kernel,
        descriptorAt (vs := [recordGranule 16384]) (by decide +kernel), by decide +kernel, by decide +kernel⟩, by decide +kernel⟩⟩

/-- A segment over another package's memory, with the remote right. -/
def otherSeg : Seg := { kind := 1, rights := 31, limit := 0xFFFF, base := 0x100000000000 }
def fabricThread : Thread :=
  ((((thread0.setX 3 ticket).setX 5 4096).setX 4 (ones 64)).setSeg 1 otherSeg).setSeg 2 { kind := 1, rights := 15, limit := 0xFFFF, base := 0x1000 }

theorem witness_FabricTransfersAndWalks :
    (let src (t : Thread) (f : CForm) : Reach := ⟨t.getSeg f.segS, (t.getX f.a).toNat, 32 * lengthOf (t.getX f.d)⟩
     let dst (t : Thread) (f : CForm) : Reach := ⟨t.getSeg f.segT, (t.getX f.b).toNat, 32 * lengthOf (t.getX f.d)⟩
     let far (s : State) (r : Reach) : Prop := r.seg.kind = 1 ∧ r.addr / 2 ^ 44 % 4096 ≠ s.pkg.rank
     let starts (s : State) (t : Thread) (f : CForm) : Prop := s.thread s.cur = some t ∧ t.outst = [] ∧ TicketOk s (t.getX f.d) ∧
       (t.getX f.d).toNat / 2 ^ 40 % 2 ^ 20 = 0 ∧ RangeOk s (src t f) .read ∧ RangeOk s (dst t f) .write
     -- RPUT's source is far; RGET's destination is far
     (∃ s t f, starts s t f ∧ far s (src t f)) ∧ (∃ s t f, starts s t f ∧ far s (dst t f)) ∧
     -- RGET from the own package, and from a far one
     (∃ s t f, starts s t f ∧ Apart (src t f) (dst t f) ∧ ¬ far s (dst t f) ∧ ¬ far s (src t f) ∧
       found ((src t f).span s.cur.tile .read (begun { commits := true } t s)) (fun _ s2 => found ((dst t f).span s.cur.tile .write s2) fun _ _ => true) = true) ∧
     (∃ s t f, starts s t f ∧ Apart (src t f) (dst t f) ∧ ¬ far s (dst t f) ∧ far s (src t f) ∧
       found ((dst t f).span s.cur.tile .write (begun { commits := true } t s)) (fun _ _ => true) = true) ∧
     -- RPUT to a far package, without a flag word and with one
     (∃ s t f, starts s t f ∧ Apart (src t f) (dst t f) ∧ f.d.toNat ≤ 30 ∧ ¬ far s (src t f) ∧ far s (dst t f) ∧
       found ((src t f).span s.cur.tile .read (begun { commits := true } t s)) (fun _ _ => true) = true ∧ (t.getX (f.d + 1)).toNat = 2 ^ 64 - 1) ∧
     ∃ s t f, let off := (t.getX (f.d + 1)).toNat
       let flag : Reach := ⟨t.getSeg f.segT, off, 8⟩
       starts s t f ∧ Apart (src t f) (dst t f) ∧ f.d.toNat ≤ 30 ∧ ¬ far s (src t f) ∧
       found ((src t f).span s.cur.tile .read (begun { commits := true } t s)) (fun _ _ => true) = true ∧
       off % 8 = 0 ∧ RightsOk s flag.seg .write off ∧ off + 8 ≤ flag.seg.limit.toNat + 1 ∧ flag.addr % 8 = 0 ∧
       flag.seg.kind = 1 ∧ far s flag ∧ far s (dst t f) ∧ flag.addr / 2 ^ 44 % 4096 = (dst t f).addr / 2 ^ 44 % 4096) ∧
    (∃ (s : State) (t : Thread) (f : AtForm), s.thread s.cur = some t ∧ f.d = 31) ∧
    (∃ (s : State) (t : Thread) (f : AtForm), let g := t.getSeg f.seg
      let off := (t.getX f.a).toNat
      s.thread s.cur = some t ∧ f.d.toNat ≤ 30 ∧ (f.w = true → t.outst = []) ∧ t.outst.length < 32 ∧ g.kind = 1 ∧ RightsOk s g .read off ∧
      off + 32 ≤ g.limit.toNat + 1 ∧ off % 32 = 0 ∧ g.addr off % 32 = 0) := by
  unfold RangeOk RightsOk TicketOk Apart
  refine ⟨⟨⟨withThread fabricThread, fabricThread, ⟨true, 3, 0, 5, 1, 0⟩, ⟨rfl, rfl, ?_⟩, ?_⟩,
      ⟨withThread fabricThread, fabricThread, ⟨true, 3, 0, 5, 0, 1⟩, ⟨rfl, rfl, ?_⟩, ?_⟩,
      ⟨mapped (withThread fabricThread), fabricThread, ⟨true, 3, 0, 5, 2, 0⟩, ⟨rfl, rfl, ?_⟩, ?_⟩,
      ⟨withThread fabricThread, fabricThread, ⟨true, 3, 0, 5, 1, 0⟩, ⟨rfl, rfl, ?_⟩, ?_⟩,
      ⟨withThread fabricThread, fabricThread, ⟨true, 3, 0, 5, 0, 1⟩, ⟨rfl, rfl, ?_⟩, ?_⟩,
      ⟨withThread (fabricThread.setX 4 8), fabricThread.setX 4 8, ⟨true, 3, 0, 5, 0, 1⟩, ⟨rfl, rfl, ?_⟩, ?_⟩⟩,
    ⟨withThread thread0, thread0, ⟨true, 31, 1, 2, 0⟩, rfl, rfl⟩,
    ⟨withThread segThread, segThread, ⟨true, 30, 1, 2, 2⟩, rfl, by decide, fun _ => rfl, by decide⟩⟩ <;> decide +kernel

/-! The timed plane -/

/-- The timed plane of the first tile put in place. -/
def timed0 (f : Timed → Timed) : State := { (State.reset.modTimed 0 f) with todo := [], cycle := 1000, serial := 500 }
/-- Two rings of four granules, all full. -/
def ringed (u : Timed) : Timed :=
  { u with
    rings := Vector.replicate 4 { enable := true, base := 0, size := 16 }
    files := { u.files with ring := Vector.replicate 4 { tail := 16, ctail := 64 } } }

theorem witness_ArrayOperationsIssueAndLand :
    (let starts (i : Instr) (op : SlotOp) : Prop := IsSlot i op ∧ op.ok = true ∧ (arrayUses op).1 ≠ (arrayUses op).2.1
     let enough (s : State) (op : SlotOp) : Prop :=
       let u := (s.tile s.cur.tile).timed
       let ca := u.files.ring[(arrayUses op).1]?.getD {}
       let cb := u.files.ring[(arrayUses op).2.1]?.getD {}
       (u.rings[(arrayUses op).1]?.getD {}).enable = true ∧ (u.rings[(arrayUses op).2.1]?.getD {}).enable = true ∧
       (arrayUses op).2.2.1 ≤ (ca.tail - ca.next).toNat ∧ (arrayUses op).2.2.2.2 ≤ (cb.tail - cb.next).toNat ∧
       (arrayUses op).2.2.2.1 ≤ (ca.ctail - ca.cnext).toNat
     (∃ (s : State) (i : Instr) (op : SlotOp), starts i op ∧ s.cycle < ((s.tile s.cur.tile).timed).arrayFree) ∧
     (∃ (s : State) (i : Instr) (op : SlotOp), starts i op ∧ ((s.tile s.cur.tile).timed).arrayFree ≤ s.cycle ∧ ¬ enough s op) ∧
     (∃ (s : State) (i : Instr) (op : SlotOp), starts i op ∧ ((s.tile s.cur.tile).timed).arrayFree ≤ s.cycle ∧ enough s op ∧ (arrayUses op).2.2.1 = 16) ∧
     ∃ (s : State) (i : Instr) (op : SlotOp), starts i op ∧ ((s.tile s.cur.tile).timed).arrayFree ≤ s.cycle ∧ enough s op ∧ (arrayUses op).2.2.2.1 = 64) ∧
    (∃ (s : State) (r : TimedRes) (op : SlotOp) (i : Instr) (offA offB : List Nat) (codes : List (BitVec 4)) (za zb : Vec) (lands : Nat),
      IsSlot i op ∧ op.ok = true ∧ (arrayUses op).1 ≠ (arrayUses op).2.1 ∧ r.eff = .arrayRead op offA offB codes za zb lands ∧ s.cycle ≤ lands) ∧
    (∃ (r : TimedRes) (op : SlotOp) (i : Instr) (sums : List Int),
      IsSlot i op ∧ op.ok = true ∧ (arrayUses op).1 ≠ (arrayUses op).2.1 ∧ r.eff = .array op sums) := by
  refine ⟨⟨⟨timed0 fun u => { u with arrayFree := 1001 }, .mmat 1 2 3 true false, .mmat 1 2 3 true false, ⟨rfl, rfl, by decide⟩, by decide⟩,
      ⟨timed0 fun u => { u with arrayFree := 1000 }, .mmat 1 2 3 true false, .mmat 1 2 3 true false, ⟨rfl, rfl, by decide⟩, by decide, by decide⟩,
      ⟨timed0 ringed, .mmat 1 2 3 true false, .mmat 1 2 3 true false, ⟨rfl, rfl, by decide⟩, by decide, by decide, rfl⟩,
      ⟨timed0 ringed, .mmasp 1 2 3 10 false true, .mmasp 1 2 3 10 false true, ⟨rfl, rfl, by decide⟩, by decide, by decide, rfl⟩⟩,
    ⟨timed0 id, { id := 1, due := 1000, phase := 0, slot := 0, addr := 0, eff := .arrayRead (.mma 1 2 3 11 0 0 0 false true) [] [] [] 0 0 1011 },
      .mma 1 2 3 11 0 0 0 false true, .mma 1 2 3 11 0 0 0 false true, _, _, _, _, _, _, rfl, rfl, by decide, rfl, by decide⟩,
    ⟨{ id := 1, due := 1000, phase := 0, slot := 0, addr := 0, eff := .array (.mma 1 2 3 0 0 0 0 false false) [] },
      .mma 1 2 3 0 0 0 0 false false, .mma 1 2 3 0 0 0 0 false false, _, rfl, rfl, by decide, rfl⟩⟩

theorem witness_BundleIssuesItsSlots : ∃ (n : SlotName) (field : BitVec 44) (op : SlotOp), field ≠ 0 ∧ decodeSlot n field = some op :=
  ⟨.mx, 0b000001_01_10_11_0110_001_010_01_1_0_000000000000000000, _, by decide, rfl⟩

theorem witness_VtOperationsWriteY :
    (∃ (i : Instr) (f : VtForm) (n : Nat) (g : Nat → Nat → Nat → Nat × Flags), laneVt i = some (f, n, g) ∧ n = 8) ∧
    (SlotOp.vtCvt 1 2 8 0 3 true).ok = true ∧ (SlotOp.vtCvt 1 2 0 8 3 true).ok = true :=
  ⟨⟨.vtExp2 ⟨1, 2, 0, false, false⟩, _, _, _, rfl, rfl⟩, by decide, by decide⟩

theorem witness_LaneOperationsIssue :
    (∃ (s : State) (port : BitVec 5) (n : BitVec 2), ((s.tile s.cur.tile).timed.files.rx[port.toNat]?.getD []).length ≤ n.toNat) ∧
    (∃ (s : State) (port : BitVec 5) (n : BitVec 2), n.toNat < ((s.tile s.cur.tile).timed.files.rx[port.toNat]?.getD []).length) ∧
    (∃ (cond : BitVec 2), cond ≠ 3) ∧ (∃ (h l : BitVec 3), h ≠ l) ∧
    (∃ (g : Gen) (i0 i1 i2 : Nat), let c (n : BitVec 16) : Nat := if n = 0 then 65536 else n.toNat
      i0 < c g.count0 ∧ i1 < c g.count1 ∧ i2 < c g.count2 ∧ i0 + 1 = c g.count0 ∧ i2 = 65535) :=
  ⟨⟨timed0 id, 27, 0, by decide⟩,
    ⟨timed0 fun u => { u with files := { u.files with rx := Vector.replicate 28 [sealed 0 0] } }, 27, 0, by decide⟩,
    ⟨2, by decide⟩, ⟨1, 2, by decide⟩, ⟨{ count0 := 3, count1 := 1, count2 := 0 }, 2, 0, 65535, by decide⟩⟩

/-- One timed result due, and what it does. -/
def landingOf (eff : Effect) : TimedRes := { id := 9, due := 1000, phase := 2, slot := 1, addr := 0, eff := eff }
def landingState (eff : Effect) : State := timed0 fun u => { u with results := [{ landingOf eff with id := 8, due := 1001 }, landingOf eff] }

/-- The result is the first of those that are due. -/
def DueFirst (s : State) (r : TimedRes) : Prop :=
  let u := (s.tile 0).timed
  r ∈ u.results ∧ r.due ≤ s.cycle ∧ (u.results.map (·.id)).Nodup ∧
    ∀ q ∈ u.results, q ≠ r → q.due ≤ s.cycle → r.due < q.due ∨ r.due = q.due ∧ (r.phase < q.phase ∨ r.phase = q.phase ∧
      (r.slot < q.slot ∨ r.slot = q.slot ∧ r.id < q.id))

theorem witness_TimedResultsLand :
    (∃ s : State, ∀ r ∈ (s.tile 0).timed.results, s.cycle < r.due) ∧
    (∀ eff : Effect, ∃ (s : State) (r : TimedRes), DueFirst s r ∧ r.eff = eff) ∧
    (∃ (s : State) (off : Nat), answersWith (sealCheck (s.granule (.sram 0 off)) none) (fun x => x.2 = false) = true) ∧
    (∃ (s : State) (off : Nat), answersWith (sealCheck (s.granule (.sram 0 off)) (some 0x15)) (fun x => x.2 = false) = true) ∧
    ∃ off : Nat, off % 32 = 0 ∧ off + 32 = 393216 := by
  refine ⟨⟨timed0 id, by decide⟩, fun eff => ⟨landingState eff, landingOf eff, ⟨?_, Nat.le_refl _, (by decide : [8, 9].Nodup), ?_⟩, rfl⟩,
    ⟨timed0 id, 0, by decide +kernel⟩, ⟨(timed0 id).setGranule (.sram 0 0) (sealed 5 0x15), 0, by decide +kernel⟩, ⟨393184, by decide⟩⟩
  · exact List.mem_cons_of_mem _ (List.mem_singleton.2 rfl)
  · intro q hq hne hle
    rcases List.mem_cons.1 hq with rfl | hq
    · exact absurd hle (by decide : ¬ 1001 ≤ 1000)
    · exact absurd (List.mem_singleton.1 hq) hne

def aReq : Req := { key := .own 0, got := some 5 }
/-- The thread with one result outstanding, or two to one register. -/
def expecting (fin : Finish) (reqs : List Req) : Thread :=
  { segThread with outst := [{ tok := 7, pc := 60, fin := fin, reqs := reqs, lands := 1000, dests := [(0, 3)] }] }
def twice : Thread := { busyThread with outst := busyThread.outst ++ [{ tok := 8, pc := 64, fin := .reply, lands := 1000, dests := [(0, 3)] }] }

theorem witness_ResultsLand :
    (∃ (s : State) (w : Who) (t : Thread) (o : Outst), s.thread w = some t ∧ t.outst.find? (·.tok = 7) = some o ∧ o.bank = [] ∧
      (∀ slot d, o.fin ≠ .evict slot d) ∧ s.cycle < o.lands) ∧
    (∃ (s : State) (w : Who) (t : Thread) (o : Outst), s.thread w = some t ∧ t.outst.find? (·.tok = 8) = some o ∧ o.bank = [] ∧
      o.lands ≤ s.cycle ∧ Blocked t o ∧ ∀ slot d, o.fin ≠ .evict slot d) ∧
    (∀ fin reqs, ∃ (s : State) (w : Who) (t : Thread) (o : Outst), s.thread w = some t ∧ t.outst.find? (·.tok = 7) = some o ∧ o.bank = [] ∧
      o.lands ≤ s.cycle ∧ ¬ Blocked t o ∧ o.fin = fin ∧ o.reqs = reqs) ∧
    (∀ wr ∈ [Write.x 3 9, .flags 1], OnRegister wr) := by
  refine ⟨⟨withThread twice, ⟨0, 2⟩, twice, _, rfl, rfl, rfl, nofun, by decide⟩,
    ⟨withThread twice, ⟨0, 2⟩, twice, { tok := 8, pc := 64, fin := .reply, lands := 1000, dests := [(0, 3)] }, rfl, rfl, rfl, by decide, ?_, nofun⟩,
    fun fin reqs => ⟨withThread (expecting fin reqs), ⟨0, 2⟩, _, _, rfl, rfl, rfl, Nat.le_refl 1000, ?_, rfl, rfl⟩, ?_⟩
  · exact ⟨{ tok := 7, pc := 60, fin := .ready [.x 3 9], lands := 1010, dests := [(0, 3)] }, by decide, (0, 3), by decide, by decide⟩
  · rintro ⟨e, he, -⟩
    exact nomatch he
  · simp [OnRegister]

/-- The store of a granule, an atomic, a multicast and two reads on their way. -/
def goingTo (kind : AccKind) (loc : Option Loc) (stage : Nat) : Access :=
  { id := 3, who := ⟨0, 2⟩, thread := 1, key := .own 0, loc := loc, kind := kind, stage := stage }
def goingState (a : Access) : State := { withThread segThread with accs := [a] }
def virtAccess : Access := { goingTo .word none 1 with key := .virt 64, size := 8 }

theorem access_going (a : Access) : (goingState a).access a.id = some a := by
  show List.find? _ [a] = _
  simp

/-- The router of cluster 1 is absent. -/
def offWay (s : State) : State := { s with pkg := { s.pkg with absent := [1] } }
/-- The timed plane has taken bank 0 of the tile on this cycle. -/
def bankUsed (s : State) : State := s.modTile 0 fun u => { u with bankCycle := 1000, bankBusy := 1 }

theorem witness_AccessesPerformAtTheirOwners_1 :
    (∃ (s : State) (a : Access) (loc : Loc) (f : PortFault), s.access a.id = some a ∧ a.kind = .release 5 (ones 32) (some 4) ∧ a.loc = some loc ∧ 2 ≤ a.stage ∧
      routeFault s a loc = some f) ∧
    (∃ a, let s := goingState a
      s.access a.id = some a ∧ a.kind = .release 5 (ones 32) (some 4) ∧ a.loc = some (.sram 0 393184) ∧ routeFault s a (.sram 0 393184) = none ∧
      bankBlocked s a 0 393184 = false) ∧
    (∃ a, let s := bankUsed (goingState a)
      s.access a.id = some a ∧ a.kind = .release 5 1 none ∧ a.loc = some (.sram 0 0) ∧ routeFault s a (.sram 0 0) = none ∧ bankBlocked s a 0 0 = true) ∧
    (∃ a, (goingState a).access a.id = some a ∧ a.kind = .release 5 1 none ∧ a.loc = some (.hbm 64) ∧ routeFault (goingState a) a (.hbm 64) = none) ∧
    (∃ a, let s := goingState a
      s.access a.id = some a ∧ a.kind = .atomic 7 4 true 5 0 3 ∧ a.key = .own 0 ∧ a.byte + 8 ≤ 32 ∧
      answers (sealCheck (s.granule (.sram a.who.tile 0)) none) = true) ∧
    (∀ loc ∈ [Loc.sram 16 393184, .hbm 64], ∃ a, let s := goingState a
      s.access a.id = some a ∧ a.kind = .atomic 7 4 true 5 0 3 ∧ a.key = .virt 64 ∧ a.loc = some loc ∧ a.logged = false ∧ a.byte + 8 ≤ 32 ∧
      answers (sealCheck (s.granule loc) none) = true) ∧
    (∃ a, let s := goingState a
      s.access a.id = some a ∧ a.kind = .multicast 7 (sealed 5 0) ∧ a.loc = some (.sram 0 0) ∧ s.portHolds a 0 0 = false ∧ a.held = none ∧ earlierOwn s a = false) ∧
    (∃ a, let s := goingState a
      s.access a.id = some a ∧ a.stage = 1 ∧ a.kind = .word ∧ farRank s a = none ∧ walkShut s a = false ∧
      found (translate s a.who.tile a.addr (accessNeed s a)) (fun _ _ => true) = false) ∧
    (∃ a, let s := mapped (goingState a)
      s.access a.id = some a ∧ a.stage = 1 ∧ a.kind = .word ∧ farRank s a = none ∧ walkShut s a = false ∧
      found (translate s a.who.tile a.addr (accessNeed s a)) (fun f _ => f.loc.granule = .hbm 64) = true) ∧
    (∃ a, (goingState a).access a.id = some a ∧ 2 ≤ a.stage ∧ a.loc = some (.hbm 64) ∧ routeFault (goingState a) a (.hbm 64) = none) :=
  ⟨⟨offWay (goingState (goingTo (.release 5 (ones 32) (some 4)) (some (.sram 16 0)) 2)), goingTo (.release 5 (ones 32) (some 4)) (some (.sram 16 0)) 2, _,
      routeInvalid 2, access_going _, rfl, rfl, by decide, by decide +kernel⟩,
    ⟨goingTo (.release 5 (ones 32) (some 4)) (some (.sram 0 393184)) 0, access_going _, rfl, rfl, by decide +kernel, by decide +kernel⟩,
    ⟨goingTo (.release 5 1 none) (some (.sram 0 0)) 0, access_going _, rfl, rfl, by decide +kernel, by decide +kernel⟩,
    ⟨goingTo (.release 5 1 none) (some (.hbm 64)) 2, access_going _, rfl, rfl, by decide +kernel⟩,
    ⟨{ goingTo (.atomic 7 4 true 5 0 3) none 0 with byte := 24 }, access_going _, rfl, rfl, by decide, by decide +kernel⟩,
    fun loc h => ⟨{ goingTo (.atomic 7 4 true 5 0 3) (some loc) 2 with key := .virt 64, byte := 24 }, access_going _, rfl, rfl, rfl, rfl, (by decide : 24 + 8 ≤ 32), by
      simp only [List.mem_cons, List.not_mem_nil, or_false] at h
      rcases h with rfl | rfl <;> decide +kernel⟩,
    ⟨goingTo (.multicast 7 (sealed 5 0)) (some (.sram 0 0)) 0, access_going _, rfl, rfl, by decide +kernel, rfl, by decide +kernel⟩,
    ⟨{ virtAccess with key := .virt 0x40000000 }, access_going _, rfl, rfl, by decide +kernel, by decide +kernel, by decide +kernel⟩,
    ⟨virtAccess, access_going _, rfl, rfl, by decide +kernel, by decide +kernel, by decide +kernel⟩,
    ⟨goingTo .word (some (.hbm 64)) 2, access_going _, by decide, rfl, by decide +kernel⟩⟩

def channelOf (slot : Nat) (w : List (Bool × Nat)) (s : State) : State := { s with channels := [(5, { slot := slot, waiting := w })] }
/-- A timed burst of two granules, and its transfer. -/
def aTransfer : Transfer := { id := 9, load := false, va := 0, off := 0, n := 2, deadline := 2000, data := [sealed 1 0, sealed 2 0], addr := 0, region := 7 }
def burstState : State := (goingState (goingTo (.burst 9 0 2) (some (.hbm 4096)) 3)).modTimed 0 fun u => { u with transfers := [aTransfer] }

theorem witness_AccessesPerformAtTheirOwners_2 :
    (∃ (s : State), (s.channel 5).waiting = []) ∧
    (∃ (s : State), let c := s.channel 5
      (∀ w ∈ c.waiting, grantable s c.slot w = false) ∧ c.waiting ≠ []) ∧
    (∃ (s : State) (before after : List (Bool × Nat)) (w : Bool × Nat) (a : Access), let c := s.channel 5
      c.waiting = before ++ w :: after ∧ (∀ x ∈ before, grantable s c.slot x = false ∧ x ≠ w) ∧ grantable s c.slot w = true ∧
      s.access w.2 = some a ∧ before ++ after ≠ []) ∧
    (∃ (s : State) (a : Access) (x : Transfer), s.access a.id = some a ∧ a.kind = .burst 9 0 2 ∧ a.loc = some (.hbm 4096) ∧
      s.transfer a.who.tile 9 = some x ∧ x.load = false ∧ 0 + 2 ≤ x.data.length ∧ 4096 + 32 * 2 ≤ 2 ^ 40 ∧
      (moveRing + 32 ≤ 4096 ∨ 4096 + 32 * 2 ≤ moveRing)) := by
  refine ⟨⟨channelOf 0 [] (withThread segThread), by decide⟩,
    ⟨channelOf 0 [(true, 3)] (goingState (goingTo .word (some (.hbm 64)) 2)), by decide +kernel⟩,
    ⟨awake (channelOf 0 [(false, 3), (false, 4)] (goingState (goingTo .word (some (.hbm 64)) 2))), [], [(false, 4)], (false, 3),
      goingTo .word (some (.hbm 64)) 2, by decide +kernel⟩,
    ⟨burstState, goingTo (.burst 9 0 2) (some (.hbm 4096)) 3, aTransfer, access_going _, rfl, rfl, by decide +kernel, rfl, by decide, by decide, by decide⟩⟩

def publishing (f : Option Nat) (n : Nat) : Thread := { thread0 with outst := [{ tok := 7, pc := 60, fin := .publish f n, lands := 1000 }] }

theorem witness_TrapWaitEvents :
    (∃ (s : State) (w : Who) (t : Thread), s.thread w = some t ∧ t.outst = [] ∧ (s.slot w).evict = none) ∧
    (∃ (s : State) (w : Who) (t : Thread), s.thread w = some t ∧ t.outst ≠ []) ∧
    (∃ (s : State) (w : Who) (t : Thread) (n : Nat), s.thread w = some t ∧ n < 8 ∧ t.status.ie = true ∧ t.status.inh = false ∧ t.entering = none ∧
      t.fatal = none ∧ t.halted = none ∧ (t.ipend &&& t.ienable).getLsbD n = true ∧ ∀ k < n, (t.ipend &&& t.ienable).getLsbD k = false) ∧
    (∃ (s : State) (w : Who) (t : Thread), s.thread w = some t ∧ t.status.ie = true ∧ t.status.inh = true) ∧
    (∀ f n, ∃ (s : State) (w : Who) (t : Thread) (o : Outst), s.thread w = some t ∧
      t.outst.filter (fun o => match o.fin with | .publish .. => true | _ => false) = [o] ∧ o.fin = .publish f n ∧ t.fatal = none) ∧
    (∀ u reading, ∃ (s : State) (w : Who) (t : Thread), s.thread w = some t ∧ t.outst = [] ∧ t.fatal = none ∧
      t.wait = some (.word 64 (.own 0) 0 0 5 3 4 u reading false)) := by
  refine ⟨⟨withThread thread0, ⟨0, 2⟩, thread0, rfl, rfl, rfl⟩, ⟨withThread busyThread, ⟨0, 2⟩, busyThread, rfl, nofun⟩,
    ⟨withThread { interruptedThread with ipend := 0x80, ienable := 0xFF }, ⟨0, 2⟩, _, 7, rfl, by decide⟩,
    ⟨withThread { thread0 with status := { ie := true, inh := true } }, ⟨0, 2⟩, _, rfl, rfl, rfl⟩,
    fun f n => ⟨withThread (publishing f n), ⟨0, 2⟩, publishing f n, _, rfl, rfl, rfl, rfl⟩,
    fun u reading => ⟨withThread (watchingThread u reading), ⟨0, 2⟩, watchingThread u reading, rfl, rfl, rfl, rfl⟩⟩

/-- The victim of an eviction and its save area at the tile's lowest granules. -/
def savedVictim : Victim := { thread := victimThread, save := (List.range 72).map fun i => .sram 0 (32 * i), fault := none, since := 900 }
def restoring : State := (holding (saveGranules victimThread none) (withThread thread0)).modSlot ⟨0, 1⟩ fun sl => { sl with victim := some savedVictim }

/-- The same with all granules but the last read. -/
def lastVictim : Victim := { savedVictim with got := (saveGranules victimThread none).take 71 }
def restoringLast : State := restoring.modSlot ⟨0, 1⟩ fun sl => { sl with victim := some lastVictim }

theorem holding_append (vs : List Vec) (v : Vec) (s : State) :
    holding (vs ++ [v]) s = (holding vs s).setGranule (.sram 0 (32 * vs.length)) (sealed v 0) := by
  simp [holding, List.mapIdx_append, List.mapIdx_cons, List.foldl_append]

theorem sram_addr (i : Nat) : (Loc.granule (.sram 0 (32 * i))).addr = sramBase + 32 * i := by
  simp only [Loc.granule, Loc.addr]; omega

theorem granule_holding_reverse (s : State) (ws : List Vec) : ∀ i < ws.reverse.length,
    (holding ws.reverse s).granule (.sram 0 (32 * i)) = sealed (ws.reverse[i]?.getD 0) 0 := by
  induction ws with
  | nil => intro i h; simp at h
  | cons v ws ih =>
    intro i h
    have hb : sramBase % 32 = 0 := by decide
    rw [List.reverse_cons] at h ⊢
    rw [holding_append, State.granule, State.setGranule, sram_addr, sram_addr]
    by_cases hi : i = ws.reverse.length
    · subst hi; rw [State.granuleAt_setGranuleAt]; simp
    · have hi : i < ws.reverse.length := by rw [List.length_append] at h; simp only [List.length_singleton] at h; omega
      rw [State.granuleAt_setGranuleAt_ne _ _ (by omega) (by omega) (by omega), ← sram_addr, List.getElem?_append_left hi]
      exact ih i hi

theorem granule_holding (vs : List Vec) (s : State) (i : Nat) (h : i < vs.length) :
    (holding vs s).granule (.sram 0 (32 * i)) = sealed (vs[i]?.getD 0) 0 := by
  have := granule_holding_reverse s vs.reverse
  simp only [List.reverse_reverse] at this
  exact this i h

theorem granule_modSlot (s : State) (w : Who) (f : Slot → Slot) (l : Loc) : (s.modSlot w f).granule l = s.granule l := rfl

theorem restoring_granules (i : Nat) (h : i < (saveGranules victimThread none).length) :
    sealCheck (restoring.granule (.sram 0 (32 * i))) none = .ok ((saveGranules victimThread none)[i]?.getD 0, false) := by
  rw [restoring, granule_modSlot, granule_holding _ _ _ h, sealCheck_sealed_none _ _ (by decide)]

theorem portTaken_modSlot (s : State) (w : Who) (f : Slot → Slot) (t o : Nat) : (s.modSlot w f).portTaken t o = s.portTaken t o := by
  have h : ((s.modSlot w f).tile t).bankCycle = (s.tile t).bankCycle ∧ ((s.modSlot w f).tile t).bankBusy = (s.tile t).bankBusy := by
    rw [State.modSlot, State.setSlot, State.tile_modTile]
    split
    · subst t; exact ⟨rfl, rfl⟩
    · exact ⟨rfl, rfl⟩
  simp only [State.portTaken, State.bankTaken, h]
  rfl

theorem portTaken_holding (vs : List Vec) (s : State) (t o : Nat) : (holding vs s).portTaken t o = s.portTaken t o := by
  rw [holding]
  generalize vs.mapIdx _ = l
  induction l generalizing s with
  | nil => rfl
  | cons p l ih => exact (ih _).trans rfl

theorem saveGranules_length (t : Thread) (f : Option Trap) : (saveGranules t f).length = (granulesOfWords (saveWords t f)).length + t.window := by
  simp [saveGranules]

theorem witness_VictimRestore :
    ∃ (s : State) (w : Who) (v : Victim) (l : Loc) (d : Vec) (t : Thread) (p : BitVec 8), (s.slot w).victim = some v ∧ v.save[v.got.length]? = some l ∧
      spillWaits s l = false ∧ sealCheck (s.granule l) none = .ok (d, false) ∧ v.thread = { t with ipend := p } ∧ v.got ++ [d] = saveGranules t none ∧
      v.save.length = v.got.length + 1 ∧ t.fatal = none ∧ t.status.spt = false ∧ t.fmode.toNat < 6 ∧ t.mpc.toNat % 4 = 0 ∧ (∀ n, t.getV n ≠ 0 → n < t.window) := by
  have hl : (saveGranules victimThread none).length = 72 := by
    rw [saveGranules_length]
    have h1 : (granulesOfWords (saveWords victimThread none)).length = 24 := by decide +kernel
    have h2 : victimThread.window = 48 := by decide
    omega
  have hg : (saveGranules victimThread none).take 71 ++ [(saveGranules victimThread none)[71]?.getD 0] = saveGranules victimThread none := by
    generalize saveGranules victimThread none = vs at hl
    have h : vs.take 71 ++ vs.drop 71 = vs := List.take_append_drop 71 vs
    rw [List.drop_eq_getElem_cons (by omega : 71 < vs.length), List.drop_eq_nil_of_le (by omega : vs.length ≤ 71 + 1)] at h
    rwa [List.getElem?_eq_getElem (by omega), Option.getD_some]
  have ht : ((saveGranules victimThread none).take 71).length = 71 := by rw [List.length_take]; omega
  refine ⟨restoringLast, ⟨0, 1⟩, lastVictim, .sram 0 (32 * 71), (saveGranules victimThread none)[71]?.getD 0, victimThread, 0, ?_, ?_, ?_, ?_, ?_,
    hg, ?_, rfl, rfl, by decide, by decide, fun n h => absurd rfl h⟩
  · rw [restoringLast, State.slot_modSlot]; rfl
  · show savedVictim.save[((saveGranules victimThread none).take 71).length]? = _
    rw [ht]; decide +kernel
  · rw [spillWaits, restoringLast, portTaken_modSlot, restoring, portTaken_modSlot, portTaken_holding]; decide +kernel
  · rw [restoringLast, granule_modSlot]; exact restoring_granules 71 (by omega)
  · decide +kernel
  · show savedVictim.save.length = ((saveGranules victimThread none).take 71).length + 1
    rw [ht]; decide

def spilled (s : State) : State := s.modSlot ⟨0, 1⟩ fun sl => { sl with victim := some savedVictim }
theorem spilled_victim (s : State) : ((spilled s).slot ⟨0, 1⟩).victim = some savedVictim := by rw [spilled, State.slot_modSlot]; rfl

theorem witness_VictimReads :
    (∃ (s : State) (w : Who) (v : Victim) (l : Loc), (s.slot w).victim = some v ∧ v.save[v.got.length]? = some l ∧ spillWaits s l = true) ∧
    (∃ (s : State) (w : Who) (v : Victim) (l : Loc) (d : Vec), (s.slot w).victim = some v ∧ v.save[v.got.length]? = some l ∧ spillWaits s l = false ∧
      sealCheck (s.granule l) none = .ok (d, false) ∧ v.got.length + 1 < v.save.length) ∧
    ∃ (s : State) (w : Who) (v : Victim) (l : Loc) (f : SealFault), (s.slot w).victim = some v ∧ v.save[v.got.length]? = some l ∧ spillWaits s l = false ∧
      sealCheck (s.granule l) none = .error f := by
  refine ⟨⟨spilled (bankUsed (withThread thread0)), ⟨0, 1⟩, savedVictim, .sram 0 0, spilled_victim _, by decide +kernel, by decide +kernel⟩,
    ⟨spilled ((withThread thread0).setGranule (.sram 0 0) (sealed 5 0)), ⟨0, 1⟩, savedVictim, .sram 0 0, 5, spilled_victim _, by decide +kernel,
      by decide +kernel, ?_, by decide +kernel⟩,
    ⟨spilled ((withThread thread0).setGranule (.sram 0 0) (sealed 0 0x3F)), ⟨0, 1⟩, savedVictim, .sram 0 0, .poison, spilled_victim _, by decide +kernel,
      by decide +kernel, ?_⟩⟩
  · have h : ((withThread thread0).setGranule (.sram 0 0) (sealed 5 0)).granule (.sram 0 0) = sealed 5 0 := by decide +kernel
    rw [spilled, granule_modSlot, h]; exact sealCheck_sealed_none _ _ (by decide)
  · have h : ((withThread thread0).setGranule (.sram 0 0) (sealed 0 0x3F)).granule (.sram 0 0) = sealed 0 0x3F := by decide +kernel
    rw [spilled, granule_modSlot, h, sealCheck, if_pos (by decide +kernel)]

/-- A string of hop codes. -/
def hops (codes : List Nat) : Vec := BitVec.ofNat 256 (codes.foldr (fun c n => c + 8 * n) 0 + codes.length * 2 ^ 192)
/-- A packet at the router of a cluster in the middle of the first die, about to read a code. -/
def travelling (codes : List Nat) (i : Nat) (h : BitVec 2) : Packet :=
  { id := 9, who := ⟨0, 2⟩, thread := 1, tok := 7, pc := 60, desc := hops codes, index := i, cluster := 150, heading := h, load := .steal 4 }
def mesh (ps : List Packet) (s : State) : State := { s with packets := ps }
def ejectedAt (tile : Nat) (load : Payload) : Packet := { travelling [1, 3, 0, 0] 1 0 with ejected := some tile, load := load }
/-- A doorway: queue 0 of tile 0 with room for two granules from other tiles. -/
def remoteQueue (x : Queue) (s : State) : State := s.modTile 0 (·.setQueue 0 x)

/-- The premises on a packet whose router reads a code that is not the first. -/
def reads (s : State) (p : Packet) (c : Nat) : Bool :=
  s.packet p.id == some p && !p.behind s && decide (p.index < p.desc.toNat / 2 ^ 192 % 256) && decide (p.index ≠ 0) &&
    decide (p.desc.toNat / 2 ^ (3 * p.index) % 8 = c)

theorem witness_PacketsTravel :
    (∃ (s : State) (p : Packet), s.packet p.id = some p ∧ s.accs = [] ∧ s.deliveries = [] ∧ ∀ q ∈ s.packets, q.id = p.id ∨ q.dropped = true ∨ q.away = true) ∧
    (∃ (s : State) (p : Packet), (s.packet p.id = some p) ∧ p.behind s = true) ∧
    (∃ (s : State) (p : Packet), s.packet p.id = some p ∧ p.behind s = false ∧ p.desc.toNat / 2 ^ 192 % 256 ≤ p.index) ∧
    (∀ c, c ∈ [3, 4] → ∃ (s : State) (p : Packet), s.packet p.id = some p ∧ p.behind s = false ∧ p.index < p.desc.toNat / 2 ^ 192 % 256 ∧ p.index = 0 ∧
      p.desc.toNat / 2 ^ 0 % 8 = c) ∧
    (∃ (s : State) (p : Packet), reads s p 7 = true) ∧ (∃ (s : State) (p : Packet), reads s p 6 = true ∧ p.escape = true) ∧ (∃ (s : State) (p : Packet), reads s p 6 = true ∧ p.escape = false) ∧
    -- straight on, to the left and to the right: forbidden, off the grid, over the die's edge, at a router that is absent, and free
    (∃ (s : State) (p : Packet), reads s p 0 = true ∧ p.bent = true ∧ p.heading = 0) ∧
    (∃ (s : State) (p : Packet), reads s p 1 = true ∧ p.bent = true ∧ p.escape = true ∧ leftOf p.heading = 3) ∧
    (∃ (s : State) (p : Packet), reads s p 2 = true ∧ p.bent = false ∧ neighbour p.cluster (rightOf p.heading) = none) ∧
    (∃ (s : State) (p : Packet) (c : Nat), reads s p 0 = true ∧ p.bent = false ∧ neighbour p.cluster p.heading = some c ∧ c / 320 ≠ p.cluster / 320) ∧
    (∃ (s : State) (p : Packet) (c : Nat), reads s p 0 = true ∧ p.bent = false ∧ neighbour p.cluster p.heading = some c ∧ c ∈ s.pkg.absent) ∧
    (∃ (s : State) (p : Packet) (c : Nat), reads s p 0 = true ∧ p.bent = false ∧ neighbour p.cluster p.heading = some c ∧ c / 320 = p.cluster / 320 ∧ c ∉ s.pkg.absent) ∧
    -- the code of a crossing: of one that is there, of one that is down, and where there is none
    (∀ down, down ∈ [true, false] → ∃ (s : State) (p : Packet) (c : Nat), reads s p 4 = true ∧ p.bent = false ∧ neighbour p.cluster p.heading = some c ∧
      c / 320 ≠ p.cluster / 320 ∧ s.crossingDown p.cluster p.heading.toNat = down ∧ c ∉ s.pkg.absent) ∧
    (∃ (s : State) (p : Packet) (c : Nat), reads s p 4 = true ∧ p.bent = false ∧ neighbour p.cluster p.heading = some c ∧ c / 320 = p.cluster / 320) ∧
    -- the code of a port that is up, and of one that is not
    (∀ up, up ∈ [3, 1] → ∃ (s : State) (p : Packet), reads s p 5 = true ∧ p.desc.toNat / 2 ^ 192 % 256 = p.index + 3 ∧
      p.desc.toNat / 2 ^ (3 * (p.index + 1)) % 8 * 8 + p.desc.toNat / 2 ^ (3 * (p.index + 2)) % 8 = 23 ∧
      (s.pkg.ports[23]?.getD ({} : LinkPort)).state = up ∧ clusterOf (s.pkg.ports[23]?.getD ({} : LinkPort)).tile = p.cluster) ∧
    (∀ n, n ∈ [0, 15, 20, 63] → ∃ (s : State) (p : Packet), reads s p 3 = true ∧ p.desc.toNat / 2 ^ 192 % 256 = p.index + 3 ∧
      n = p.desc.toNat / 2 ^ (3 * (p.index + 1)) % 8 * 8 + p.desc.toNat / 2 ^ (3 * (p.index + 2)) % 8 ∧
      (n < 16 → s.hole (clusterTile p.cluster n) = false)) := by
  let s0 := withThread thread0
  let at_ (up : Nat) (s : State) : State :=
    { s with pkg := { s.pkg with ports := s.pkg.ports.setIfInBounds 23 { state := up, tile := clusterTile 150 5 } } }
  refine ⟨⟨mesh [travelling [1, 3, 0, 0] 1 0] s0, travelling [1, 3, 0, 0] 1 0, by decide +kernel, rfl, rfl, by decide +kernel⟩,
    ⟨mesh [{ travelling [1, 3, 0, 0] 1 0 with id := 5 }, travelling [1, 3, 0, 0] 1 0] s0, travelling [1, 3, 0, 0] 1 0, by decide +kernel, by decide +kernel⟩,
    ⟨mesh [travelling [1, 3] 2 0] s0, travelling [1, 3] 2 0, by decide +kernel, by decide +kernel, by decide +kernel⟩,
    fun c hc => ⟨mesh [travelling [c, 3, 0, 0] 0 0] s0, travelling [c, 3, 0, 0] 0 0, ?_⟩,
    ⟨mesh [travelling [1, 7] 1 0] s0, travelling [1, 7] 1 0, by decide +kernel⟩,
    ⟨mesh [{ travelling [1, 6] 1 0 with escape := true }] s0, { travelling [1, 6] 1 0 with escape := true }, by decide +kernel, rfl⟩,
    ⟨mesh [travelling [1, 6] 1 0] s0, travelling [1, 6] 1 0, by decide +kernel, rfl⟩,
    ⟨mesh [{ travelling [1, 0] 1 0 with bent := true }] s0, { travelling [1, 0] 1 0 with bent := true }, by decide +kernel, rfl, rfl⟩,
    ⟨mesh [{ travelling [1, 1] 1 2 with bent := true, escape := true }] s0, { travelling [1, 1] 1 2 with bent := true, escape := true }, by decide +kernel, rfl, rfl, by decide⟩,
    ⟨mesh [{ travelling [1, 2] 1 0 with cluster := 0 }] s0, { travelling [1, 2] 1 0 with cluster := 0 }, by decide +kernel, rfl, by decide +kernel⟩,
    ⟨mesh [{ travelling [1, 0] 1 3 with cluster := 19 }] s0, { travelling [1, 0] 1 3 with cluster := 19 }, 320, by decide +kernel, rfl, rfl, by decide⟩,
    ⟨{ mesh [travelling [1, 0] 1 3] s0 with pkg := { s0.pkg with absent := [151] } }, travelling [1, 0] 1 3, 151, by decide +kernel, rfl, rfl, by decide⟩,
    ⟨mesh [travelling [1, 0] 1 3] s0, travelling [1, 0] 1 3, 151, by decide +kernel, rfl, rfl, by decide, by decide⟩,
    fun down hd => ⟨{ mesh [{ travelling [1, 4] 1 3 with cluster := 19 }] s0 with pkg := { s0.pkg with severed := if down then [(19, 3)] else [] } },
      { travelling [1, 4] 1 3 with cluster := 19 }, 320, ?_⟩,
    ⟨mesh [travelling [1, 4] 1 3] s0, travelling [1, 4] 1 3, 151, by decide +kernel, rfl, rfl, by decide⟩,
    fun up hu => ⟨at_ up (mesh [travelling [1, 5, 2, 7] 1 3] s0), travelling [1, 5, 2, 7] 1 3, ?_⟩,
    fun n hn => ⟨mesh [travelling [1, 3, n / 8, n % 8] 1 3] s0, travelling [1, 3, n / 8, n % 8] 1 3, ?_⟩⟩
  · simp only [List.mem_cons, List.not_mem_nil, or_false] at hc
    rcases hc with rfl | rfl <;> decide +kernel
  · simp only [List.mem_cons, List.not_mem_nil, or_false] at hd
    rcases hd with rfl | rfl <;> exact ⟨by decide +kernel, rfl, rfl, by decide, by decide +kernel, by decide +kernel⟩
  · simp only [List.mem_cons, List.not_mem_nil, or_false] at hu
    rcases hu with rfl | rfl <;> decide +kernel
  · simp only [List.mem_cons, List.not_mem_nil, or_false] at hn
    rcases hn with rfl | rfl | rfl | rfl <;> decide +kernel

theorem witness_PacketsArrive :
    (∃ (s : State) (p : Packet) (tile q : Nat) (g : Granule), s.packet p.id = some p ∧ p.behind s = false ∧ p.ejected = some tile ∧ p.load = .granule q g ∧ 40960 ≤ tile) ∧
    (∃ (s : State) (p : Packet) (tile q : Nat) (g : Granule), s.packet p.id = some p ∧ p.behind s = false ∧ p.ejected = some tile ∧ p.load = .granule q g ∧ tile < 40960 ∧
      ((s.tile tile).queue q).enabled = true ∧ ((s.tile tile).queue q).remote = false) ∧
    (∀ n, n ∈ [1, 2] → ∃ (s : State) (p : Packet) (tile q : Nat) (g : Granule), let x := (s.tile tile).queue q
      s.packet p.id = some p ∧ p.behind s = false ∧ p.ejected = some tile ∧ p.load = .granule q g ∧ tile < 40960 ∧
      x.enabled = true ∧ x.remote = true ∧ x.depth = 2 ∧ x.count + x.inFlight = n ∧ s.portTaken tile (x.offset x.tail) = false) ∧
    (∃ (s : State) (p : Packet) (tile q : Nat) (g : Granule), let x := (s.tile tile).queue q
      s.packet p.id = some p ∧ p.ejected = some tile ∧ p.load = .granule q g ∧ tile < 40960 ∧ x.enabled = true ∧ x.remote = true ∧
      s.portTaken tile (x.offset x.tail) = true) ∧
    (∀ d, ∃ (s : State) (p : Packet) (tile : Nat), s.packet p.id = some p ∧ p.ejected = some tile ∧ p.load = .steal d ∧ tile < 40960 ∧
      s.cycle < (s.tile tile).dequeFrom) ∧
    (∀ d, ∃ (s : State) (p : Packet) (tile : Nat), s.packet p.id = some p ∧ p.ejected = some tile ∧ p.load = .steal d ∧ tile < 40960 ∧
      (s.tile tile).dequeFrom ≤ s.cycle) ∧
    (∀ d, ∃ (s : State) (p : Packet) (tile slot : Nat), s.packet p.id = some p ∧ p.behind s = false ∧ p.ejected = some tile ∧ p.load = .doorbell d slot ∧
      tile < 40960 ∧ slot < (s.tile tile).width ∧ (s.thread ⟨tile, slot⟩).isSome = true) ∧
    (∀ d, ∃ (s : State) (p : Packet) (tile slot : Nat), s.packet p.id = some p ∧ p.behind s = false ∧ p.ejected = some tile ∧ p.load = .doorbell d slot ∧
      s.thread ⟨tile, slot⟩ = none) ∧
    (∀ d, ∃ (s : State) (p : Packet) (tile slot n : Nat) (child : Thread), s.packet p.id = some p ∧ p.behind s = false ∧ p.ejected = some tile ∧ p.load = .spawn d slot n child ∧
      tile < 40960 ∧ (s.tile tile).width ≤ 8 ∧ spawnStatusOf (s.tile tile) 8 slot child.window = 0) ∧
    (∀ d tile, ∃ (s : State) (p : Packet), s.packet p.id = some p ∧ p.behind s = false ∧ p.ejected = some tile ∧ p.load = .steal d) := by
  let s0 := withThread thread0
  let g0 : Granule := sealed 5 0
  let x (n : Nat) : Queue := { cfg := 0x1FFFF01000000, count := n }
  refine ⟨⟨mesh [ejectedAt 40960 (.granule 0 g0)] s0, ejectedAt 40960 (.granule 0 g0), 40960, 0, g0, by decide +kernel, by decide +kernel, rfl, rfl, by decide⟩,
    ⟨queued (mesh [ejectedAt 0 (.granule 0 g0)] s0), ejectedAt 0 (.granule 0 g0), 0, 0, g0, by decide +kernel, by decide +kernel, rfl, rfl, by decide, by decide +kernel, by decide +kernel⟩,
    fun n hn => ⟨remoteQueue (x n) (mesh [ejectedAt 0 (.granule 0 g0)] s0), ejectedAt 0 (.granule 0 g0), 0, 0, g0, ?_⟩,
    ⟨bankUsed (remoteQueue (x 1) (mesh [ejectedAt 0 (.granule 0 g0)] s0)), ejectedAt 0 (.granule 0 g0), 0, 0, g0, by decide +kernel, rfl, rfl, by decide,
      by decide +kernel, by decide +kernel, by decide +kernel⟩,
    fun d => ⟨mesh [ejectedAt 0 (.steal d)] (s0.modTile 0 fun u => { u with dequeFrom := 1001 }), ejectedAt 0 (.steal d), 0, rfl, rfl, rfl, by decide,
      (by decide +kernel : 1000 < ((s0.modTile 0 fun u => { u with dequeFrom := 1001 }).tile 0).dequeFrom)⟩,
    fun d => ⟨mesh [ejectedAt 0 (.steal d)] s0, ejectedAt 0 (.steal d), 0, rfl, rfl, rfl, by decide, (by decide +kernel : (s0.tile 0).dequeFrom ≤ 1000)⟩,
    fun d => ⟨mesh [ejectedAt 0 (.doorbell d 2)] s0, ejectedAt 0 (.doorbell d 2), 0, 2, rfl, rfl, rfl, rfl, by decide,
      (by decide +kernel : 2 < ((withThread thread0).tile 0).width), (by decide +kernel : ((withThread thread0).thread ⟨0, 2⟩).isSome = true)⟩,
    fun d => ⟨mesh [ejectedAt 0 (.doorbell d 1)] s0, ejectedAt 0 (.doorbell d 1), 0, 1, rfl, rfl, rfl, rfl, rfl⟩,
    fun d => ⟨mesh [ejectedAt 0 (.spawn d 1 1 thread0)] s0, ejectedAt 0 (.spawn d 1 1 thread0), 0, 1, 1, thread0, rfl, rfl, rfl, rfl, by decide,
      (by decide +kernel : ((withThread thread0).tile 0).width ≤ 8), (by decide +kernel : spawnStatusOf ((withThread thread0).tile 0) 8 1 thread0.window = 0)⟩,
    fun d tile => ⟨mesh [ejectedAt tile (.steal d)] s0, ejectedAt tile (.steal d), rfl, rfl, rfl, rfl⟩⟩
  simp only [List.mem_cons, List.not_mem_nil, or_false] at hn
  rcases hn with rfl | rfl <;> exact ⟨by decide +kernel, by decide +kernel, rfl, rfl, by decide, by decide +kernel, by decide +kernel, by decide +kernel,
    by decide +kernel, by decide +kernel⟩

/-- A launch of one thread, on tile 0. -/
def aLaunch : Launch := { tiles := [0], parts := [(0, {})] }
def inLaunch (l : Launch) (s : State) : State := { s with launches := [(3, l)] }
/-- A register on its way to the thread in item 9. -/
def delivered (item : Nat) (waiting : Bool) : Delivery :=
  { id := 11, who := ⟨0, 1⟩, thread := 5, tok := 70, launch := 3, key := ⟨item, 0, 1⟩, target := ⟨0, 2⟩, entry := .poison, waiting := waiting }
def delivering (item : Nat) (waiting : Bool) : State :=
  { inLaunch aLaunch (withThread itemThread) with deliveries := [delivered item waiting] }
/-- A post of the thread on its way to tile 0 and tile 1. -/
def aPost (sent : Bool) : PostOp := { id := 12, who := ⟨0, 2⟩, thread := 1, tok := 7, pc := 60, value := 5, p := 3, left := [0, 1], sent := sent }
def posting (sent : Bool) (s : State) : State := { s with posts := [aPost sent] }
/-- A tile in a region, with window 2 open for posts 3. -/
def windowed (s : State) : State :=
  (inRegion aRegion s).modTimed 0 fun u => { u with region := some 7, files := { u.files with win := u.files.win.set 2 { st := .opened, desc := BitVec.ofNat 256 (8 * 2 ^ 240) } } }
def arriving (num count : Nat) (old : List (Who × Nat)) (s : State) : State :=
  s.modCluster 0 fun k => { k with arriving := [(num, ⟨0, 2⟩, 1, count)], barriers := k.barriers.setIfInBounds num { count := if old = [] then 0 else 2, arrived := old } }

theorem witness_TileEvents_1 :
    (∃ (s : State) (d : Delivery) (i : Nat), s.deliveries.find? (·.id = d.id) = some d ∧ s.accs = [] ∧
      pathFault s (clusterOf d.who.tile) (clusterOf d.target.tile) = some i) ∧
    (∃ (s : State) (d : Delivery), s.deliveries.find? (·.id = d.id) = some d ∧ s.accs = [] ∧
      pathFault s (clusterOf d.who.tile) (clusterOf d.target.tile) = none ∧ d.bank s = none) ∧
    (∀ b, b ∈ [3, 4] → ∃ (s : State) (d : Delivery), s.deliveries.find? (·.id = d.id) = some d ∧ s.accs = [] ∧
      pathFault s (clusterOf d.who.tile) (clusterOf d.target.tile) = none ∧ d.bank s = some b) ∧
    (∃ (s : State) (w : Who) (d : Delivery), d ∈ s.deliveries ∧ d.waiting = true ∧ d.target = w ∧ (d.bank s).getD 0 ≤ 3 ∧
      ∀ e ∈ s.deliveries, e.id = d.id → e = d) ∧
    (∀ o, o = true ∨ o = false → ∃ (s : State) (tile j n : Nat) (st : Stream), (s.tile tile).stream j = some st ∧ st.write = false ∧ st.seg.kind = 2 ∧ n ∈ st.busy ∧
      (∀ k ∈ st.busy, n ≤ k) ∧ s.accs = [] ∧ s.portTaken tile (st.seg.address (st.offset n)) = false ∧
      (s.tile tile).openGranule (st.seg.address (st.offset n)) = o) ∧
    (∃ (s : State) (tile j n off : Nat) (st : Stream) (g : Granule) (rest : List (Nat × Granule × Loc)), (s.tile tile).stream j = some st ∧
      st.drain = (n, g, .sram tile off) :: rest ∧ rest ≠ [] ∧ off % 32 = 0 ∧ off + 32 ≤ 393216 ∧ s.portTaken tile off = false) := by
  refine ⟨⟨offWay { delivering 8 false with deliveries := [{ delivered 8 false with target := ⟨16, 2⟩ }] }, { delivered 8 false with target := ⟨16, 2⟩ }, 2, rfl, rfl,
      by decide +kernel⟩,
    ⟨delivering 8 false, delivered 8 false, rfl, rfl, by decide +kernel, by decide +kernel⟩, fun b hb => ⟨delivering (9 + b) false, delivered (9 + b) false, ?_⟩,
    ⟨delivering 12 true, ⟨0, 2⟩, delivered 12 true, List.mem_singleton.2 rfl, rfl, rfl, by decide +kernel, fun e he _ => List.mem_singleton.1 he⟩,
    fun o ho => ⟨(if o then id else shut) (streaming 3 { readStream with busy := [4] } (withThread thread0)), 0, 3, 4, { readStream with busy := [4] }, ?_⟩,
    ⟨streaming 3 { writeStream with drain := [(0, sealed 5 0, .sram 0 64), (1, sealed 5 0, .sram 0 96)] } (withThread thread0), 0, 3, 0, 64,
      { writeStream with drain := [(0, sealed 5 0, .sram 0 64), (1, sealed 5 0, .sram 0 96)] }, sealed 5 0, _, rfl, rfl, List.cons_ne_nil _ _, by decide, by decide, by decide +kernel⟩⟩
  · simp only [List.mem_cons, List.not_mem_nil, or_false] at hb
    rcases hb with rfl | rfl <;> exact ⟨rfl, rfl, by decide +kernel, by decide +kernel⟩
  · rcases ho with rfl | rfl <;> exact ⟨rfl, rfl, rfl, by decide, by decide, rfl, by decide +kernel, by decide +kernel⟩

theorem witness_TileEvents_2 :
    (∀ full, full = true ∨ full = false → ∃ (s : State) (tile i : Nat) (a : Armed), i < 16 ∧ (s.tile tile).armed[i]?.getD none = some a ∧
      a.fired = true ∧ (∀ k < 16, k ≠ i → ∀ b, (s.tile tile).armed[k]?.getD none = some b → b.fired = false) ∧
      (full = true ↔ ¬ (s.tile tile).deque.length + (s.tile tile).forking < 32) ∧ (s.tile tile).dequeFrom ≤ s.cycle) ∧
    (∃ (s : State) (tile i : Nat) (a : Armed), i < 16 ∧ (s.tile tile).armed[i]?.getD none = some a ∧ a.fired = true ∧ s.cycle < (s.tile tile).dequeFrom) ∧
    (∀ num, num ∈ [15, 16] → ∃ (s : State) (c serial count : Nat) (who : Who),
      (s.cluster c).arriving.find? (fun p => p.1 = num ∧ p.2.2.1 = serial) = some (num, who, serial, count) ∧ 1 < count) ∧
    (∃ (s : State) (c serial count : Nat) (who : Who),
      (s.cluster c).arriving.find? (fun p => p.1 = 4 ∧ p.2.2.1 = serial) = some (4, who, serial, count) ∧
      ((s.cluster c).barriers[4]?.getD (Barrier.mk 0 [])).count = 2 ∧ ((s.cluster c).barriers[4]?.getD (Barrier.mk 0 [])).arrived.length = 1 ∧
      (who, serial) ∉ ((s.cluster c).barriers[4]?.getD (Barrier.mk 0 [])).arrived) ∧
    (∃ (s : State) (op : PostOp), s.posts.find? (·.id = op.id) = some op ∧ op.sent = false ∧ pendingWithin s op.who op.thread 6 = true) ∧
    (∃ (s : State) (op : PostOp), s.posts.find? (·.id = op.id) = some op ∧ op.sent = false ∧ pendingWithin s op.who op.thread 6 = false ∧ op.left = [op.who.tile]) ∧
    (∃ (s : State) (op : PostOp) (tile next : Nat) (rest : List Nat) (r : Window), s.posts.find? (·.id = op.id) = some op ∧ op.sent = true ∧ op.left = tile :: next :: rest ∧
      s.hole tile = false ∧ (s.tileRegion tile).isSome = true ∧ r ∈ (s.tile tile).timed.files.win.toList ∧ r.posts.getLsbD op.p = true ∧ r.st = .opened) ∧
    (∃ (s : State) (op : PostOp) (tile next : Nat) (rest : List Nat), s.posts.find? (·.id = op.id) = some op ∧ op.sent = true ∧ op.left = tile :: next :: rest ∧
      (s.tileRegion tile).isSome = false) := by
  refine ⟨fun full hf => ⟨(if full then forked 32 else forked 31) (armedAt 5 64 true (withThread thread0)), 0, 5, { off := 64, record := 0x81, fired := true }, ?_⟩,
    ⟨(armedAt 5 64 true (withThread thread0)).modTile 0 fun u => { u with dequeFrom := 1001 }, 0, 5, { off := 64, record := 0x81, fired := true }, by decide,
      by decide +kernel, rfl, by decide +kernel⟩,
    fun num hn => ⟨arriving num 3 [] (withThread thread0), 0, 1, 3, ⟨0, 2⟩, ?_⟩,
    ⟨arriving 4 2 [(⟨5, 1⟩, 6)] (withThread thread0), 0, 1, 2, ⟨0, 2⟩, by decide +kernel⟩,
    ⟨posting false (waiting (withThread thread0)), aPost false, rfl, rfl, by decide +kernel⟩,
    ⟨{ withThread thread0 with posts := [{ aPost false with left := [0] }] }, { aPost false with left := [0] }, rfl, rfl, by decide +kernel, rfl⟩,
    ⟨posting true (windowed (withThread thread0)), aPost true, 0, 1, [], { st := .opened, desc := BitVec.ofNat 256 (8 * 2 ^ 240) }, rfl, rfl, rfl, by decide +kernel, by decide +kernel, by decide +kernel,
      by decide +kernel, rfl⟩,
    ⟨posting true (withThread thread0), aPost true, 0, 1, [], rfl, rfl, rfl, by decide +kernel⟩⟩
  · have others : ∀ s : State, ((List.range 16).all fun k => decide (k = 5) || ((s.tile 0).armed[k]?.getD none).isNone) = true →
        ∀ k < 16, k ≠ 5 → ∀ b, (s.tile 0).armed[k]?.getD none = some b → b.fired = false := by
      intro s h k hk h5 b hb
      have := List.all_eq_true.1 h k (List.mem_range.2 hk)
      simp [h5, hb] at this
    rcases hf with rfl | rfl <;> exact ⟨by decide, by decide +kernel, rfl, others _ (by decide +kernel), by decide +kernel, by decide +kernel⟩
  · simp only [List.mem_cons, List.not_mem_nil, or_false] at hn
    rcases hn with rfl | rfl <;> decide +kernel

def sramSpan0 (off n : Nat) : Span := ⟨false, off, [{ start := 0, size := n, loc := .sram 0 off }]⟩
/-- An operation of the thread that writes one granule at 4096, which its completion word at 8192 counts or which nothing does. -/
def engineOp (kind : EngKind) (word : Option (Nat × Nat)) : EngOp :=
  { id := 20, who := ⟨0, 2⟩, thread := 1, tok := 7, launch := none, kind := kind, length := 1, src := some (sramSpan0 0 32)
    dests := [{ span := sramSpan0 4096 32, word := word }] }
def engineState (o : EngOp) (s : State) : State := s.modCluster 0 fun k => { k with engine := [o] }
def aLock : Lock := { virt := false, lock := 2, owner := 0, ident := 5, first := 0, last := 31 }
def locksHeld (n : Nat) (s : State) : State := s.modTile 0 fun u => { u with locks := (List.range n).map fun i => (i, aLock) }

theorem sound_of {s : State} {loc : Loc} {v : Vec} (h : s.granule loc = sealed v 0) : Sound s loc v := by
  rw [Sound, h]; exact sealCheck_sealed_none _ _ (by decide)

/-- A page that has moved to rank 3. -/
def movedSpan : Span := ⟨true, 4096, [⟨0, 4096, .remote 3 4096, false⟩]⟩

theorem witness_EngineEvents :
    (∀ n, n ∈ [15, 16] → ∃ (s : State) (c : Nat) (o : EngOp) (r : Registration), s.engOp c o.id = some o ∧ o.asks = [r] ∧
      (s.tile r.tile).locks.length = n) ∧
    (∃ (s : State) (c : Nat) (o : EngOp), s.engOp c o.id = some o ∧ ((s.cluster c).engine.filter (·.accepted)).length = 32) ∧
    (∃ (s : State) (c : Nat) (o : EngOp), s.engOp c o.id = some o ∧ pendingWithin s o.who o.thread 6 = true) ∧
    (∃ (s : State) (c : Nat) (o : EngOp), s.engOp c o.id = some o ∧ ((s.cluster c).engine.filter (·.accepted)).length < 32 ∧
      pendingWithin s o.who o.thread 6 = false ∧ o.far = none ∧ o.parked = false) ∧
    (∃ (s : State) (c : Nat) (o : EngOp) (i : Nat) (sp : Span) (loc : Loc) (b : Bool), s.engOp c o.id = some o ∧ o.accepted = true ∧ o.kind = .cpy ∧ o.left = [(i, 1)] ∧
      o.held = [] ∧ o.src = some sp ∧ sp.at (i % o.length) = some (loc, b) ∧ s.busyAt loc = false ∧
      loc.far = false) ∧
    (∀ pat tag, ∃ (s : State) (c : Nat) (o : EngOp) (i : Nat) (g : Granule), s.engOp c o.id = some o ∧ o.accepted = true ∧ o.kind = .fill pat tag ∧
      o.left = [(i, 1)] ∧ o.held = [] ∧ g = sealed (pat ++ pat ++ pat ++ pat) tag) ∧
    (∃ (s : State) (c : Nat) (o : EngOp) (i : Nat) (g : Granule) (d : Dest) (loc : Loc), s.engOp c o.id = some o ∧ o.accepted = true ∧ o.kind = .cpy ∧
      o.left = [] ∧ o.held = [(i, g)] ∧ i < o.length ∧ o.dests = [d] ∧ d.span.at i = some (loc, false) ∧ s.busyAt loc = false ∧ loc.far = false ∧ loc.addr % 32 = 0 ∧
      d.word = none ∧ d.wrote + 1 = o.length) ∧
    (∃ (s : State) (c : Nat) (o : EngOp) (i : Nat) (g : Granule) (d : Dest) (loc : Loc), s.engOp c o.id = some o ∧ o.accepted = true ∧ o.kind = .cpy ∧
      o.left = [] ∧ o.held = [(i, g)] ∧ i < o.length ∧ o.dests = [d] ∧ d.span.at i = some (loc, false) ∧ s.busyAt loc = false ∧ loc.far = true ∧
      d.word = none) ∧
    (∃ (s : State) (c : Nat) (o : EngOp) (i : Nat) (g : Granule) (d : Dest) (loc : Loc) (tile off : Nat) (v : Vec), s.engOp c o.id = some o ∧ o.accepted = true ∧
      o.kind = .cpy ∧ o.left = [] ∧ o.held = [(i, g)] ∧ i < o.length ∧ o.dests = [d] ∧ d.span.at i = some (loc, false) ∧ s.busyAt loc = false ∧ loc.far = false ∧
      loc.addr % 32 = 0 ∧ d.word = some (tile, off) ∧ s.portTaken tile off = false ∧ off % 8 = 0 ∧ d.wrote + 1 = o.length ∧
      Sound s (.sram tile off) v ∧ (Loc.sram tile off).granule.addr ≠ loc.addr) := by
  let s0 := withThread thread0
  let o := engineOp .cpy none
  refine ⟨fun n hn => ⟨engineState { o with asks := [⟨0, aLock, none⟩] } (locksHeld n s0), 0, { o with asks := [⟨0, aLock, none⟩] }, ⟨0, aLock, none⟩, ?_⟩,
    ⟨s0.modCluster 0 fun k => { k with engine := o :: List.replicate 32 { o with id := 21, accepted := true } }, 0, o, by decide +kernel, by decide +kernel⟩,
    ⟨engineState o (waiting s0), 0, o, by decide +kernel, by decide +kernel⟩,
    ⟨engineState o s0, 0, o, by decide +kernel, by decide +kernel, by decide +kernel, rfl, rfl⟩,
    ⟨engineState { o with accepted := true, left := [(0, 1)] } s0, 0, { o with accepted := true, left := [(0, 1)] }, 0, sramSpan0 0 32, .sram 0 0, false,
      by decide +kernel, rfl, rfl, rfl, rfl, rfl, by decide, by decide +kernel, rfl⟩,
    fun pat tag => ⟨engineState { engineOp (.fill pat tag) none with accepted := true, left := [(0, 1)] } s0, 0,
      { engineOp (.fill pat tag) none with accepted := true, left := [(0, 1)] }, 0, _, rfl, rfl, rfl, rfl, rfl, rfl⟩,
    ⟨engineState { o with accepted := true, held := [(0, sealed 5 0)] } s0, 0, { o with accepted := true, held := [(0, sealed 5 0)] }, 0, sealed 5 0,
      { span := sramSpan0 4096 32 }, .sram 0 4096, by decide +kernel, rfl, rfl, rfl, rfl, by decide, rfl, by decide, by decide +kernel, rfl, by decide, rfl, rfl⟩,
    ⟨engineState { o with accepted := true, held := [(0, sealed 5 0)], dests := [{ span := movedSpan }] } s0, 0,
      { o with accepted := true, held := [(0, sealed 5 0)], dests := [{ span := movedSpan }] }, 0, sealed 5 0, { span := movedSpan }, .remote 3 4096,
      by decide +kernel, rfl, rfl, rfl, rfl, by decide, rfl, by decide, by decide, rfl, rfl⟩,
    ⟨engineState { engineOp .cpy (some (0, 8192)) with accepted := true, held := [(0, sealed 5 0)] } s0, 0,
      { engineOp .cpy (some (0, 8192)) with accepted := true, held := [(0, sealed 5 0)] }, 0, sealed 5 0,
      { span := sramSpan0 4096 32, word := some (0, 8192) }, .sram 0 4096, 0, 8192, 0, by decide +kernel, rfl, rfl, rfl, rfl, by decide, rfl, by decide, by decide +kernel,
      rfl, by decide, rfl, by decide +kernel, by decide, rfl, ?_, by decide⟩⟩
  · simp only [List.mem_cons, List.not_mem_nil, or_false] at hn
    rcases hn with rfl | rfl <;> decide +kernel
  · exact sound_of (by decide +kernel)

/-- The launch over tiles 0 and 1; its thread on tile 0. -/
def twoTiles : Launch := { aLaunch with desc := BitVec.ofNat 512 (2 ^ 81 + 2 ^ 89 * 0), tiles := [0, 1], parts := [(0, {}), (1, {})] }
def launchedThread : Thread := { thread0 with launch := some 3 }

theorem witness_LaunchEvents :
    (∃ (s : State) (id tile : Nat), s.launches.any (·.1 = id) = true ∧ ((s.launch id).part tile).sent = true) ∧
    (∃ (s : State) (id tile : Nat), s.launches.any (·.1 = id) = true ∧ launchRunning s id tile = true) ∧
    (∃ (s : State) (id tile : Nat), s.launches.any (·.1 = id) = true ∧ (s.launch id).region = true ∧ ((s.launch id).part tile).regionDone = false) ∧
    (∃ (s : State) (id tile : Nat), let l := s.launch id
      s.launches.any (·.1 = id) = true ∧ (l.part tile).sent = false ∧ launchRunning s id tile = false ∧ l.region = false ∧ l.subg = 0 ∧
      l.children tile = [] ∧ (l.part tile).got = [] ∧ tile = l.root) ∧
    (∃ (s : State) (id tile : Nat), let l := s.launch id
      s.launches.any (·.1 = id) = true ∧ (l.part tile).sent = false ∧ launchRunning s id tile = false ∧ l.region = false ∧ l.subg = 0 ∧
      l.children tile = [] ∧ (l.part tile).got = [] ∧ tile ≠ l.root ∧ l.parent tile ≠ tile) ∧
    (∃ (s : State) (id : Nat) (u : JoinUpdate) (rest : List JoinUpdate), s.launches.any (·.1 = id) = true ∧ (s.launch id).updates = u :: rest ∧
      launchPending s id u.tiles = true) ∧
    (∀ root, ∃ (s : State) (id : Nat) (u : JoinUpdate) (rest : List JoinUpdate) (v : Vec), s.launches.any (·.1 = id) = true ∧ (s.launch id).updates = u :: rest ∧
      launchPending s id u.tiles = false ∧ s.busyAt u.loc = false ∧ u.loc.far = false ∧ Sound s u.loc v ∧ u.loc.addr % 8 = 0 ∧ u.root = root) ∧
    (∃ (s : State) (id : Nat) (u : JoinUpdate) (rest : List JoinUpdate), s.launches.any (·.1 = id) = true ∧ (s.launch id).updates = u :: rest ∧
      launchPending s id u.tiles = false ∧ s.busyAt u.loc = false ∧ u.loc.far = true) ∧
    (∃ (s : State) (id : Nat) (w : Who) (t : Thread), s.launches.any (·.1 = id) = true ∧ w.tile ∈ (s.launch id).tiles ∧ w.slot < 8 ∧ s.thread w = some t ∧
      t.launch = some id ∧ t.outst = []) ∧
    (∃ (s : State) (id : Nat) (w : Who) (t : Thread), s.launches.any (·.1 = id) = true ∧ w.tile ∈ (s.launch id).tiles ∧ w.slot < 8 ∧ s.thread w = some t ∧
      t.launch ≠ some id) := by
  let s0 := withThread thread0
  let u (root : Bool) : JoinUpdate := ⟨.sram 0 8192, 2, 5, [0], root⟩
  refine ⟨⟨inLaunch { aLaunch with parts := [(0, { sent := true })] } s0, 3, 0, by decide +kernel, by decide +kernel⟩,
    ⟨inLaunch aLaunch (withThread itemThread), 3, 0, by decide +kernel, by decide +kernel⟩,
    ⟨inLaunch { aLaunch with desc := BitVec.ofNat 512 (2 ^ 105) } s0, 3, 0, by decide +kernel, by decide +kernel, by decide +kernel⟩,
    ⟨inLaunch aLaunch s0, 3, 0, by decide +kernel⟩,
    ⟨inLaunch twoTiles s0, 3, 1, by decide +kernel⟩,
    ⟨inLaunch { aLaunch with updates := [u true] } { waiting s0 with accs := (waiting s0).accs.map fun a => { a with launch := some 3 } }, 3, u true, [], by decide +kernel, rfl, by decide +kernel⟩,
    fun root => ⟨inLaunch { aLaunch with updates := [u root] } s0, 3, u root, [], 0, rfl, rfl, ?_⟩,
    ⟨inLaunch { aLaunch with updates := [{ u true with loc := .remote 3 4096 }] } s0, 3, { u true with loc := .remote 3 4096 }, [], rfl, rfl,
      by decide +kernel, by decide, rfl⟩,
    ⟨inLaunch aLaunch (withThread launchedThread), 3, ⟨0, 2⟩, launchedThread, by decide +kernel, by decide +kernel, by decide, rfl, rfl, rfl⟩,
    ⟨inLaunch aLaunch s0, 3, ⟨0, 2⟩, thread0, by decide +kernel, by decide +kernel, by decide, rfl, by decide⟩⟩
  cases root <;> exact ⟨by decide +kernel, by decide +kernel, rfl, sound_of (by decide +kernel), by decide, rfl⟩

def aFault (tile : Nat) : RegFault := { tile := tile, at_ := 50, wall := 1000, cause := 0, code := 15, sub := 0, info := 5, addr := 64 }
def aFreeze (n : Nat) : Freeze :=
  { close := some (0, 2), addr := 64, missing := 8, point := 50, count := 9, timeout := 100, length := some n, elapsed := 5 }
def snapped (s : State) : State := s.modTimed 0 fun u => { u with snap := some {} }
def ended (s : State) : State := s.modTimed 0 fun u => { u with seqr := .reported }

theorem witness_RegionEvents :
    (∃ (s : State) (id : Nat) (r : Region), s.region id = some r ∧ r.fault = none ∧ r.haltAt = none ∧ r.frozen = false) ∧
    (∃ (s : State) (id : Nat) (r : Region), s.region id = some r ∧ r.fault = none ∧ r.haltAt = none ∧ r.frozen = true) ∧
    (∃ (s : State) (id : Nat) (r : Region), s.region id = some r ∧ r.fault = none ∧ r.haltAt ≠ none) ∧
    (∀ tile, tile = 4 ∨ tile = 5 → ∃ (s : State) (id : Nat) (r : Region) (g : RegFault), s.region id = some r ∧ r.fault = some g ∧ g.at_ = r.cycle ∧
      g.wall = s.cycle ∧ g.tile = tile ∧ r.halted = false) ∧
    (∀ f, ∃ (s : State) (id : Nat) (r : Region), s.region id = some r ∧ r.fault = f ∧ r.haltAt ≠ none ∧ r.frozen = true ∧ r.halted = false) ∧
    (∀ b, ∃ (s : State) (id : Nat) (r : Region), s.region id = some r ∧ r.halted = b) ∧
    (∃ (s : State) (id : Nat) (r : Region) (tile : Nat) (f : Files), s.region id = some r ∧ r.halted = true ∧ r.rolled = false ∧ r.fault ≠ none ∧ tile ∈ r.tiles ∧
      (s.tile tile).timed.snap = some f) ∧
    (∃ (s : State) (id : Nat) (r : Region) (f : RegFault) (t : Thread), s.region id = some r ∧ r.fault = some f ∧ s.thread r.steward = some t ∧
      t.serial = r.stewardSerial ∧ (s.slot r.steward).victim = none) ∧
    (∃ (s : State) (id : Nat) (r : Region) (f : RegFault), s.region id = some r ∧ r.fault = some f ∧ s.thread r.steward = none ∧ (s.slot r.steward).victim = none) ∧
    (∀ p, p = none ∨ p = some 50 → ∃ (s : State) (id : Nat) (r : Region), s.region id = some r ∧ r.halted = false ∧ r.debugAt = p ∧ p.getD 0 ≤ r.cycle) ∧
    (∀ n, n = 5 ∨ n = 6 → ∃ (s : State) (id : Nat) (r : Region) (f : Freeze) (tile w : Nat), s.region id = some r ∧ r.frozen = true ∧ r.freezes = [f] ∧
      f.point ≤ r.cycle ∧ f.length = some n ∧ f.elapsed = 5 ∧ f.close = some (tile, w) ∧ f.until_ = none) ∧
    (∃ (s : State) (id : Nat) (r : Region), s.region id = some r ∧ r.debugAt = none ∧ r.stopped = none ∧ r.started = true) ∧
    (∃ (s : State) (id : Nat) (r : Region), s.region id = some r ∧ r.debugEnd = none ∧ r.stopped ≠ none) ∧
    (∃ (s : State) (id : Nat) (r : Region) (n since : Nat), s.region id = some r ∧ r.debugEnd = some n ∧ n ≤ s.cycle ∧ r.stopped = some since) ∧
    (∀ b, ∃ (s : State) (id : Nat) (r : Region), s.region id = some r ∧ r.fault = none ∧ r.others = [] ∧
      r.tiles.all (fun tile => (s.tile tile).timed.seqr = .reported) = b) := by
  let s0 := withThread thread0
  let r := aRegion
  refine ⟨⟨inRegion r s0, 7, r, rfl, rfl, rfl, rfl⟩, ⟨inRegion { r with frozen := true } s0, 7, { r with frozen := true }, rfl, rfl, rfl, rfl⟩,
    ⟨inRegion { r with haltAt := some 60 } s0, 7, { r with haltAt := some 60 }, rfl, rfl, nofun⟩,
    fun tile _ => ⟨inRegion { r with fault := some (aFault tile) } s0, 7, { r with fault := some (aFault tile) }, aFault tile, rfl, rfl, rfl, rfl, rfl, rfl⟩,
    fun f => ⟨inRegion { r with fault := f, haltAt := some 60, frozen := true } s0, 7, { r with fault := f, haltAt := some 60, frozen := true }, rfl, rfl, nofun, rfl, rfl⟩,
    fun b => ⟨inRegion { r with halted := b } s0, 7, { r with halted := b }, rfl, rfl⟩,
    ⟨snapped (inRegion { r with halted := true, fault := some (aFault 0) } s0), 7, { r with halted := true, fault := some (aFault 0) }, 0, {}, rfl, rfl, rfl, nofun, List.mem_singleton.2 rfl, rfl⟩,
    ⟨inRegion { r with fault := some (aFault 0) } s0, 7, { r with fault := some (aFault 0) }, aFault 0, thread0, rfl, rfl, rfl, rfl, rfl⟩,
    ⟨inRegion { r with fault := some (aFault 0), steward := ⟨0, 1⟩ } s0, 7, { r with fault := some (aFault 0), steward := ⟨0, 1⟩ }, aFault 0, rfl, rfl, rfl, rfl⟩,
    fun p hp => ⟨inRegion { r with debugAt := p } s0, 7, { r with debugAt := p }, rfl, rfl, rfl, by rcases hp with rfl | rfl <;> decide⟩,
    fun n _ => ⟨inRegion { r with frozen := true, freezes := [aFreeze n] } s0, 7, { r with frozen := true, freezes := [aFreeze n] }, aFreeze n, 0, 2, rfl, rfl, rfl, (by decide : 50 ≤ 50), rfl, rfl, rfl, rfl⟩,
    ⟨inRegion r s0, 7, r, rfl, rfl, rfl, rfl⟩,
    ⟨inRegion { r with stopped := some 900 } s0, 7, { r with stopped := some 900 }, rfl, rfl, nofun⟩,
    ⟨inRegion { r with stopped := some 900, debugEnd := some 1000 } s0, 7, { r with stopped := some 900, debugEnd := some 1000 }, 1000, 900, rfl, rfl, by decide +kernel, rfl⟩,
    fun b => ⟨(if b then ended else fun s => s.modTimed 0 fun u => { u with seqr := .word }) (inRegion r s0), 7, r, ?_⟩⟩
  cases b <;> exact ⟨rfl, rfl, rfl, by decide +kernel⟩

def timed1 (f : Timed → Timed) : State := (inRegion aRegion (withThread thread0)).modTimed 0 fun u => f { u with region := some 7 }
def windowIn (st : WinState) (u : Timed) : Timed :=
  { u with files := { u.files with win := u.files.win.set 2 { st := st, desc := BitVec.ofNat 256 (9 * 2 ^ 240), awaited := 8 } } }
def aLoad (checked : Bool) : Transfer := { id := 9, load := true, va := 0, off := 0, n := 2, deadline := 50, checked := checked, addr := 64, region := 7 }

theorem witness_TimedTileEvents :
    (∀ st, ∃ (s : State) (tile n : Nat) (w : Window) (id : Nat) (r : Region), (s.tile tile).timed.files.win[n]? = some w ∧ s.tileRegion tile = some (id, r) ∧
      w.st = st ∧ w.awaited = 8) ∧
    (∀ checked, ∃ (s : State) (tile id : Nat) (x : Transfer), (s.tile tile).timed.transfers.find? (·.id = id) = some x ∧ x.checked = checked) ∧
    (∃ (s : State) (tile id : Nat), (s.tile tile).timed.transfers.find? (·.id = id) = none) ∧
    (∃ (s : State) (port : Nat), port = 23 ∧ linkLost s port = true) ∧
    (∀ n, n ∈ [31, 32] → ∃ (s : State) (tile port : Nat), port = 27 ∧ linkLost s port = false ∧ ((s.tile tile).timed.files.rx[port]?.getD []).length = n) ∧
    (∀ swap ready, ∃ (s : State) (tile : Nat), (s.tile tile).timed.swap = swap ∧ (s.tile tile).timed.ready = ready) ∧
    (∃ (s : State) (tile : Nat), (s.tile tile).timed.region = none) ∧
    (∃ (s : State) (tile id : Nat) (r : Region), (s.tile tile).timed.region = some id ∧ s.region id = some r ∧ (s.tile tile).timed.arrayops < 2 ^ 64 ∧
      (s.tile tile).timed.discards < 2 ^ 64 ∧ s.launches.any (·.1 = r.launch) = true) := by
  refine ⟨fun st => ⟨timed1 (windowIn st), 0, 2, { st := st, desc := BitVec.ofNat 256 (9 * 2 ^ 240), awaited := 8 }, 7, aRegion, ?_⟩,
    fun checked => ⟨timed1 fun u => { u with transfers := [aLoad checked] }, 0, 9, aLoad checked, rfl, rfl⟩,
    ⟨timed1 id, 0, 9, rfl⟩, ⟨withThread thread0, 23, rfl, by decide +kernel⟩,
    fun n hn => ⟨timed1 fun u => { u with files := { u.files with rx := u.files.rx.setIfInBounds 27 (List.replicate n (sealed 0 0)) } }, 0, 27, rfl, rfl, ?_⟩,
    fun swap ready => ⟨timed1 fun u => { u with swap := swap, ready := ready }, 0, rfl, rfl⟩,
    ⟨withThread thread0, 0, rfl⟩,
    ⟨inLaunch aLaunch (timed1 id), 0, 7, aRegion, rfl, rfl, by decide, by decide, rfl⟩⟩
  · cases st <;> decide +kernel
  · simp only [List.mem_cons, List.not_mem_nil, or_false] at hn
    rcases hn with rfl | rfl <;> decide +kernel

/-- The package's registers set. -/
def onPackage (f : Pkg → Pkg) : State := { withThread thread0 with pkg := f { (withThread thread0).pkg with ready := ones 64 } }

theorem witness_HostEvents :
    (∃ (s : State) (e : Event) (i : Instr), IsEvent i e ∧ (match e with | .hostWrite .. | .hostRead (.data _) _ | .hostDoorbell .. => True | _ => False) ∧ s.hosts ≠ []) ∧
    (∃ (s : State), s.hosts = []) ∧
    (∃ (addr : Nat) (bytes : List Byte), bytes ≠ [] ∧ addr + bytes.length = 766 * 2 ^ 30 + 1) ∧
    (∃ (s : State), s.pkg.ready.getLsbD 21 = false) ∧
    -- a granule, and a piece of a word that ends at the end of the map and is all that is left
    (∀ a n, (a, n) ∈ [(64, 40), (766 * 2 ^ 30 - 2, 2)] → ∃ (s : State) (addr : Nat) (bytes : List Byte), addr = a ∧ bytes.length = n ∧
      s.hosts = [] ∧ bytes ≠ [] ∧ ¬ (766 * 2 ^ 30 < addr + bytes.length ∨ s.pkg.ready.getLsbD 21 = false ∨
        ∃ a, addr ≤ a ∧ a < addr + bytes.length ∧ s.stackReady a = false) ∧ ∀ a, s.hbmShut (.hbm a) = false) ∧
    (∃ (s : State), s.hosts = [] ∧ s.pkg.ready.getLsbD 21 = true ∧ s.stackReady 64 = true ∧ s.hbmShut (.hbm 64) = true) ∧
    (∃ off size : Nat, off % 8 + size = 8) ∧
    (∃ (s : State) (tile : Nat), s.hole tile = true) ∧ (∃ (s : State) (tile slot : Nat), s.thread ⟨tile, slot⟩ = none) ∧
    (∃ (s : State) (tile slot : Nat) (t : Thread), s.hole tile = false ∧ slot < 8 ∧ s.thread ⟨tile, slot⟩ = some t ∧ s.pkg.dispatcher ≠ some ⟨tile, slot⟩) ∧
    -- whichever copies the fused key passes
    (∀ c, firmwareOk c = true → ∃ (s : State) (before after : List (List Byte)), s.pkg.flash = before ++ c :: after ∧ ∀ b ∈ before, firmwareOk b = false) ∧
    (∀ c, firmwareOk c = false → ∃ (s : State), s.pkg.flash = [c] ∧ ∀ c ∈ s.pkg.flash, firmwareOk c = false) ∧
    (∀ b, ∃ (s : State), s.pkg.failed.getLsbD 0 = b) ∧
    (∀ bit, bit ∈ [1, 8, 9, 29, 32] → ∃ (s : State), s.pkg.ready.getLsbD 0 = true ∧ s.pkg.ready.getLsbD bit = false ∧ s.pkg.failed.getLsbD bit = false) ∧
    (∃ (s : State), s.pkg.ready.getLsbD 0 = false) := by
  let s0 := withThread thread0
  refine ⟨⟨{ s0 with hosts := [.hostWrite 64 [0]] }, .hostDoorbell 0 2, .hostDoorbell 0 2, rfl, trivial, List.cons_ne_nil _ _⟩, ⟨s0, rfl⟩,
    ⟨766 * 2 ^ 30, [0], List.cons_ne_nil _ _, by decide⟩, ⟨s0, by decide +kernel⟩,
    fun a n h => ⟨onPackage id, a, List.replicate n 0, rfl, List.length_replicate .., rfl, ?_⟩,
    ⟨onPackage fun p => { p with dead := [0] }, rfl, by decide +kernel, by decide +kernel, by decide +kernel⟩, ⟨13, 3, by decide⟩,
    ⟨s0, 40960, by decide +kernel⟩, ⟨s0, 0, 1, rfl⟩, ⟨s0, 0, 2, thread0, by decide +kernel, by decide, rfl, by decide +kernel⟩,
    fun c _ => ⟨onPackage fun p => { p with flash := [c] }, [], [], rfl, nofun⟩,
    fun c h => ⟨onPackage fun p => { p with flash := [c] }, rfl, fun d hd => List.mem_singleton.1 hd ▸ h⟩,
    fun b => ⟨onPackage fun p => { p with failed := if b then 1 else 0 }, by cases b <;> decide +kernel⟩,
    fun bit h => ⟨onPackage fun p => { p with ready := 1 }, ?_⟩, ⟨s0, by decide +kernel⟩⟩
  · have ready : ∀ n, n < 12 → (ones 64).getLsbD (9 + n) = true := by decide
    have hb : ∀ a, (onPackage id).stackReady a = true := by
      intro a
      have h : pseudoChannel a / 64 < 12 := by unfold pseudoChannel; omega
      exact ready _ h
    simp only [List.mem_cons, List.not_mem_nil, or_false, Prod.mk.injEq] at h
    have hs : ∀ a, (onPackage id).hbmShut (.hbm a) = false := fun a => by
      simp only [State.hbmShut, hb]; rfl
    rcases h with ⟨rfl, rfl⟩ | ⟨rfl, rfl⟩ <;> refine ⟨by decide, ?_, hs⟩ <;>
    · rintro (h | h | ⟨b, _, _, h⟩)
      · exact absurd h (by decide)
      · exact absurd h (by decide +kernel)
      · rw [hb] at h; cases h
  · simp only [List.mem_cons, List.not_mem_nil, or_false] at h
    rcases h with rfl | rfl | rfl | rfl | rfl <;> decide +kernel

theorem witness_PackageEvents :
    (∀ j, j = 1 ∨ j = 2 ∨ j = 4 → ∃ (s : State), s.pkg.jobState = j) ∧
    (∃ (s : State), ¬ (s.pkg.jobState = 1 ∨ s.pkg.jobState = 2 ∨ s.pkg.jobState = 4) ∧ s.pkg.ready.getLsbD 31 = true ∧ s.pkg.job.getLsbD 63 = true) ∧
    (∃ (s : State), s.pkg.job.getLsbD 63 = false) ∧
    (∃ (s : State), s.pkg.cmdBusy = true) ∧
    (∀ v, v ∈ [0x0#64, 0x5#64, 0x10001#64, 0x101#64, 0x1802#64, 0x1#64] → ∃ (s : State), s.pkg.cmdBusy = false ∧ s.pkg.ready.getLsbD 0 = true ∧
      (v.toNat % 256 = 0 ∨ 4 < v.toNat % 256 ∨ v.toNat / 2 ^ 16 % 2 ^ 16 ≠ 0 ∨ (v.toNat % 256 ≠ 2 ∧ v.toNat / 256 % 256 ≠ 0) ∨
        (v.toNat % 256 = 2 ∧ 24 ≤ v.toNat / 256 % 256) ∨ (v.toNat % 256 ≠ 2 ∧ s.pkg.jobState ≠ 2))) ∧
    (∀ b, ∃ (s : State), s.pkg.attesting = b ∧ s.pkg.ready.getLsbD 32 = true) ∧
    (∀ st b, ∃ (s : State), s.pkg.attesting = true ∧ s.pkg.mailStatus = st ∧ bufferRefused s = b) ∧
    (∃ (s : State), s.pkg.jobState = 4 ∧ s.regions = [] ∧ s.launches = [] ∧ s.dies.all (fun d => d.2.dumps.isEmpty) = true ∧
      s.clusters.all (fun c => c.2.engine.isEmpty) = true) ∧
    (∃ (s : State) (i : Nat) (v : Word), 1 ≤ i ∧ i < 8 ∧ ¬ (s.pkg.jobState = 1 ∨ s.pkg.jobState = 2 ∨ s.pkg.jobState = 4) ∧ v ≠ 0) ∧
    (∃ v : Word, v.getLsbD 63 = false) ∧ (∀ n, ∃ (s : State), s.pkg.ending = n) ∧
    (∀ i, i ∈ [0, 23] → ∃ (s : State), s.pkg.cmdBusy = true ∧ s.pkg.ending = none ∧ s.pkg.cmd = 2 ∧ s.pkg.cmdArg = i) ∧
    (∃ (s : State) (i : Nat), ¬ (s.pkg.cmdBusy = true ∧ s.pkg.ending = none ∧ s.pkg.cmd = 2 ∧ s.pkg.cmdArg = i)) ∧
    (∃ (s : State) (n i : Nat), s.pkg.cmdBusy = true ∧ s.pkg.ending = none ∧ s.pkg.cmd = 3 ∧ n ≤ 64 ∧ i < n ∧ s.pkg.rank < 4096 ∧
      (∀ k < 64, s.pkg.gtable.toNat / 2 ^ (16 * k) % 65536 = 0xFFFF ↔ n ≤ k) ∧
      (∀ k < n, s.pkg.gtable.toNat / 2 ^ (16 * k) % 65536 = s.pkg.rank ↔ k = i)) ∧
    ∃ (s : State), s.pkg.cmdBusy = true ∧ s.pkg.ending = none ∧ s.pkg.cmd = 4 := by
  refine ⟨fun j hj => ⟨onPackage fun p => { p with job := BitVec.ofNat 512 (j) }, by rcases hj with rfl | rfl | rfl <;> decide +kernel⟩,
    ⟨onPackage fun p => { p with job := BitVec.ofNat 512 (2 ^ 63) }, by decide +kernel⟩,
    ⟨onPackage id, by decide +kernel⟩, ⟨onPackage fun p => { p with cmdBusy := true }, rfl⟩,
    fun v h => ⟨onPackage id, ?_⟩,
    fun b => ⟨onPackage fun p => { p with attesting := b }, rfl, (by decide +kernel : (onPackage id).pkg.ready.getLsbD 32 = true)⟩,
    fun st b => ⟨onPackage fun p => { p with attesting := true, mailStatus := st, buffer := if b then 1 else 0 }, rfl, rfl, ?_⟩,
    ⟨onPackage fun p => { p with job := BitVec.ofNat 512 4 }, by decide +kernel⟩,
    ⟨onPackage id, 7, 1, by decide, by decide, by decide +kernel, by decide⟩, ⟨1, by decide⟩, fun n => ⟨onPackage fun p => { p with ending := n }, rfl⟩,
    fun i hi => ⟨onPackage fun p => { p with cmdBusy := true, command := BitVec.ofNat 64 (2 + 256 * i) }, ?_⟩,
    ⟨onPackage id, 0, by decide +kernel⟩,
    ⟨onPackage fun p => { p with cmdBusy := true, command := 3, gtable := BitVec.ofNat 1024 (2 ^ 1024 - 2 ^ 32 + 2 ^ 16) }, 2, 0, by decide +kernel, rfl, by decide +kernel, by decide, by decide,
      by decide +kernel, by decide +kernel, by decide +kernel⟩,
    ⟨onPackage fun p => { p with cmdBusy := true, command := 4 }, by decide +kernel⟩⟩
  · simp only [List.mem_cons, List.not_mem_nil, or_false] at h
    rcases h with rfl | rfl | rfl | rfl | rfl | rfl <;> decide +kernel
  · have : bufferRefused (onPackage fun p => { p with attesting := true, mailStatus := st, buffer := if b then 1 else 0 }) =
      bufferRefused (onPackage fun p => { p with buffer := if b then 1 else 0 }) := rfl
    rw [this]; cases b <;> decide +kernel
  · simp only [List.mem_cons, List.not_mem_nil, or_false] at hi
    rcases hi with rfl | rfl <;> decide +kernel

def tracing (n : Nat) (s : State) : State := s.modTile 0 fun u => { u with trace := List.replicate n 5 }
def writerAt (n : Nat) (s : State) : State := s.modDie 0 fun d => { d with writer := n }
/-- The head of die 0's trace ring, with as many records written. -/
def ringHead (written : Nat) (s : State) : State := s.setGranule (.hbm (reserveBase + 0x4000000)) (sealed (BitVec.ofNat 256 (written + 524160 * 2 ^ 64)) 0)
def aDump : DumpReq := { kind := 0, cls := 4, who := ⟨0, 2⟩, stamp := 900, code := 2, sub := 0, info := 0 }
def guarded (g : Watchdog) (s : State) : State := s.modDie 0 fun d => { d with dogs := d.dogs.set 3 g }

theorem witness_ClockEvents :
    (∀ m, m ∈ [16, 20, 32] → ∃ (s : State), s.pkg.gsize ≤ 1 ∧ s.pkg.m = m) ∧ (∃ (s : State), 2 ≤ s.pkg.gsize ∧ s.pkg.m = 16) ∧
    (∀ st, ∃ (s : State) (i : Nat), (s.pkg.ports[i]?.getD {}).state = st) ∧
    (∃ (s : State) (tile : Nat), (s.tile tile).trace = []) ∧
    (∀ w, w ∈ [1000, 1001] → ∃ (s : State) (die tile : Nat) (r : Vec) (rest : List Vec), (s.tile tile).trace = r :: rest ∧ die < 8 ∧
      (s.die die).writer = w ∧ s.cycle = 1000 ∧ (s.tile tile).traceLost = 0 ∧ s.hbmShut (.hbm (reserveBase + 0x4000000 + die * 0x1000000)) = false ∧
      (s.granule (.hbm (reserveBase + 0x4000000 + die * 0x1000000))).data.toNat = 0) ∧
    (∃ (s : State) (die tile : Nat) (r : Vec) (rest : List Vec), (s.tile tile).trace = r :: rest ∧ die < 8 ∧
      524160 ≤ (s.granule (.hbm (reserveBase + 0x4000000 + die * 0x1000000))).data.toNat % 2 ^ 64 -
        (s.granule (.hbm (reserveBase + 0x4000000 + die * 0x1000000))).data.toNat / 2 ^ 128 % 2 ^ 64) ∧
    (∃ (s : State) (tile n : Nat) (t : Thread), s.thread ⟨tile, ((s.tile tile).pmcSel[n]?.getD 0).toNat / 2 ^ 59 % 8⟩ = some t) ∧
    (∀ b, ∃ (s : State) (die : Nat), s.hbmShut (.hbm (dumpBase die)) = b ∧ (s.die die).lost = 0 ∧ (s.die die).dumps = []) ∧
    (∃ (s : State) (die : Nat) (d : DumpReq) (rest : List DumpReq) (t : Thread), s.hbmShut (.hbm (dumpBase die)) = false ∧ die < 8 ∧ (s.die die).lost = 0 ∧
      (s.die die).dumps = d :: rest ∧ d.kind = 0 ∧ d.thread = none ∧ s.thread d.who = some t ∧ (s.tile d.who.tile).trace.length < 16 ∧
      let next := max 32 ((s.granule (.hbm (reserveBase + 0x10000000 + die * 0x2000000))).data.toNat % 2 ^ 64)
      next % 32 = 0 ∧ next + 64 + 32 * (saveGranules t none).length ≤ 0x2000000) := by
  let s0 := withThread thread0
  refine ⟨fun m h => ⟨onPackage fun p => { p with m := m }, (by decide : 1 ≤ 1), rfl⟩, ⟨onPackage fun p => { p with gsize := 2, m := 16 }, by decide +kernel, rfl⟩,
    fun st => ⟨onPackage fun p => { p with ports := Vector.replicate 33 { state := st } }, 3, rfl⟩, ⟨s0, 0, rfl⟩,
    fun w h => ⟨writerAt w (tracing 1 (onPackage id)), 0, 0, 5, [], ?_⟩, ⟨ringHead 524160 (tracing 1 (onPackage id)), 0, 0, 5, [], rfl, by decide, by decide +kernel⟩,
    ⟨s0.modTile 0 fun u => { u with pmcSel := u.pmcSel.set 1 (BitVec.ofNat 64 (2 * 2 ^ 59)) }, 0, 1, thread0, by decide +kernel⟩,
    fun b => ⟨(if b then withThread thread0 else onPackage id), 0, ?_⟩,
    ⟨(onPackage id).modDie 0 fun d => { d with dumps := [aDump] }, 0, aDump, [], thread0, by decide +kernel, by decide, rfl, rfl, rfl, rfl, rfl, by decide +kernel, by decide +kernel, ?_⟩⟩
  · simp only [List.mem_cons, List.not_mem_nil, or_false] at h
    rcases h with rfl | rfl <;> exact ⟨rfl, by decide, rfl, rfl, rfl, by decide +kernel, by decide +kernel⟩
  · cases b <;> exact ⟨by decide +kernel, rfl, rfl⟩
  · rw [saveGranules_length]; decide +kernel

theorem witness_DebugEvents :
    (∃ (s : State) (die n : Nat), ((s.die die).dogs[n]?.getD {}).word.getLsbD 63 = false) ∧
    (∀ e, ∃ (s : State) (die n : Nat) (t : Thread), let g := (s.die die).dogs[n]?.getD {}
      g.word.getLsbD 63 = true ∧ g.expired = e ∧ s.thread ⟨g.word.toNat / 2 ^ 42 % 65536, g.word.toNat / 2 ^ 39 % 8⟩ = some t) ∧
    (∃ (s : State) (die n : Nat), let g := (s.die die).dogs[n]?.getD {}
      g.word.getLsbD 63 = true ∧ s.thread ⟨g.word.toNat / 2 ^ 42 % 65536, g.word.toNat / 2 ^ 39 % 8⟩ = none) ∧
    (∃ (s : State) (w : Who), s.thread w = none) ∧
    (∀ h, ∃ (s : State) (w : Who) (t : Thread), s.thread w = some t ∧ t.halted = h) ∧
    (∃ v : Vec, v.toNat % 4 ≠ 2 ∧ v.toNat / 4 % 4 ≠ 2) ∧
    (∃ (s : State) (tile n : Nat), (s.tile tile).locks.find? (·.1 = n) = none) ∧
    ∃ (s : State) (tile : Nat) (l : Lock), (s.tile tile).locks.find? (·.1 = 15) = some (15, l) := by
  let s0 := withThread thread0
  refine ⟨⟨s0, 0, 0, by decide +kernel⟩, fun e => ⟨guarded { word := BitVec.ofNat 64 (2 ^ 63 + 2 * 2 ^ 39), expired := e } s0, 0, 3, thread0, ?_⟩,
    ⟨guarded { word := BitVec.ofNat 64 (2 ^ 63 + 1 * 2 ^ 39) } s0, 0, 3, by decide +kernel, by decide +kernel⟩, ⟨s0, ⟨0, 1⟩, rfl⟩,
    fun h => ⟨withThread { thread0 with halted := h }, ⟨0, 2⟩, { thread0 with halted := h }, rfl, rfl⟩, ⟨13, by decide⟩, ⟨s0, 0, 15, by decide +kernel⟩,
    ⟨locksHeld 16 s0, 0, aLock, by decide +kernel⟩⟩
  cases e <;> exact ⟨by decide +kernel, rfl, by decide +kernel⟩

/-- The entry of rank 5 in the rank table. -/
def ranked (e : Vec) : State := (onPackage id).setGranule (.hbm (rankAddr 5)) (sealed e 0)

theorem builtin_forwardTo {s : State} {c va : Nat} {p : Loc × Bool} (h : builtinPage va = some p) : forwardTo s c va = none := by
  simp only [forwardTo, h]
theorem builtin_translateFor {s : State} {c va : Nat} {l : Loc} (h : builtinPage va = some (l, true)) :
    (translateFor c va .write s).1 = .ok ⟨l, 1, false⟩ ∧ ∀ m, (translateFor c va .write s).2.hbmShut m = s.hbmShut m := by
  simp only [translateFor, translateAt, h]
  cases l <;> exact ⟨rfl, fun m => rfl⟩

theorem witness_RemoteRequests :
    (∃ op : RemoteOp, op = .put [] none) ∧
    (∃ (s : State) (src : Nat), (s.rankEntry src).getLsbD 255 = false) ∧
    -- no place, and a place whose rights are wanting
    (∀ n, n ∈ [2 ^ 255, 2 ^ 255 + 2 * 2 ^ 252 + 2 ^ 249] → ∃ (s : State) (src : Nat), let e := s.rankEntry src
      e.getLsbD 255 = true ∧ ¬ (e.toNat / 2 ^ 252 % 8 ≠ 0 ∧ e.getLsbD 250 = true)) ∧
    ∀ data bytes tag, ∀ far, far = true ∨ far = false → ∃ (s : State) (src va n : Nat) (s1 s2 : State) (f : Found) (op : RemoteOp), let e := s.rankEntry src
      op = .store data bytes tag ∧ e.getLsbD 255 = true ∧ e.toNat / 2 ^ 252 % 8 ≠ 0 ∧ e.getLsbD 250 = true ∧ s.drawLatency = (n, s1) ∧
      forwardTo s1 (n % 2560) va = none ∧ translateFor (n % 2560) va .write s1 = (.ok f, s2) ∧ f.logged = false ∧ (∀ off, f.loc ≠ .page off) ∧
      s2.busyAt f.loc = false ∧ refusesFar s2 f.loc true 1 = far := by
  refine ⟨⟨_, rfl⟩, ⟨onPackage id, 5, by decide +kernel⟩, fun n h => ⟨ranked (BitVec.ofNat 256 n), 5, ?_⟩, fun data bytes tag far hf => ?_⟩
  · simp only [List.mem_cons, List.not_mem_nil, or_false] at h
    rcases h with rfl | rfl <;> decide +kernel
  · have key : ∀ (va : Nat) (l : Loc), builtinPage va = some (l, true) → (∀ off, l ≠ .page off) → (l.granule = l.granule) →
        (∀ s : State, s.busyAt l = s.hbmShut l) → (ranked rankGranule).hbmShut l = false → (∀ s, refusesFar s l true 1 = far) →
        ∃ (s : State) (src va n : Nat) (s1 s2 : State) (f : Found) (op : RemoteOp), let e := s.rankEntry src
          op = .store data bytes tag ∧ e.getLsbD 255 = true ∧ e.toNat / 2 ^ 252 % 8 ≠ 0 ∧ e.getLsbD 250 = true ∧ s.drawLatency = (n, s1) ∧
          forwardTo s1 (n % 2560) va = none ∧ translateFor (n % 2560) va .write s1 = (.ok f, s2) ∧ f.logged = false ∧ (∀ off, f.loc ≠ .page off) ∧
          s2.busyAt f.loc = false ∧ refusesFar s2 f.loc true 1 = far := by
      intro va l hb hp _ hs hl hr
      have he : ((ranked rankGranule).rankEntry 5).getLsbD 255 = true ∧
          ((ranked rankGranule).rankEntry 5).toNat / 2 ^ 252 % 8 ≠ 0 ∧
          ((ranked rankGranule).rankEntry 5).getLsbD 250 = true := by decide +kernel
      generalize ranked rankGranule = st at *
      obtain ⟨h1, h2⟩ := builtin_translateFor (s := st.drawLatency.2) (c := st.drawLatency.1 % 2560) hb
      refine ⟨st, 5, va, _, _, (translateFor (st.drawLatency.1 % 2560) va .write st.drawLatency.2).2, ⟨l, 1, false⟩, _, rfl,
        he.1, he.2.1, he.2.2, rfl, builtin_forwardTo hb, by rw [← h1]; rfl, rfl, hp, ?_, hr _⟩
      rw [hs, h2]; exact hl
    rcases hf with rfl | rfl
    · exact key 0xFFF30000000 (.watchdog 0) (by decide) nofun rfl (fun _ => rfl) (by decide +kernel) (fun _ => rfl)
    · exact key 0xFFF00700000 (.hbm (reserveBase + 0x700000)) (by decide) nofun rfl (fun _ => rfl) (by decide +kernel) (fun _ => rfl)

/-- A thread whose CAS is on its way to rank 5. -/
def casThread : Thread := expecting .reply [aReq]
def farAccess (kind : AccKind) (stage : Nat) : Access := { goingTo kind (some (.remote 5 64)) stage with key := .virt 64 }

def groupRegions : List Region :=
  [{ aRegion with started := false }, aRegion, { aRegion with fault := some (aFault 0), haltAt := some 60 }, { aRegion with halted := true }, { aRegion with stopped := some 900 },
    { aRegion with halted := true, rolled := true }]

theorem witness_FabricAnswers :
    (∀ tok i, ∃ (s : State) (a : Access) (rank va : Nat), s.access a.id = some a ∧ a.kind = .granule tok i ∧ a.stage = 2 ∧ a.loc = some (.remote rank va)) ∧
    (∃ (s : State) (a : Access), s.access a.id = some a ∧ ∀ rank va, a.loc ≠ some (.remote rank va)) ∧
    (∀ data mask tag, ∃ (s : State) (a : Access) (rank va : Nat), s.access a.id = some a ∧ a.kind = .release data mask tag ∧ a.loc = some (.remote rank va) ∧ a.stage = 2) ∧
    (∃ (s : State) (a : Access) (rank va : Nat), s.access a.id = some a ∧ a.loc = some (.remote rank va) ∧ a.stage ≠ 2) ∧
    (∀ op wide x y d, ∃ (s : State) (a : Access) (rank va tok : Nat) (t : Thread) (o : Outst), s.access a.id = some a ∧ a.loc = some (.remote rank va) ∧ a.stage = 2 ∧
      a.kind = .atomic tok op wide x y d ∧ s.thread a.who = some t ∧ o ∈ t.outst ∧ o.tok = tok) ∧
    (∃ (s : State) (id : Nat), s.access id = none ∧ s.packet id = none ∧ s.findOp id = none) ∧
    (∃ (s : State) (k : Nat), groupRegion s k = none ∧ k < s.pkg.regions) ∧ (∃ (s : State) (k : Nat), groupRegion s k = none ∧ s.pkg.regions ≤ k) ∧
    -- a region of the group that does not run yet, that runs, that has a fault, that halts, that is stopped, and that is rolled back
    (∀ r ∈ groupRegions, ∃ (s : State) (k id : Nat), groupRegion s k = some (id, r) ∧ s.region id = some r) ∧
    (∃ (s : State), s.pkg.gindex = 0) ∧
    (∃ (s : State), s.pkg.gindex ≠ 0) := by
  refine ⟨fun tok i => ⟨goingState (farAccess (.granule tok i) 2), farAccess (.granule tok i) 2, 5, 64, access_going _, rfl, rfl, rfl⟩,
    ⟨goingState virtAccess, virtAccess, access_going _, nofun⟩,
    fun data mask tag => ⟨goingState (farAccess (.release data mask tag) 2), farAccess (.release data mask tag) 2, 5, 64, access_going _, rfl, rfl, rfl⟩,
    ⟨goingState (farAccess .word 1), farAccess .word 1, 5, 64, access_going _, rfl, by decide⟩,
    fun op wide x y d => ⟨{ withThread busyThread with accs := [farAccess (.atomic 7 op wide x y d) 2] }, farAccess (.atomic 7 op wide x y d) 2, 5, 64, 7, busyThread, _,
      ?_, rfl, rfl, rfl, rfl, List.mem_singleton.2 rfl, rfl⟩,
    ⟨withThread thread0, 5, by decide +kernel, by decide +kernel, by decide +kernel⟩,
    ⟨onPackage fun p => { p with regions := 1 }, 0, by decide +kernel, by decide +kernel⟩, ⟨onPackage id, 0, by decide +kernel, by decide +kernel⟩,
    fun r hr => ⟨inRegion r (onPackage id), 0, 7, ?_⟩, ⟨onPackage id, rfl⟩,
    ⟨onPackage fun p => { p with gindex := 2 }, by decide +kernel⟩⟩
  · simp [State.access]
  · simp only [groupRegions, List.mem_cons, List.not_mem_nil, or_false] at hr
    rcases hr with rfl | rfl | rfl | rfl | rfl | rfl <;> exact ⟨rfl, rfl⟩

/-- The move ring with a request written and not yet served. -/
def asked : State := (onPackage id).setGranule (.hbm moveRing) (sealed 1 0)

theorem witness_PageMove :
    (∃ (s : State), s.mem.readN moveRing 8 ≤ s.mem.readN (moveRing + 8) 8) ∧
    ∃ (s : State) (h v : Vec) (e : PortFault), let tail := s.mem.readN (moveRing + 8) 8
      let va := (s.granule (.hbm (moveRing + 128 * (1 + tail % 64)))).data.toNat % 2 ^ 56
      tail < s.mem.readN moveRing 8 ∧ Sound s (.hbm moveRing) h ∧ Sound s (.hbm (moveRing + 128 * (1 + tail % 64) + 64)) v ∧ pagePending s va = false ∧
      walkFrom s (va % 2 ^ 44) 4 s.pkg.root = .error e := by
  refine ⟨⟨onPackage id, by decide +kernel⟩, asked, 1, 0, pageFault 0 0, by decide +kernel, sound_of (by decide +kernel), sound_of (by decide +kernel), by decide +kernel, ?_⟩
  have hu : walkRead asked 0 8 = .ok (0, 0) := by
    have hg : asked.granule (.hbm 0) = sealed 0 0 := by decide +kernel
    simp only [walkRead, hg, sealCheck_sealed_none 0 0 (by decide)]
    rfl
  have hv : (asked.granule (.hbm (moveRing + 128 * (1 + asked.mem.readN (moveRing + 8) 8 % 64)))).data.toNat % 2 ^ 56 = 0 := by decide +kernel
  have h0 : asked.pkg.root + 8 * levelIndex (3 + 1) (0 % 2 ^ 44) = 0 := by decide +kernel
  rw [hv, walkFrom, h0, hu]
  rfl


/-! ## Words written out from the encoding tables (02 R38, R40, R50, R52; 08 R202, R203, R213 and the tables of 08, 09, 13) -/

theorem test_words_of_32_bits_1 :
    decode32 0b0_0_0000000_00101_00110_01001_00000000 = some (.add ⟨false, 5, 6, 9⟩) ∧
    decode32 0b1_0_0000000_00101_00110_01001_00000001 = some (.sub ⟨true, 5, 6, 9⟩) ∧
    decode32 0b0_0_0000000_00101_00110_01001_00000010 = some (.and ⟨false, 5, 6, 9⟩) ∧
    decode32 0b1_0_0000000_00101_00110_01001_00000011 = some (.or ⟨true, 5, 6, 9⟩) ∧
    decode32 0b0_0_0000000_00101_00110_01001_00000100 = some (.xor ⟨false, 5, 6, 9⟩) ∧
    decode32 0b1_0_0000000_00101_00110_01001_00000101 = some (.andn ⟨true, 5, 6, 9⟩) ∧
    decode32 0b0_0_0000000_00101_00110_01001_00000110 = some (.sll ⟨false, 5, 6, 9⟩) ∧
    decode32 0b1_0_0000000_00101_00110_01001_00000111 = some (.srl ⟨true, 5, 6, 9⟩) ∧
    decode32 0b0_0_0000000_00101_00110_01001_00001000 = some (.sra ⟨false, 5, 6, 9⟩) ∧
    decode32 0b1_0_0000000_00101_00110_01001_00001001 = some (.slt ⟨true, 5, 6, 9⟩) ∧
    decode32 0b0_0_0000000_00101_00110_01001_00001010 = some (.sltc ⟨false, 5, 6, 9⟩) ∧
    decode32 0b1_0_0000000_00101_00110_01001_00001011 = some (.min ⟨true, 5, 6, 9⟩) ∧
    decode32 0b0_0_0000000_00101_00110_01001_00001100 = some (.max ⟨false, 5, 6, 9⟩) ∧
    decode32 0b1_0_0000000_00101_00110_01001_00001101 = some (.minc ⟨true, 5, 6, 9⟩) ∧
    decode32 0b0_0_0000000_00101_00110_01001_00001110 = some (.maxc ⟨false, 5, 6, 9⟩) ∧
    decode32 0b1_0_0000001_00101_00110_01001_00000000 = some (.mul ⟨true, 5, 6, 9⟩) ∧
    decode32 0b0_0_0000001_00101_00110_01001_00000001 = some (.mulh ⟨false, 5, 6, 9⟩) ∧
    decode32 0b1_0_0000001_00101_00110_01001_00000010 = some (.mulhc ⟨true, 5, 6, 9⟩) ∧
    decode32 0b0_0_0000001_00101_00110_01001_00000011 = some (.div ⟨false, 5, 6, 9⟩) ∧
    decode32 0b1_0_0000001_00101_00110_01001_00000100 = some (.divc ⟨true, 5, 6, 9⟩) ∧
    decode32 0b0_0_0000001_00101_00110_01001_00000101 = some (.rem ⟨false, 5, 6, 9⟩) ∧
    decode32 0b1_0_0000001_00101_00110_01001_00000110 = some (.remc ⟨true, 5, 6, 9⟩) ∧
    decode32 0b0_0_0000010_00101_00110_0000000000000 = some (.clz false 5 6) ∧
    decode32 0b1_0_0000010_00101_00110_0000000000001 = some (.ctz true 5 6) ∧
    decode32 0b0_0_0000010_00101_00110_0000000000010 = some (.cntb false 5 6) ∧
    decode32 0b1_0_0000010_00101_00110_0000000000011 = some (.rev8 true 5 6) ∧
    decode32 0b0_0_0000010_00101_00110_01001_00000100 = some (.bext ⟨false, 5, 6, 9⟩) ∧
    decode32 0b1_0_0000010_00101_00110_01001_00000101 = some (.bextc ⟨true, 5, 6, 9⟩) ∧
    decode32 0b0_0_0000010_00101_00110_01001_00000110 = some (.bins ⟨false, 5, 6, 9⟩) ∧
    decode32 0b1_0_0000011_00_100_00110_01001_00000000 = some (.shapew true 4 6 9) ∧
    decode32 0b0_0_0010000_00101_00110_1101010111100 = some (.addi ⟨false, 5, 6, 6844⟩) ∧
    decode32 0b1_0_0010001_00101_00110_1101010111100 = some (.andi ⟨true, 5, 6, 6844⟩) ∧
    decode32 0b0_0_0010010_00101_00110_1101010111100 = some (.ori ⟨false, 5, 6, 6844⟩) ∧
    decode32 0b1_0_0010011_00101_00110_1101010111100 = some (.xori ⟨true, 5, 6, 6844⟩) ∧
    decode32 0b0_0_0010100_00101_00110_0000000_100101 = some (.slli false 5 6 37) ∧
    decode32 0b1_0_0010101_00101_00110_0000000_100101 = some (.srli true 5 6 37) ∧
    decode32 0b0_0_0010110_00101_00110_0000000_100101 = some (.srai false 5 6 37) ∧
    decode32 0b1_0_0010111_00101_00110_1101010111100 = some (.slti ⟨true, 5, 6, 6844⟩) ∧
    decode32 0b0_0_0011000_00101_00110_1101010111100 = some (.sltci ⟨false, 5, 6, 6844⟩) ∧
    decode32 0b1_0_0011001_00101_00110_1101010111100 = some (.muli ⟨true, 5, 6, 6844⟩) := by decide +kernel

theorem test_words_of_32_bits_2 :
    decode32 0b0_0_0100000_00110_01001_1111100000011 = some (.beq ⟨false, 6, 9, 7939⟩) ∧
    decode32 0b1_0_0100001_00110_01001_1111100000011 = some (.bne ⟨true, 6, 9, 7939⟩) ∧
    decode32 0b0_0_0100010_00110_01001_1111100000011 = some (.blt ⟨false, 6, 9, 7939⟩) ∧
    decode32 0b1_0_0100011_00110_01001_1111100000011 = some (.bge ⟨true, 6, 9, 7939⟩) ∧
    decode32 0b0_0_0100100_00110_01001_1111100000011 = some (.bltc ⟨false, 6, 9, 7939⟩) ∧
    decode32 0b1_0_0100101_00110_01001_1111100000011 = some (.bgec ⟨true, 6, 9, 7939⟩) ∧
    decode32 0b0_0_0100110_11000010010001101000101 = some (.j false 6366021) ∧
    decode32 0b1_0_0100111_11000010010001101000101 = some (.jal true 6366021) ∧
    decode32 0b0_0_0101000_00101_00110_1101010111100 = some (.jr ⟨false, 5, 6, 6844⟩) ∧
    decode32 0b1_0_0101001_00101_00110_1111100000011 = some (.loop ⟨true, 5, 6, 7939⟩) ∧
    decode32 0b0_0_0101010_00101_00000_1111100000011 = some (.item false 5 7939) ∧
    decode32 0b1_0_0101011_0000000000000000000000_1 = some (.xit true true) ∧
    decode32 0b0_0_0101100_00000000000000000000000 = some (.rmark false) ∧
    decode32 0b1_0_0110000_00101_011_01001_1011000101 = some (.ld8 ⟨true, 5, 3, 9, 709⟩) ∧
    decode32 0b0_0_0110001_00101_011_01001_1011000101 = some (.ld16 ⟨false, 5, 3, 9, 709⟩) ∧
    decode32 0b1_0_0110010_00101_011_01001_1011000101 = some (.ld32 ⟨true, 5, 3, 9, 709⟩) ∧
    decode32 0b0_0_0110011_00101_011_01001_1011000101 = some (.ld64 ⟨false, 5, 3, 9, 709⟩) ∧
    decode32 0b1_0_0110100_00101_011_01001_1011000101 = some (.ldc8 ⟨true, 5, 3, 9, 709⟩) ∧
    decode32 0b0_0_0110101_00101_011_01001_1011000101 = some (.ldc16 ⟨false, 5, 3, 9, 709⟩) ∧
    decode32 0b1_0_0110110_00101_011_01001_1011000101 = some (.ldc32 ⟨true, 5, 3, 9, 709⟩) ∧
    decode32 0b0_0_0110111_01000_011_01001_1011000101 = some (.st8 ⟨false, 8, 3, 9, 709⟩) ∧
    decode32 0b1_0_0111000_01000_011_01001_1011000101 = some (.st16 ⟨true, 8, 3, 9, 709⟩) ∧
    decode32 0b0_0_0111001_01000_011_01001_1011000101 = some (.st32 ⟨false, 8, 3, 9, 709⟩) ∧
    decode32 0b1_0_0111010_01000_011_01001_1011000101 = some (.st64 ⟨true, 8, 3, 9, 709⟩) ∧
    decode32 0b0_0_0111011_00_101_111_01001_1011000101 = some (.ldbr false 5 9 709) ∧
    decode32 0b1_0_0111100_00101_00110_01001_011_00000 = some (.aadd64 ⟨true, 5, 6, 9, 3⟩) ∧
    decode32 0b0_0_0111100_00101_00110_01001_011_00001 = some (.aand64 ⟨false, 5, 6, 9, 3⟩) ∧
    decode32 0b1_0_0111100_00101_00110_01001_011_00010 = some (.aor64 ⟨true, 5, 6, 9, 3⟩) ∧
    decode32 0b0_0_0111100_00101_00110_01001_011_00011 = some (.axor64 ⟨false, 5, 6, 9, 3⟩) ∧
    decode32 0b1_0_0111100_00101_00110_01001_011_00100 = some (.amin64 ⟨true, 5, 6, 9, 3⟩) ∧
    decode32 0b0_0_0111100_00101_00110_01001_011_00101 = some (.amax64 ⟨false, 5, 6, 9, 3⟩) ∧
    decode32 0b1_0_0111100_00101_00110_01001_011_00110 = some (.aminc64 ⟨true, 5, 6, 9, 3⟩) ∧
    decode32 0b0_0_0111100_00101_00110_01001_011_00111 = some (.amaxc64 ⟨false, 5, 6, 9, 3⟩) ∧
    decode32 0b1_0_0111100_00101_00110_01001_011_01000 = some (.aswp64 ⟨true, 5, 6, 9, 3⟩) ∧
    decode32 0b0_0_0111101_00101_00110_01001_011_00000 = some (.aadd32 ⟨false, 5, 6, 9, 3⟩) ∧
    decode32 0b1_0_0111101_00101_00110_01001_011_00001 = some (.aand32 ⟨true, 5, 6, 9, 3⟩) ∧
    decode32 0b0_0_0111101_00101_00110_01001_011_00010 = some (.aor32 ⟨false, 5, 6, 9, 3⟩) ∧
    decode32 0b1_0_0111101_00101_00110_01001_011_00011 = some (.axor32 ⟨true, 5, 6, 9, 3⟩) ∧
    decode32 0b0_0_0111101_00101_00110_01001_011_00100 = some (.amin32 ⟨false, 5, 6, 9, 3⟩) ∧
    decode32 0b1_0_0111101_00101_00110_01001_011_00101 = some (.amax32 ⟨true, 5, 6, 9, 3⟩) := by decide +kernel

theorem test_words_of_32_bits_3 :
    decode32 0b0_0_0111101_00101_00110_01001_011_00110 = some (.aminc32 ⟨false, 5, 6, 9, 3⟩) ∧
    decode32 0b1_0_0111101_00101_00110_01001_011_00111 = some (.amaxc32 ⟨true, 5, 6, 9, 3⟩) ∧
    decode32 0b0_0_0111101_00101_00110_01001_011_01000 = some (.aswp32 ⟨false, 5, 6, 9, 3⟩) ∧
    decode32 0b1_0_0111101_00101_00110_01001_011_01001 = some (.afadd ⟨true, 5, 6, 9, 3⟩) ∧
    decode32 0b0_0_0111110_00101_00110_01001_011_00011 = some (.cas64 ⟨false, 5, 6, 9, 3⟩) ∧
    decode32 0b1_0_0111110_00101_00110_01001_011_00010 = some (.cas32 ⟨true, 5, 6, 9, 3⟩) ∧
    decode32 0b0_0_1000000_000000000000000000_10_011 = some (.fence false 2 3) ∧
    decode32 0b1_0_1000001_00000000000000000000_011 = some (.drain true 3) ∧
    decode32 0b0_0_1000010_00000_00110_000000001_1001 = some (.barTile false 6 9) ∧
    decode32 0b1_0_1000010_00000_00110_000000010_1001 = some (.barCluster true 6 9) ∧
    decode32 0b0_0_1000011_00111_01000_000000000_1011 = some (.post false 7 8 11) ∧
    decode32 0b1_0_1000011_00111_01000_000000001_1011 = some (.postAll true 7 8 11) ∧
    decode32 0b0_0_1000100_00101_00110_01001_00000_011 = some (.spawn ⟨false, 5, 6, 9⟩ 3) ∧
    decode32 0b1_0_1000100_00101_00110_01001_0_110_1_011 = some (.spawnPort ⟨true, 5, 6, 9⟩ 6 3) ∧
    decode32 0b0_0_1000100_00101_00110_01001_1_010_0_011 = some (.spawnEvict ⟨false, 5, 6, 9⟩ 2 3) ∧
    decode32 0b1_0_1000101_00000_00110_000_1010100111 = some (.fork true 6 679) ∧
    decode32 0b0_0_1000110_0000000000_1111100000011 = some (.popc false 7939) ∧
    decode32 0b1_0_1000111_00101_000000000000000_110 = some (.steal true 5 6) ∧
    decode32 0b0_0_1000111_00101_000000000000001000 = some (.stealLocal false 5) ∧
    decode32 0b1_0_1001000_00101_00110_01001_00000000 = some (.arm ⟨true, 5, 6, 9⟩) ∧
    decode32 0b0_0_1001001_00000_00110_000000000_1101 = some (.qcfgSet false 6 13) ∧
    decode32 0b1_0_1001001_00101_00000000000001_1101 = some (.qcfgGet true 5 13) ∧
    decode32 0b0_0_1001001_00000_00110_0000000100_110 = some (.qcfgPort false 6 6) ∧
    decode32 0b1_0_1001010_00000_00110_000000_010_1101 = some (.scfgBind true 6 2 13) ∧
    decode32 0b0_0_1001010_0000000000000001000_1101 = some (.scfgFree false 13) ∧
    decode32 0b1_0_1001011_000000000000000_10100101 = some (.fwd true 165) ∧
    decode32 0b0_0_1001100_00101_00110_00000_010_00000 = some (.launch false 5 6 2) ∧
    decode32 0b1_0_1001101_00000000000000000000000 = some (.tfence true) ∧
    decode32 0b0_0_1001101_00000000000000000000001 = some (.tfenceResume false) ∧
    decode32 0b1_0_1001101_00000000000000000000010 = some (.tfenceAbort true) ∧
    decode32 0b0_0_1001110_00101_00110_01001_010_00_011 = some (.waitc ⟨false, 5, 6, 9, 2⟩ 3) ∧
    decode32 0b1_0_1001111_00101_00110_0000000000_110 = some (.dbell true 5 6 6) ∧
    decode32 0b0_0_1010000_00101_00110_01001_011_100_00 = some (.cpy ⟨false, 5, 6, 9, 3, 4⟩) ∧
    decode32 0b1_0_1010001_00101_00110_01001_011_100_00 = some (.cpym ⟨true, 5, 6, 9, 3, 4⟩) ∧
    decode32 0b0_0_1010010_00101_00110_01001_011_100_00 = some (.cpyf ⟨false, 5, 6, 9, 3, 4⟩) ∧
    decode32 0b1_0_1010011_00101_00110_01001_011_100_00 = some (.cmpr ⟨true, 5, 6, 9, 3, 4⟩) ∧
    decode32 0b0_0_1010100_00101_00110_01001_011_100_00 = some (.dcmp ⟨false, 5, 6, 9, 3, 4⟩) ∧
    decode32 0b1_0_1010101_00101_00110_01001_100_00000 = some (.fill ⟨true, 5, 6, 9, 4⟩) ∧
    decode32 0b0_0_1010110_00101_00110_01001_011_100_00 = some (.rput ⟨false, 5, 6, 9, 3, 4⟩) ∧
    decode32 0b1_0_1010111_00101_00110_01001_011_100_00 = some (.rget ⟨true, 5, 6, 9, 3, 4⟩) := by decide +kernel

theorem test_words_of_32_bits_4 :
    decode32 0b0_0_1011000_00101_00110_01001_010_00000 = some (.walk ⟨false, 5, 6, 9, 2⟩) ∧
    decode32 0b1_0_1011001_00000000000000000000000 = some (.stepDie true) ∧
    decode32 0b0_0_1011001_00000000000000000000001 = some (.stepPackage false) ∧
    decode32 0b1_0_1011010_00000_00110_01001_00000000 = some (.rankw true 6 9) ∧
    decode32 0b0_0_1011010_00000_00110_0000000000001 = some (.rankwInv false 6) ∧
    decode32 0b1_0_1100000_00101_000000_000100100011 = some (.crr true 5 291) ∧
    decode32 0b0_0_1100001_00000_00110_0_000100100011 = some (.crw false 6 291) ∧
    decode32 0b1_0_1100010_00000000000000000000000 = some (.tret true) ∧
    decode32 0b0_0_1100011_0000000000_1101010111100 = some (.trap false 6844) ∧
    decode32 0b1_0_1100100_00000000000000000000000 = some (.wfi true) ∧
    decode32 0b0_0_1100101_00000_00110_01001_11000011 = some (.trc false 6 9 195) ∧
    decode32 0b1_0_1100110_00000_00110_01001_000000_10 = some (.pmcs true 6 9 2) ∧
    decode32 0b0_0_1100111_00101_0000000000000000_10 = some (.pmcr false 5 2) ∧
    decode32 0b1_0_1101000_00101_00110_0000000000000 = some (.rplyStart true 5 6) ∧
    decode32 0b0_0_1101000_00101_000000000000000001 = some (.rplyRestore false 5) ∧
    decode32 0b1_0_1101000_00101_000000000000000010 = some (.rplyEnd true 5) ∧
    decode32 0b0_0_1101001_00000_00110_01001_00000_011 = some (.segw false 6 9 3) ∧
    decode32 0b1_0_1101010_00101_00110_0_101010111100 = some (.dstop true 5 6 2748) ∧
    decode32 0b0_0_1101010_00101_00110_1_101010111100 = some (.dstopTrap false 5 6 2748) ∧
    decode32 0b1_0_1101011_00101_00110_01001_010_00000 = some (.isld ⟨true, 5, 6, 9, 2⟩) := by decide +kernel

theorem test_words_of_64_bits_1 :
    decode64 0b0_1_0000000_000000101_000001001_000001011_011_1_01_10_1000_100_0000000000000 = some (.vaddFloat ⟨false, 5, 9, 11, 3, true, 1, 2, 8, 4, 0⟩) ∧
    decode64 0b1_1_0000001_000000101_000001001_000001011_011_1_01_10_1001_101_0000000000000 = some (.vsubFloat ⟨true, 5, 9, 11, 3, true, 1, 2, 9, 5, 0⟩) ∧
    decode64 0b0_1_0000010_000000101_000001001_000001011_011_1_01_10_1010_101_0000000000000 = some (.vmulFloat ⟨false, 5, 9, 11, 3, true, 1, 2, 10, 5, 0⟩) ∧
    decode64 0b1_1_0000011_000000101_000001001_000001011_011_1_01_10_1000_100_0000000000000 = some (.vdiv ⟨true, 5, 9, 11, 3, true, 1, 2, 8, 4, 0⟩) ∧
    decode64 0b0_1_0000100_000000101_000001001_000001011_011_1_01_10_1001_101_0000000000000 = some (.vfma ⟨false, 5, 9, 11, 3, true, 1, 2, 9, 5, 0⟩) ∧
    decode64 0b1_1_0000101_000000101_000001001_000001011_011_1_01_10_1010_101_0000000000000 = some (.vfms ⟨true, 5, 9, 11, 3, true, 1, 2, 10, 5, 0⟩) ∧
    decode64 0b0_1_0000110_000000101_000001001_000001011_011_1_01_10_1000_100_0000000000000 = some (.vfnma ⟨false, 5, 9, 11, 3, true, 1, 2, 8, 4, 0⟩) ∧
    decode64 0b1_1_0000111_000000101_000001001_000001011_011_1_01_10_1001_100_0000000000000 = some (.vminFloat ⟨true, 5, 9, 11, 3, true, 1, 2, 9, 4, 0⟩) ∧
    decode64 0b0_1_0001000_000000101_000001001_000001011_011_1_01_10_1010_100_0000000000000 = some (.vmaxFloat ⟨false, 5, 9, 11, 3, true, 1, 2, 10, 4, 0⟩) ∧
    decode64 0b1_1_0001001_000000101_000001001_000001011_011_1_01_10_1000_100_0000000000000 = some (.vminn ⟨true, 5, 9, 11, 3, true, 1, 2, 8, 4, 0⟩) ∧
    decode64 0b0_1_0001010_000000101_000001001_000001011_011_1_01_10_1001_100_0000000000000 = some (.vmaxn ⟨false, 5, 9, 11, 3, true, 1, 2, 9, 4, 0⟩) ∧
    decode64 0b0_1_0001011_000000101_000001001_000000000_011_1_01_00_1000_100_0000000000000 = some (.vabs ⟨false, 5, 9, 0, 3, true, 1, 0, 8, 4, 0⟩) ∧
    decode64 0b1_1_0001011_000000101_000001001_000000000_011_1_01_00_1000_100_0000000000001 = some (.vneg ⟨true, 5, 9, 0, 3, true, 1, 0, 8, 4, 1⟩) ∧
    decode64 0b0_1_0001100_000000101_000001001_000001011_011_1_01_10_1000_100_0000000000111 = some (.vcmpFloat ⟨false, 5, 9, 11, 3, true, 1, 2, 8, 4, 7⟩) ∧
    decode64 0b0_1_0001101_000000101_000001001_000001011_011_1_01_10_1101_100_0000000000000 = some (.vdotFloat ⟨false, 5, 9, 11, 3, true, 1, 2, 13, 4, 0⟩) ∧
    decode64 0b0_1_0001110_000000101_000001001_000000000_011_1_01_00_1000_100_0000000000000 = some (.vsqrt ⟨false, 5, 9, 0, 3, true, 1, 0, 8, 4, 0⟩) ∧
    decode64 0b0_1_0100000_000000101_000001001_000001011_011_1_01_10_0000_100_0000000000000 = some (.vaddInt ⟨false, 5, 9, 11, 3, true, 1, 2, 0, 4, 0⟩) ∧
    decode64 0b1_1_0100001_000000101_000001001_000001011_011_1_01_10_0001_100_0000000000000 = some (.vsubInt ⟨true, 5, 9, 11, 3, true, 1, 2, 1, 4, 0⟩) ∧
    decode64 0b0_1_0100010_000000101_000001001_000001011_011_1_01_10_0010_100_0000000000000 = some (.vmulInt ⟨false, 5, 9, 11, 3, true, 1, 2, 2, 4, 0⟩) ∧
    decode64 0b1_1_0100011_000000101_000001001_000001011_011_1_01_10_0011_100_0000000000000 = some (.vmulh ⟨true, 5, 9, 11, 3, true, 1, 2, 3, 4, 0⟩) ∧
    decode64 0b0_1_0100100_000000101_000001001_000001011_011_1_01_10_0100_100_0000000000000 = some (.vmad ⟨false, 5, 9, 11, 3, true, 1, 2, 4, 4, 0⟩) ∧
    decode64 0b1_1_0100101_000000101_000001001_000001011_011_1_01_10_0101_100_0000000000000 = some (.vadds ⟨true, 5, 9, 11, 3, true, 1, 2, 5, 4, 0⟩) ∧
    decode64 0b0_1_0100110_000000101_000001001_000001011_011_1_01_10_0110_100_0000000000000 = some (.vsubs ⟨false, 5, 9, 11, 3, true, 1, 2, 6, 4, 0⟩) ∧
    decode64 0b1_1_0100111_000000101_000001001_000001011_011_1_01_10_0111_100_0000000000000 = some (.vminInt ⟨true, 5, 9, 11, 3, true, 1, 2, 7, 4, 0⟩) ∧
    decode64 0b0_1_0101000_000000101_000001001_000001011_011_1_01_10_0000_100_0000000000000 = some (.vmaxInt ⟨false, 5, 9, 11, 3, true, 1, 2, 0, 4, 0⟩) ∧
    decode64 0b0_1_0101001_000000101_000001001_000001011_011_1_01_10_1110_100_0000000000000 = some (.vand ⟨false, 5, 9, 11, 3, true, 1, 2, 14, 4, 0⟩) ∧
    decode64 0b0_1_0101001_000000101_000001001_000001011_011_1_01_10_1111_100_0000000000001 = some (.vor ⟨false, 5, 9, 11, 3, true, 1, 2, 15, 4, 1⟩) ∧
    decode64 0b0_1_0101001_000000101_000001001_000001011_011_1_01_10_0111_100_0000000000010 = some (.vxor ⟨false, 5, 9, 11, 3, true, 1, 2, 7, 4, 2⟩) ∧
    decode64 0b0_1_0101001_000000101_000001001_000001011_011_1_01_10_0000_100_0000000000011 = some (.vandn ⟨false, 5, 9, 11, 3, true, 1, 2, 0, 4, 3⟩) ∧
    decode64 0b0_1_0101010_000000101_000001001_000001011_011_1_01_10_0011_100_0000000000000 = some (.vsll ⟨false, 5, 9, 11, 3, true, 1, 2, 3, 4, 0⟩) := by decide +kernel

theorem test_words_of_64_bits_2 :
    decode64 0b0_1_0101010_000000101_000001001_000001011_011_1_01_10_0011_100_0000000000001 = some (.vsrl ⟨false, 5, 9, 11, 3, true, 1, 2, 3, 4, 1⟩) ∧
    decode64 0b0_1_0101010_000000101_000001001_000001011_011_1_01_10_0011_100_0000000000010 = some (.vsra ⟨false, 5, 9, 11, 3, true, 1, 2, 3, 4, 2⟩) ∧
    decode64 0b0_1_0101011_000000101_000001001_000001011_011_1_01_10_0111_100_0000000000101 = some (.vcmpInt ⟨false, 5, 9, 11, 3, true, 1, 2, 7, 4, 5⟩) ∧
    decode64 0b0_1_0101100_000000101_000001001_000001011_011_1_01_10_1111_100_0000000000000 = some (.vdotInt ⟨false, 5, 9, 11, 3, true, 1, 2, 15, 4, 0⟩) ∧
    decode64 0b0_1_0110000_000000101_000001001_000000000_011_1_01_00_1000_100_0000000000000 = some (.vmov ⟨false, 5, 9, 0, 3, true, 1, 0, 8, 4, 0⟩) ∧
    decode64 0b0_1_0110001_000000101_000001001_000000000_000_0_01_00_1000_100_0000000000111 = some (.vmovm ⟨false, 5, 9, 0, 0, false, 1, 0, 8, 4, 7⟩) ∧
    decode64 0b0_1_0110010_000000101_000001001_000001011_011_1_01_10_1000_100_0000000000000 = some (.vperm ⟨false, 5, 9, 11, 3, true, 1, 2, 8, 4, 0⟩) ∧
    decode64 0b0_1_0110011_000000101_000001001_000001011_000_0_01_10_1000_100_0000000000000 = some (.vperm2 ⟨false, 5, 9, 11, 0, false, 1, 2, 8, 4, 0⟩) ∧
    decode64 0b0_1_0110100_000000101_000001001_000001011_011_1_01_10_1101_100_0000001111111 = some (.vslide ⟨false, 5, 9, 11, 3, true, 1, 2, 13, 4, 127⟩) ∧
    decode64 0b0_1_0110101_000000101_000001001_000001011_011_0_01_10_1000_100_0000000000000 = some (.vsel ⟨false, 5, 9, 11, 3, false, 1, 2, 8, 4, 0⟩) ∧
    decode64 0b0_1_0110110_000000101_000001001_000000000_011_0_01_00_0010_100_0000000000111 = some (.vred ⟨false, 5, 9, 0, 3, false, 1, 0, 2, 4, 7⟩) ∧
    decode64 0b0_1_0110111_000000101_000001001_000000000_011_1_01_00_1001_101_0000000000000 = some (.vscan ⟨false, 5, 9, 0, 3, true, 1, 0, 9, 5, 0⟩) ∧
    decode64 0b0_1_0111000_000000101_000001001_000000000_011_1_01_00_1000_100_0000000000101 = some (.vbcast ⟨false, 5, 9, 0, 3, true, 1, 0, 8, 4, 5⟩) ∧
    decode64 0b0_1_0111001_000000101_000001001_000001011_000_0_00_00_0000_000_0000000000000 = some (.kand ⟨false, 5, 9, 11, 0, false, 0, 0, 0, 0, 0⟩) ∧
    decode64 0b0_1_0111001_000000101_000001001_000001011_000_0_00_00_0000_000_0000000000001 = some (.kor ⟨false, 5, 9, 11, 0, false, 0, 0, 0, 0, 1⟩) ∧
    decode64 0b0_1_0111001_000000101_000001001_000001011_000_0_00_00_0000_000_0000000000010 = some (.kxor ⟨false, 5, 9, 11, 0, false, 0, 0, 0, 0, 2⟩) ∧
    decode64 0b0_1_0111001_000000101_000001001_000001011_000_0_00_00_0000_000_0000000000011 = some (.kandn ⟨false, 5, 9, 11, 0, false, 0, 0, 0, 0, 3⟩) ∧
    decode64 0b0_1_0111001_000000101_000001001_000000000_000_0_00_00_0000_000_0000000000100 = some (.knot ⟨false, 5, 9, 0, 0, false, 0, 0, 0, 0, 4⟩) ∧
    decode64 0b0_1_0111001_000000101_000001001_000000000_000_0_00_00_0000_000_0000000000101 = some (.kmov ⟨false, 5, 9, 0, 0, false, 0, 0, 0, 0, 5⟩) ∧
    decode64 0b0_1_0111001_000000101_000001001_000000000_000_0_00_00_0000_000_0000000000110 = some (.kfromx ⟨false, 5, 9, 0, 0, false, 0, 0, 0, 0, 6⟩) ∧
    decode64 0b0_1_0111001_000000101_000001001_000000000_000_0_00_00_0000_000_0000000000111 = some (.ktox ⟨false, 5, 9, 0, 0, false, 0, 0, 0, 0, 7⟩) ∧
    decode64 0b0_1_0111010_000000101_000001001_000000000_000_0_01_00_1000_100_0000000011111 = some (.vmovx ⟨false, 5, 9, 0, 0, false, 1, 0, 8, 4, 31⟩) ∧
    decode64 0b0_1_1000000_000000101_110101011_000000000_011_1_01_00_1000_001_1101010111100 = some (.vld ⟨false, 5, 427, 0, 3, true, 1, 0, 8, 1, 6844⟩) ∧
    decode64 0b0_1_1000001_000000101_110101011_000000000_011_1_01_00_1011_001_1101010111100 = some (.vst ⟨false, 5, 427, 0, 3, true, 1, 0, 11, 1, 6844⟩) ∧
    decode64 0b0_1_1000010_000000101_110101011_000000000_011_1_01_00_0111_001_1101010111100 = some (.vldx ⟨false, 5, 427, 0, 3, true, 1, 0, 7, 1, 6844⟩) ∧
    decode64 0b0_1_1000011_000000101_110101011_000001011_011_1_01_10_0110_001_1101010111100 = some (.vgath ⟨false, 5, 427, 11, 3, true, 1, 2, 6, 1, 6844⟩) ∧
    decode64 0b0_1_1000100_000000101_110101011_000001011_011_1_01_10_1000_000_1101010111100 = some (.vscat ⟨false, 5, 427, 11, 3, true, 1, 2, 8, 0, 6844⟩) ∧
    decode64 0b0_1_1000101_000000101_110101011_000001011_000_0_01_10_1101_000_1101010111100 = some (.vstm ⟨false, 5, 427, 11, 0, false, 1, 2, 13, 0, 6844⟩) ∧
    decode64 0b0_1_1010000_000000101_000001001_000000000_011_1_01_00_0010_100_0000000001000 = some (.vcvt ⟨false, 5, 9, 0, 3, true, 1, 0, 2, 4, 8⟩) ∧
    decode64 0b0_1_1010001_000000101_000001001_000000000_011_1_01_00_0000_100_0000000010000 = some (.vcvtw ⟨false, 5, 9, 0, 3, true, 1, 0, 0, 4, 16⟩) := by decide +kernel

theorem test_words_of_64_bits_3 :
    decode64 0b0_1_1010010_000000101_000001001_000000000_011_1_01_00_1101_101_0000000000010 = some (.vcvtn ⟨false, 5, 9, 0, 3, true, 1, 0, 13, 5, 2⟩) ∧
    decode64 0b0_1_1010011_000000101_000001001_000001011_000_0_01_10_1000_100_0000000000010 = some (.vmxq ⟨false, 5, 9, 11, 0, false, 1, 2, 8, 4, 2⟩) ∧
    decode64 0b0_1_1010100_000000101_000001001_000000000_011_1_01_00_1000_100_0000000000000 = some (.vexp2 ⟨false, 5, 9, 0, 3, true, 1, 0, 8, 4, 0⟩) ∧
    decode64 0b0_1_1010101_000000101_000001001_000000000_011_1_01_00_1000_100_0000000000000 = some (.vlog2 ⟨false, 5, 9, 0, 3, true, 1, 0, 8, 4, 0⟩) ∧
    decode64 0b0_1_1010110_000000101_000001001_000000000_011_1_01_00_1000_100_0000000000000 = some (.vrcp ⟨false, 5, 9, 0, 3, true, 1, 0, 8, 4, 0⟩) ∧
    decode64 0b0_1_1010111_000000101_000001001_000000000_011_1_01_00_1000_100_0000000000000 = some (.vrsq ⟨false, 5, 9, 0, 3, true, 1, 0, 8, 4, 0⟩) ∧
    decode64 0b0_1_1011000_000000101_000001001_000000000_000_0_01_00_1100_100_0000000000000 = some (.vspk ⟨false, 5, 9, 0, 0, false, 1, 0, 12, 4, 0⟩) ∧
    decode64 0b0_1_1011001_000000101_000001001_000000000_000_0_01_00_0000_100_0000000000000 = some (.vupk ⟨false, 5, 9, 0, 0, false, 1, 0, 0, 4, 0⟩) ∧
    decode64 0b0_1_1011010_000000000_000001001_000000000_000_0_01_00_0000_000_0000111111111 = some (.tblwB ⟨false, 0, 9, 0, 0, false, 1, 0, 0, 0, 511⟩) ∧
    decode64 0b0_1_1011010_000000000_000001001_000000000_000_0_01_00_0000_000_1000011111111 = some (.tblwS ⟨false, 0, 9, 0, 0, false, 1, 0, 0, 0, 4351⟩) ∧
    decode64 0b0_1_1011011_000000000_000001001_000000000_000_0_00_00_0000_000_0000000000111 = some (.upatw ⟨false, 0, 9, 0, 0, false, 0, 0, 0, 0, 7⟩) ∧
    decode64 0b1_1_1100000_110101011_1010101011110011011110111100010010001101000101 = some (.li true 427 46990682563397) ∧
    decode64 0b0_1_1100001_110101011_101010101111001101_0000000000000000000000000000 = some (.liu false 427 175053) ∧
    decode64 0b0_1_1100010_110101011_110101111_000000000_000_0_00_00_0000_000_0000000101111 = some (.decomp ⟨false, 427, 431, 0, 0, false, 0, 0, 0, 0, 47⟩) ∧
    decode64 0b0_1_1100011_110101011_110000000_110010000_000_0_00_00_0000_000_0000000000000 = some (.scalar64Add ⟨false, 427, 384, 400, 0, false, 0, 0, 0, 0, 0⟩) ∧
    decode64 0b1_1_1100011_110101011_110000000_110010000_000_0_00_00_0000_000_0000000000001 = some (.scalar64Sub ⟨true, 427, 384, 400, 0, false, 0, 0, 0, 0, 1⟩) ∧
    decode64 0b0_1_1100011_110101011_110000000_110010000_000_0_00_00_0000_000_0000000000010 = some (.scalar64And ⟨false, 427, 384, 400, 0, false, 0, 0, 0, 0, 2⟩) ∧
    decode64 0b1_1_1100011_110101011_110000000_110010000_000_0_00_00_0000_000_0000000000011 = some (.scalar64Or ⟨true, 427, 384, 400, 0, false, 0, 0, 0, 0, 3⟩) ∧
    decode64 0b0_1_1100011_110101011_110000000_110010000_000_0_00_00_0000_000_0000000000100 = some (.scalar64Xor ⟨false, 427, 384, 400, 0, false, 0, 0, 0, 0, 4⟩) ∧
    decode64 0b1_1_1100011_110101011_110000000_110010000_000_0_00_00_0000_000_0000000000101 = some (.scalar64Andn ⟨true, 427, 384, 400, 0, false, 0, 0, 0, 0, 5⟩) ∧
    decode64 0b0_1_1100011_110101011_110000000_110010000_000_0_00_00_0000_000_0000000000110 = some (.scalar64Sll ⟨false, 427, 384, 400, 0, false, 0, 0, 0, 0, 6⟩) ∧
    decode64 0b1_1_1100011_110101011_110000000_110010000_000_0_00_00_0000_000_0000000000111 = some (.scalar64Srl ⟨true, 427, 384, 400, 0, false, 0, 0, 0, 0, 7⟩) ∧
    decode64 0b0_1_1100011_110101011_110000000_110010000_000_0_00_00_0000_000_0000000001000 = some (.scalar64Sra ⟨false, 427, 384, 400, 0, false, 0, 0, 0, 0, 8⟩) ∧
    decode64 0b1_1_1100011_110101011_110000000_110010000_000_0_00_00_0000_000_0000000001001 = some (.scalar64Slt ⟨true, 427, 384, 400, 0, false, 0, 0, 0, 0, 9⟩) ∧
    decode64 0b0_1_1100011_110101011_110000000_110010000_000_0_00_00_0000_000_0000000001010 = some (.scalar64Sltc ⟨false, 427, 384, 400, 0, false, 0, 0, 0, 0, 10⟩) ∧
    decode64 0b1_1_1100011_110101011_110000000_110010000_000_0_00_00_0000_000_0000000001011 = some (.scalar64Min ⟨true, 427, 384, 400, 0, false, 0, 0, 0, 0, 11⟩) ∧
    decode64 0b0_1_1100011_110101011_110000000_110010000_000_0_00_00_0000_000_0000000001100 = some (.scalar64Max ⟨false, 427, 384, 400, 0, false, 0, 0, 0, 0, 12⟩) ∧
    decode64 0b1_1_1100011_110101011_110000000_110010000_000_0_00_00_0000_000_0000000001101 = some (.scalar64Minc ⟨true, 427, 384, 400, 0, false, 0, 0, 0, 0, 13⟩) ∧
    decode64 0b0_1_1100011_110101011_110000000_110010000_000_0_00_00_0000_000_0000000001110 = some (.scalar64Maxc ⟨false, 427, 384, 400, 0, false, 0, 0, 0, 0, 14⟩) := by decide +kernel

theorem test_words_of_the_stream_1 :
    decodeStream 0b00_100100011_10101 0 = some (.issue 291 21) ∧
    decodeStream 0b0_1_1001000_11_10011 0b1011111011101111 = some (.issuel 291 1294063) ∧
    decodeStream 0b10_10001101000101 0 = some (.mark 9029) ∧
    decodeStream 0b1100000000000000 0 = some .streamEnd ∧
    decodeStream 0b11000010000_10100 0 = some (.align 20) ∧
    decodeStream 0b1100010_101010101 0 = some (.idle 341) ∧
    decodeStream 0b1_1_0001100_0000_101 0b1111111111000000 = some (.streamLoop 5 65472) ∧
    decodeStream 0b1_1_0010000_0000000 0b1111111111000000 = some (.jump 65472) ∧
    decodeStream 0b1_1_0010100_0_10_1001 0b1111111111000000 = some (.brp 2 9 65472) := by decide +kernel

theorem test_slot_fields_1 :
    decodeSlot .mx 0b000001_10_01_11_1001_101_110_10_1_0_000000000000000000 = some (.mma 2 1 3 9 5 6 2 true false) ∧
    decodeSlot .mx 0b000010_10_01_11_1010_000_000_00_0_1_000000000000000000 = some (.mmasp 2 1 3 10 false true) ∧
    decodeSlot .mx 0b000011_10_01_11_000000000000_1_0_000000000000000000 = some (.mmat 2 1 3 true false) ∧
    decodeSlot .mx 0b000100_10_000000000000000000000000000000000000 = some (.mzero 2) ∧
    decodeSlot .mx 0b000101_10_101_10011_0000000000000000000000000000 = some (.mfy 2 5 19) ∧
    decodeSlot .vt 0b000001_01001_10001_11110_1_0_00000000000000000 = some (.vtAdd ⟨9, 17, 30, true, false⟩) ∧
    decodeSlot .vt 0b000010_01001_10001_11110_1_0_00000000000000000 = some (.vtSub ⟨9, 17, 30, true, false⟩) ∧
    decodeSlot .vt 0b000011_01001_10001_11110_0_1_00000000000000000 = some (.vtMul ⟨9, 17, 30, false, true⟩) ∧
    decodeSlot .vt 0b000100_01001_10001_11110_0_1_00000000000000000 = some (.vtFma ⟨9, 17, 30, false, true⟩) ∧
    decodeSlot .vt 0b000101_01001_10001_11110_0_1_00000000000000000 = some (.vtMax ⟨9, 17, 30, false, true⟩) ∧
    decodeSlot .vt 0b000110_01001_10001_11110_0_1_00000000000000000 = some (.vtMin ⟨9, 17, 30, false, true⟩) ∧
    decodeSlot .vt 0b000111_01001_10001_000000000000000000000000 = some (.vtExp2 ⟨9, 17, 0, false, false⟩) ∧
    decodeSlot .vt 0b001000_01001_10001_1011_1000_11_1_0000000000000 = some (.vtCvt 9 17 11 8 3 true) ∧
    decodeSlot .vt 0b001001_01001_10001_00000_0_1_00000000000000000 = some (.vtRmax ⟨9, 17, 0, false, true⟩) ∧
    decodeSlot .vt 0b001010_01001_10001_00000_1_0_00000000000000000 = some (.vtRsum ⟨9, 17, 0, true, false⟩) ∧
    decodeSlot .vt 0b001011_01001_10001_110_000000000000000000000 = some (.vtBcast 9 17 6) ∧
    decodeSlot .vt 0b001100_01001_10_101_000000000000000000000000 = some (.yfa 9 2 5) ∧
    decodeSlot .la 0b000001_101_10_11_00000000000000000000000 = some (.ldr false 5 2 3) ∧
    decodeSlot .la 0b000010_101_10011_0000000000000000000000 = some (.ldy false 5 19) ∧
    decodeSlot .la 0b000011_101_10011_110_0000000000000000000 = some (.ldu false 5 19 6) ∧
    decodeSlot .la 0b000100_101_10011_010110_0000000000000000 = some (.sty false 5 19 22) ∧
    decodeSlot .la 0b000101_101_10111111111111_0000000000000 = some (.agset false 5 12287) ∧
    decodeSlot .la 0b000110_101_011_110_1000000000001_00000000 = some (.hld false 5 3 6 4097) ∧
    decodeSlot .la 0b000111_101_011_110_1111111111111_00000000 = some (.hst false 5 3 6 8191) ∧
    decodeSlot .lb 0b000001_101_10_11_00000000000000000000000 = some (.ldr true 5 2 3) ∧
    decodeSlot .lb 0b000010_101_10011_0000000000000000000000 = some (.ldy true 5 19) ∧
    decodeSlot .lb 0b000011_101_10011_110_0000000000000000000 = some (.ldu true 5 19 6) ∧
    decodeSlot .lb 0b000100_101_10011_010110_0000000000000000 = some (.sty true 5 19 22) ∧
    decodeSlot .lb 0b000101_101_10111111111111_0000000000000 = some (.agset true 5 12287) ∧
    decodeSlot .lb 0b000110_101_011_110_1000000000001_00000000 = some (.hld true 5 3 6 4097) ∧
    decodeSlot .lb 0b000111_101_011_110_1111111111111_00000000 = some (.hst true 5 3 6 8191) ∧
    decodeSlot .sc 0b000001_101_011_000000000000 = some (.zld 5 3) ∧
    decodeSlot .sc 0b000010_101_10100111_0000000 = some (.zsplat 5 167) ∧
    decodeSlot .sc 0b000011_101_10011_0000000000 = some (.zfy 5 19) ∧
    decodeSlot .lk 0b000001_11011_101_11_0000000000000000 = some (.lsend 27 5 3) ∧
    decodeSlot .lk 0b000010_10111_101_10_0000000000000000 = some (.lrecv 23 5 2) ∧
    decodeSlot .lk 0b000011_11000_00111_01_00000000000000 = some (.lpass 24 7 1) ∧
    decodeSlot .ct 0b000001_101_1010101111001101111011110001 = some (.cset 5 180150001) ∧
    decodeSlot .ct 0b000010_101_1011_000000000000000000000000 = some (.cfp 5 11) ∧
    decodeSlot .ct 0b000011_101_10011_110_00000000000000000000 = some (.cfy 5 19 6) := by decide +kernel

theorem test_slot_fields_2 :
    decodeSlot .ct 0b000100_1011_10111111111111_0000000000000 = some (.wopen 11 12287) ∧
    decodeSlot .ct 0b000101_1011_0_00000000000000000000_000000 = some (.wcloseDefault 11) ∧
    decodeSlot .ct 0b000101_1011_1_10101011110011011110_000000 = some (.wcloseStall 11 703710) ∧
    decodeSlot .ct 0b000110_10_1011_0000000000000000000000000 = some (.swaph 2 11) := by decide +kernel

/-! ## The spec's worked examples -/

/-- The words that the examples of 02, 04, 05, 07 to 11, 13, 14 and 16 give. -/
theorem test_example_words :
    decode32 0x0014C700 = some (.add ⟨false, 5, 6, 7⟩) ∧ decode32 0x880C7FFF = some (.addi ⟨true, 3, 3, -1⟩) ∧
    decode32 0x19951803 = some (.ld64 ⟨false, 5, 2, 6, 3⟩) ∧ decode32 0x20000012 = some (.fence false 2 2) ∧
    decode32 0x358C8520 = some (.isld ⟨false, 3, 4, 5, 1⟩) ∧ decode32 0x25800007 = some (.fwd false 7) ∧
    decode32 0x2480A003 = some (.qcfgSet false 5 3) ∧ decode32 0x278CA001 = some (.dbell false 3 5 1) ∧
    decode32 0x22808005 = some (.fork false 4 5) ∧ decode32 0x2898852C = some (.cpym ⟨false, 6, 4, 5, 1, 3⟩) ∧
    decode32 0x260C8020 = some (.launch false 3 4 1) ∧ decode32 0x2194C003 = some (.post false 5 6 3) ∧
    decode32 0x2194C013 = some (.postAll false 5 6 3) ∧ decode32 0x3280A621 = some (.trc false 5 6 0x21) ∧
    decode32 0x3300E802 = some (.pmcs false 7 8 2) ∧ decode32 0x33A40002 = some (.pmcr false 9 2) ∧
    decode32 0x340C8000 = some (.rplyStart false 3 4) ∧ decode32 0x3508A00C = some (.dstop false 2 5 12) ∧
    decode32 0x2D008500 = some (.rankw false 4 5) ∧ decode32 0x2B18852C = some (.rput ⟨false, 6, 4, 5, 1, 3⟩) ∧
    decode32 0x2C800000 = some (.stepDie false) ∧ decode32 0x2C800001 = some (.stepPackage false) ∧
    decode64 0x4201003AB4480000 = some (.vfma ⟨false, 4, 1, 427, 2, false, 1, 0, 8, 0, 0⟩) ∧
    decode64 0x716CB5A00000001A = some (.decomp ⟨false, 434, 429, 0, 0, false, 0, 0, 0, 0, 0x1A⟩) ∧
    decode64 0x6982011AD0080000 = some (.vmxq ⟨false, 8, 8, 429, 0, false, 0, 0, 8, 0, 0⟩) ∧
    decode64 0x6D00006000000006 = some (.tblwB ⟨false, 0, 3, 0, 0, false, 0, 0, 0, 0, 6⟩) ∧
    decode64 0x6C040100000B0000 = some (.vspk ⟨false, 16, 8, 0, 0, false, 0, 0, 11, 0, 0⟩) ∧
    decodeSlot .mx 0x05100080000 = some (.mma 1 0 1 0 0 0 0 true false) ∧ decodeSlot .ct 0x208190000 = some (.wopen 1 200) := by decide +kernel

/-- The bytes of `fork x4, 5` are 80 80 22 with 05 first (07). -/
theorem test_example_bytes : decode [0x05, 0x80, 0x80, 0x22, 0xFF] = .ok (.fork false 4 5, [0xFF]) ∧
    decode [0x60, 0x00, 0x00, 0x6D, 0x06, 0x00, 0x00, 0x00] = .ok (.tblwB ⟨false, 0, 3, 0, 0, false, 0, 0, 0, 0, 6⟩, []) := by constructor <;> rfl

/-- Tile (3, 17, 42) has id 16,762 and lies in cluster (3, 4, 10), at row 1, column 2 (00 R4). -/
theorem test_tile_id : tileAt 3 17 42 = 16762 ∧ clusterOf 16762 = 3 * 320 + 4 * 20 + 10 ∧ inCluster 16762 = 1 * 4 + 2 := by decide

/-- DECOMP of 16,762 by the shape (80, 64, 1, 1) gives 42, 17 and 3 (04 R92). -/
theorem test_decomp : ∃ s', exec (.decomp ⟨false, 434, 429, 0, 0, false, 0, 0, 0, 0, 0x1A⟩)
    (withThread { (thread0.setX 5 16762) with shape := thread0.shape.set 2 #v[80, 64, 1, 1] }) = .next s' ∧
    (s'.thread ⟨0, 2⟩).map (fun t => (t.getX 10, t.getX 11, t.getX 12)) = some (42, 17, 3) := ⟨_, rfl, by decide +kernel⟩

/-- SLTCI compares with the sign-extended immediate as a cardinal (04 R87). -/
theorem test_sltci : aluSltc 5 ((-1 : BitVec 13).signExtend 64) = 1 ∧ aluSltc (-1) ((-1 : BitVec 13).signExtend 64) = 0 := by decide

/-- The borders of division (04 R88). -/
theorem test_div : divS 7 0 = -1 ∧ divC 7 0 = -1 ∧ remS 7 0 = 7 ∧ remC 7 0 = 7 ∧ divS (BitVec.intMin 64) (-1) = BitVec.intMin 64 ∧
    remS (BitVec.intMin 64) (-1) = 0 ∧ divS (-7) 2 = -3 ∧ remS (-7) 2 = -1 := by decide +kernel

/-- Ten 3-bit fields in 0x053908F9 expand to 01 FF 03 FC 00 02 FE 01 FD 00 (01 R22). -/
theorem test_unpack : (patUnpack 0x000000000010001F 0x053908F9 (BitVec.ofNat 256 (2 ^ 80 - 1))).1 = 0x00FD01FE0200FC03FF01 := by decide +kernel

/-- Stochastic rounding of 1 + 2^-8 to BF16 from state 1 (01 R26). -/
theorem test_stochastic : genStep 1 = 0x00042021 ∧ (roundTo .bf16 (.sr 0x000420) (Num.ofBits .f32 0x3F808000)).1 = 0x3F80 := by decide +kernel

/-- Minimum and maximum with a signalling NaN and with zeros of both signs (01 R30). -/
theorem test_min_max : minMax .f32 false true 0 0x7F800001 = (0, flagInvalid) ∧ minMax .f32 false false 0 0x7F800001 = (0x7FC00000, flagInvalid) ∧
    (minMax .f32 true false 0x80000000 0).1 = 0 ∧ (minMax .f32 true false 0 0x80000000).1 = 0 := by decide +kernel

/-- The k-group 2^24, 1, 1, 1, 0, 0, 0, 0 sums to 16,777,218 (01 R31). -/
theorem test_group_sum : (floatSum (([2 ^ 24, 1, 1, 1, 0, 0, 0, 0] : List Int).map fun i => (Num.ofInt i, ({} : Flags)))).1 = 0x4B800001 := by decide +kernel

/-- An integer accumulator wraps, or saturates and says so (09 R242). -/
theorem test_accumulate : accumulate false false true 0x7FFFFFF0 100 = (0x80000054, {}) ∧ accumulate false true true 0x7FFFFFF0 100 = (0x7FFFFFFF, flagSaturate) := by
  decide +kernel

/-- The MX block of 1000, -1.5 and 3 (05 R131). -/
theorem test_mx_block : mxScale .e4m3 [0x447A0000, 0xBFC00000, 0x40400000, 0] = some 0x80 ∧ (mxElement .e4m3 .rne 0x80 0x447A0000).1 = 0x7E ∧
    (mxElement .e4m3 .rne 0x80 0xBFC00000).1 = 0xB4 ∧ (mxElement .e4m3 .rne 0x80 0x40400000).1 = 0x3C := by decide +kernel

/-- Two groups packed 2 of 4 and restored (09 R252, R253). -/
theorem test_sparse : sparsePack 11 2 0x000080007F44C430 = (0x4D, 0x80007FC4) ∧ (sparseUnpack 11 2 0x4D 0x80007FC4).1 = 0x000080007F00C400 := by decide +kernel

/-- The CRC of "123456789" (10 R271). -/
theorem test_crc64 : crc64Fold 9 0 0x393837363534333231 = 0x6C40DF5F0B497347 := by decide +kernel

/-- The owners of three blocks (15 R356). -/
theorem test_owner : pseudoChannel 0x0C030200 = 259 ∧ ownerCluster 0x0C030200 = 2 * 320 + 6 * 20 + 19 ∧ pseudoChannel 0x0C030300 = 260 ∧
    ownerCluster 0x0C030300 = ownerCluster 0x0C030200 ∧ pseudoChannel (0x0C030200 + 768 * 256) = 260 := by decide

/-- A join word of 0 takes class 2 and 7 items (11 R298). -/
theorem test_join_word : joinWord 0 2 7 = 0x0000000140000007 := by decide

/-- A BF16 granule's seal lies under its tag, and a fresh seal passes (01 R33, R34). -/
theorem test_seal : 0x1C000000 ≤ (sealOf 5 7).toNat ∧ (sealOf 5 7).toNat ≤ 0x1FFFFFFF ∧
    (match sealCheck ⟨4, sealOf 5 7⟩ (some 7) with | .ok (d, c) => d = 5 && c | .error _ => false) = true := by decide +kernel

end Sys2Proof.Tests
end

section

/-! O23: every event, slot operation and stream word completes, and a step runs what is due (00 R11, 08 R204, R206). -/

namespace Sys2Proof.Machine

open Sys2Proof.Claims

/-! Rows that complete: every branch of the row answers a next state -/

/-- An outcome is a next state: neither a fault nor a refusal. -/
def Completes (r : Result) : Prop := ∃ s', r = .next s'

theorem Completes.next (s : State) : Completes (.next s) := ⟨s, rfl⟩

theorem Completes.ite {c : Prop} [Decidable c] {a b : Result} (ha : Completes a) (hb : Completes b) :
    Completes (if c then a else b) := by
  split
  · exact ha
  · exact hb

/-! The events whose rows have a shape of their own, each by its decisions in the order in which the row makes them -/

@[simp] theorem execLongResultLands_completes (who : Who) (tok : Nat) (s : State) : Completes (execLongResultLands who tok s) := by
  unfold execLongResultLands
  split
  · exact .next _
  split
  · exact .next _
  split
  · exact .next _
  refine .ite (.next _) <| .ite (.next _) <| .ite (.next _) <| .ite (.next _) ?_
  split <;> exact .next _

@[simp] theorem execStoreReleasePerforms_completes (id : Nat) (s : State) : Completes (execStoreReleasePerforms id s) := by
  unfold execStoreReleasePerforms
  split
  · exact .next _
  split
  · exact .next _
  dsimp only
  split
  · exact .next _
  split
  · exact .ite (.next _) (.next _)
  · exact .next _
  · exact .ite (.next _) (.next _)
  · exact .ite (.next _) (.next _)

@[simp] theorem execAtomicAtOwner_completes (id : Nat) (s : State) : Completes (execAtomicAtOwner id s) := by
  unfold execAtomicAtOwner
  split
  · exact .next _
  split
  · split
    · exact .next _
    · split <;> exact .next _
  · exact .next _

@[simp] theorem execForwardingDelivery_completes (id : Nat) (s : State) : Completes (execForwardingDelivery id s) := by
  unfold execForwardingDelivery
  split
  · exact .next _
  refine .ite (.next _) ?_
  split
  · exact .next _
  split
  · exact .next _
  · exact .ite (.next _) (.next _)

@[simp] theorem execPortSendArrival_completes (pkt : Nat) (s : State) : Completes (execPortSendArrival pkt s) := by
  unfold execPortSendArrival
  split
  · exact .next _
  split
  · exact .ite (.next _) <| .ite (.next _) <| .ite (.next _) (.next _)
  · exact .next _

@[simp] theorem execStreamPrefetch_completes (tile sn : Nat) (s : State) : Completes (execStreamPrefetch tile sn s) := by
  unfold execStreamPrefetch
  split
  · exact .next _
  refine .ite (.next _) ?_
  split
  · exact .next _
  refine .ite (.ite (.next _) <| .ite (.next _) (.next _)) <| .ite (.next _) ?_
  split
  · exact .next _
  · exact .next _
  · exact .ite (.next _) <| .ite (.next _) (.next _)
  · exact .ite (.next _) (.next _)

@[simp] theorem execStreamDrain_completes (tile sn : Nat) (s : State) : Completes (execStreamDrain tile sn s) := by
  unfold execStreamDrain
  split
  · exact .next _
  split
  · exact .next _
  split
  · exact .ite (.next _) (.next _)
  · exact .ite (.next _) (.next _)
  · exact .ite (.next _) (.next _)

@[simp] theorem execStealRequestArrival_completes (pkt : Nat) (s : State) : Completes (execStealRequestArrival pkt s) := by
  unfold execStealRequestArrival
  split
  · exact .next _
  split
  · exact .ite (.next _) <| .ite (.next _) <| .ite (.next _) (.next _)
  · exact .next _

@[simp] theorem execVictimRestore_completes (who : Who) (s : State) : Completes (execVictimRestore who s) := by
  unfold execVictimRestore
  split
  · exact .next _
  split
  · exact .next _
  refine .ite (.next _) ?_
  split
  · exact .next _
  · exact .ite (.next _) (.next _)

@[simp] theorem execBarrierArrival_completes (cluster num serial : Nat) (s : State) :
    Completes (execBarrierArrival cluster num serial s) := by
  unfold execBarrierArrival
  split
  · exact .next _
  · exact .ite (.next _) <| .ite (.next _) (.next _)

@[simp] theorem execEngineAccept_completes (cluster op : Nat) (s : State) : Completes (execEngineAccept cluster op s) := by
  unfold execEngineAccept
  split
  · exact .next _
  refine .ite (.next _) ?_
  split
  · dsimp only
    split <;> exact .next _
  split
  · dsimp only
    split <;> exact .next _
  · exact .next _
  · exact .next _

@[simp] theorem execEngineGranuleWrite_completes (cluster op : Nat) (s : State) : Completes (execEngineGranuleWrite cluster op s) := by
  unfold execEngineGranuleWrite
  split
  · exact .next _
  refine .ite (.next _) ?_
  split <;> exact .next _

@[simp] theorem execPacketHop_completes (pkt : Nat) (s : State) : Completes (execPacketHop pkt s) := by
  unfold execPacketHop
  split
  · exact .next _
  refine .ite (.next _) ?_
  split <;> exact .next _

@[simp] theorem execJoinUpdate_completes (launch : Nat) (s : State) : Completes (execJoinUpdate launch s) := by
  unfold execJoinUpdate
  dsimp only
  split
  · exact .next _
  · exact .ite (.next _) <| .ite (.next _) (.next _)

@[simp] theorem execHbmCommandSlot_completes (pc : Nat) (s : State) : Completes (execHbmCommandSlot pc s) := by
  unfold execHbmCommandSlot
  refine .ite (.next _) ?_
  split <;> exact .next _

@[simp] theorem execRegionFault_completes (region tile cause sub : Nat) (info : Word) (addr : Nat) (s : State) :
    Completes (execRegionFault region tile cause sub info addr s) := by
  unfold execRegionFault
  split
  · exact .next _
  dsimp only
  split
  · exact .ite (.next _) <| .ite (.next _) (.next _)
  · exact .next _

@[simp] theorem execStewardRegionTrap_completes (region : Nat) (s : State) : Completes (execStewardRegionTrap region s) := by
  unfold execStewardRegionTrap
  split
  · exact .next _
  split
  · exact .next _
  · exact .ite (.next _) (.next _)

@[simp] theorem execPostTimeout_completes (tile win : Nat) (s : State) : Completes (execPostTimeout tile win s) := by
  unfold execPostTimeout
  dsimp only
  split
  · exact .next _
  refine .ite (.next _) ?_
  split <;> exact .next _

@[simp] theorem execPostArrival_completes (id : Nat) (s : State) : Completes (execPostArrival id s) := by
  unfold execPostArrival
  split
  · exact .next _
  refine .ite (.ite (.next _) <| .ite (.next _) (.next _)) ?_
  split
  · exact .next _
  · exact .ite (.next _) (.next _)

@[simp] theorem execTraceRingWrite_completes (die tile : Nat) (s : State) : Completes (execTraceRingWrite die tile s) := by
  unfold execTraceRingWrite
  split
  · exact .next _
  · exact .ite (.next _) <| .ite (.next _) (.next _)

@[simp] theorem execDump_completes (die : Nat) (s : State) : Completes (execDump die s) := by
  unfold execDump
  refine .ite (.next _) ?_
  dsimp only
  split <;> exact .next _

@[simp] theorem execWatchdogExpiry_completes (die n : Nat) (s : State) : Completes (execWatchdogExpiry die n s) := by
  unfold execWatchdogExpiry
  refine .ite (.next _) ?_
  dsimp only
  split
  · exact .next _
  · exact .ite (.next _) (.next _)

@[simp] theorem execJobRecordTake_completes (s : State) : Completes (execJobRecordTake s) := by
  unfold execJobRecordTake
  refine .ite (.next _) <| .ite (.next _) ?_
  dsimp only
  split <;> exact .next _

@[simp] theorem execFormGroup_completes (reached : Bool) (others : GroupSpan) (tdepth tparent tchild : Nat) (s : State) :
    Completes (execFormGroup reached others tdepth tparent tchild s) := by
  unfold execFormGroup
  refine .ite (.next _) ?_
  split <;> exact .next _

@[simp] theorem execPackagePageWrite_completes (off : Nat) (value : Word) (s : State) : Completes (execPackagePageWrite off value s) :=
  .ite (.next _) <| .ite (.ite (.next _) (.next _)) <| .ite (.next _) <| .ite (.ite (.next _) (.next _)) <| .ite (.next _) <|
    .ite (.next _) <| .ite (.next _) <|
    .ite (.ite (.next _) <| .ite (.next _) <| .ite (.next _) (.next _)) (.next _)

@[simp] theorem execTokenArrival_completes (t : Token) (s : State) : Completes (execTokenArrival t s) := by
  cases t with
  | freeze k at_ | resume k time | halt k at_ debug | abort k =>
    dsimp only [execTokenArrival]
    split <;> exact .next _
  | ready index k time => exact .next _
  | clock member m time => exact .ite (.next _) (.next _)

@[simp] theorem execRemoteRequest_completes (src tile slot va : Nat) (op : RemoteOp) (s : State) :
    Completes (execRemoteRequest src tile slot va op s) := by
  unfold execRemoteRequest
  dsimp only
  split
  · exact .next _
  refine .ite (.next _) <| .ite (.next _) ?_
  split
  · exact .ite (.next _) (.next _)
  split
  · exact .next _
  · exact .ite (.next _) <| .ite (.next _) (.next _)

@[simp] theorem execFabricTimeout_completes (id : Nat) (s : State) : Completes (execFabricTimeout id s) := by
  unfold execFabricTimeout
  split
  · refine .ite (.next _) ?_
    split <;> exact .next _
  · split <;> exact .next _

@[simp] theorem execPageMove_completes (s : State) : Completes (execPageMove s) := by
  unfold execPageMove
  extract_lets
  refine .ite (.next _) ?_
  extract_lets
  exact .ite (.next _) (.next _)

@[simp] theorem execDebugRegionResume_completes (region : Nat) (s : State) : Completes (execDebugRegionResume region s) := by
  unfold execDebugRegionResume
  split
  · exact .next _
  split
  · exact .ite (.next _) (.next _)
  · exact .ite (.next _) (.next _)

@[simp] theorem execTfenceValidationLanding_completes (who : Who) (s : State) : Completes (execTfenceValidationLanding who s) := by
  unfold execTfenceValidationLanding
  split
  · exact .next _
  split
  · exact .next _
  dsimp only
  split
  · exact .next _
  · exact .ite (.next _) (.next _)

@[simp] theorem execVstmDestinationWrite_completes (id : Nat) (s : State) : Completes (execVstmDestinationWrite id s) := by
  unfold execVstmDestinationWrite
  split
  · exact .next _
  split
  · exact .ite (.next _) <| .ite (.next _) (.next _)
  · exact .next _

@[simp] theorem execRemoteReplyArrival_completes (id : Nat) (ans : RemoteAnswer) (s : State) :
    Completes (execRemoteReplyArrival id ans s) := by
  unfold execRemoteReplyArrival
  split
  · split <;> exact .next _
  split
  · exact .next _
  · split <;> exact .next _

@[simp] theorem execBankAccess_completes (id : Nat) (s : State) : Completes (execBankAccess id s) := by
  unfold execBankAccess
  split
  · exact .next _
  refine .ite (.next _) <| .ite (.next _) ?_
  dsimp only
  split <;> exact .next _

@[simp] theorem execThreadFatal_completes (who : Who) (s : State) : Completes (execThreadFatal who s) := by
  unfold execThreadFatal
  split
  · exact .next _
  · exact .ite (.next _) <| .ite (.next _) (.next _)

@[simp] theorem execDispatch_completes (s : State) : Completes (execDispatch s) := by
  unfold execDispatch
  split
  · exact .next _
  split
  · exact .next _
  split
  · refine .ite (.next _) ?_
    split
    · exact .next _
    · exact .ite (.next _) (.next _)
  · exact .ite (.next _) (.next _)

/-! Every event and every slot operation -/

/-- The rows of few decisions go together, by the decisions they share: none; one or two conditions; one lookup; a lookup and
then a condition or a second lookup. The other rows have lemmas of their own above. -/
theorem runEvent_completes (e : Event) (s : State) : Completes (runEvent e s) := by
  cases e
  case deferredArmPush | itemAdvanceReport | launchAbandon | counterWrap | watchdogWrite | hostWrite | hostDoorbell | portLossOfLock
  | groupClockChange | debugStopSlot | debugLockTableRead | debugRegionHalt | clockStopEnd | bootFlashRecoveryWrite => exact .next _
  case leaveGroup | attestReport | attestCertificate | trainPort | ueReceive | coolantTemperatureLimit =>
    exact .ite (.next _) (.next _)
  case done | linkGranuleArrival | swapBoundary | endJob | functionReady | powerSample =>
    exact .ite (.next _) <| .ite (.next _) (.next _)
  case trapEntry | interrupt | timerInterrupt | rangeLockRetry | routeInvalidNotice | regionStart | timedResultLands | hldDeadline
  | freeze | regionEnd | tilePartDone | hostRead | boot | debugRegisterWrite | debugRegisterRead | laneFailure | hostServe
  | mapPublished =>
    dsimp only [runEvent, execTrapEntry, execInterrupt, execTimerInterrupt, execRangeLockRetry, execRouteInvalidNotice, execRegionStart,
      execTimedResultLands, execHldDeadline, execFreeze, execRegionEnd, execTilePartDone, execHostRead, execBoot,
      execDebugRegisterWrite, execDebugRegisterRead, execLaneFailure, execHostServe, execMapPublished]
    split <;> exact .next _
  case regionHalt | regionRollback | freezeEnd =>
    dsimp only [runEvent, execRegionHalt, execRegionRollback, execFreezeEnd]
    split
    · exact .next _
    · exact .ite (.next _) (.next _)
  case portAccess | hbmBurstComplete | debugResume =>
    dsimp only [runEvent, execPortAccess, execHbmBurstComplete, execDebugResume]
    split
    · exact .next _
    · split <;> exact .next _
  case doorbellArrival | spawnStateArrival | waitcReread | waitcTimeout =>
    dsimp only [runEvent, execDoorbellArrival, execSpawnStateArrival, execWaitcReread, execWaitcTimeout]
    split
    · exact .next _
    split
    · exact .ite (.next _) (.next _)
    · exact .next _
  all_goals simp [runEvent]

/-- A transfer over a link waits where its granules have not come; every other slot operation is one update. -/
theorem runSlot_completes (o : SlotOp) (s : State) : Completes (runSlot o s) := by
  cases o
  case lrecv | lpass =>
    dsimp only [runSlot, execLrecv, execLpass]
    split <;> exact .next _
  all_goals exact .next _

/-- An event that is a row of the table runs as that row. -/
theorem exec_of_isEvent {i : Instr} {e : Event} (h : IsEvent i e) (s : State) : exec i s = runEvent e s := by
  cases e
  case bankAccess | threadFatal | dispatch | hostServe | mapPublished => exact h.elim
  all_goals cases h; rfl

theorem exec_of_isSlot {i : Instr} {o : SlotOp} (h : IsSlot i o) (s : State) : exec i s = runSlot o s := by
  cases o <;> cases h <;> rfl

theorem of_fixed_eq_some {ok : Bool} {i j : Instr} (h : fixed ok i = some j) : i = j := by
  unfold fixed at h
  split at h
  · exact Option.some.inj h
  · cases h

theorem decodeSys_completes {w second : BitVec 16} {i : Instr} (h : decodeSys w second = some i) (s : State) :
    Completes (exec i s) := by
  unfold decodeSys at h
  split at h
  case h_3 => cases h; exact .next _
  case h_7 => cases h
  all_goals rw [← of_fixed_eq_some h]; exact .next _

/-- A stream word changes its tile's timed plane, whatever the state. -/
theorem decodeStream_completes {w second : BitVec 16} {i : Instr} (h : decodeStream w second = some i) (s : State) :
    Completes (exec i s) := by
  unfold decodeStream at h
  split at h
  case h_4 => exact decodeSys_completes h s
  all_goals cases h; exact .next _

/-! What decides a step -/

theorem nextInput_none {s : State} (h : ∀ c ∈ s.inputs.head?, s.cycle < c.1) : nextInput s = none := by
  unfold nextInput
  split
  next c ev rest e => exact if_neg (Nat.not_le.mpr (h (c, ev) (by rw [e]; rfl)))
  · rfl

theorem nextDue_none {s : State} (h : ∀ d ∈ s.pend.head?, s.cycle < d.due) : nextDue s = none := by
  unfold nextDue
  split
  next d rest e => exact if_neg (Nat.not_le.mpr (h d (by rw [e]; rfl)))
  · rfl

theorem step_slot {s : State} {tile : Nat} {o : SlotOp} {rest : List Todo} (h : s.todo = .slot tile o :: rest) :
    step s = runSlot o { s with todo := rest, cur := ⟨tile, 0⟩ } := by
  simp only [step, h]

theorem step_event {s : State} {e : Event} {rest : List Todo} (h : s.todo = .event e :: rest) :
    step s = runEvent e { s with todo := rest } := by
  simp only [step, h]

theorem step_input {s : State} {c : Nat} {e : Event} {rest : List (Nat × Event)} (ht : s.todo = [])
    (h : s.inputs = (c, e) :: rest) (hc : c ≤ s.cycle) : step s = runEvent e { s with inputs := rest } := by
  simp only [step, ht, nextInput, h, hc, if_true]

theorem step_due {s : State} {d : Due} {rest : List Due} (ht : s.todo = []) (hi : ∀ c ∈ s.inputs.head?, s.cycle < c.1)
    (h : s.pend = d :: rest) (hd : d.due ≤ s.cycle) : step s = runEvent d.ev { s with pend := rest } := by
  simp only [step, ht, nextInput_none hi, nextDue, h, hd, if_true]

section
variable {s : State} (ht : s.todo = []) (hi : ∀ c ∈ s.inputs.head?, s.cycle < c.1) (hd : ∀ d ∈ s.pend.head?, s.cycle < d.due)
include ht hi hd

theorem step_agent {a : Agent} (ha : nextAgent s = some a) : step s = agentTurn s a := by
  simp only [step, ht, nextInput_none hi, nextDue_none hd, ha]

theorem step_tick (ha : nextAgent s = none) : step s = .next (tick s) := by
  simp only [step, ht, nextInput_none hi, nextDue_none hd, ha]
end

theorem agentTurn_word {s : State} {tile : Nat} {i : Instr} (hq : (s.tile tile).timed.seqr = .word)
    (hs : (s.tile tile).timed.swap = false)
    (hi : decodeStream ((s.tile tile).timed.word (s.tile tile).timed.files.ptr)
      ((s.tile tile).timed.word ((s.tile tile).timed.files.ptr + 1)) = some i)
    (hc : isControl i = true → (s.tile tile).timed.controls < maxControls) :
    agentTurn s (.sequencer tile) = exec i { s with cur := ⟨tile, 0⟩ } := by
  have hn : (isControl i && decide (maxControls ≤ (s.tile tile).timed.controls)) = false := by
    cases h : isControl i
    · rfl
    · simpa using hc h
  simp [agentTurn, sequencerTurn, hq, streamTurn, hs, hi, hn]

/-! The passing of a cycle stores nothing -/

/-- What the passing of a cycle must leave alone in each of its parts: the cycle's number, memory and its seals. -/
def State.stored (s : State) : Nat × Memory × Tab (BitVec 32) := (s.cycle, s.mem, s.seals)

theorem foldl_stored {α : Type} {f : State → α → State} (h : ∀ s a, (f s a).stored = s.stored) (l : List α) (s : State) :
    (l.foldl f s).stored = s.stored := by
  induction l generalizing s with
  | nil => rfl
  | cons a l ih => rw [List.foldl_cons, ih, h]

theorem ite_stored {c : Prop} [Decidable c] {a b s : State} (ha : a.stored = s.stored) (hb : b.stored = s.stored) :
    (if c then a else b).stored = s.stored := by
  split
  · exact ha
  · exact hb

theorem modTile_stored (s : State) (n : Nat) (f : Tile → Tile) : (s.modTile n f).stored = s.stored := rfl

theorem modThread_stored (s : State) (w : Who) (f : Thread → Thread) : (s.modThread w f).stored = s.stored := by
  simp [State.stored]

theorem Counts.stored {s s' : State} (h : Counts s s') : s'.stored = s.stored := by
  simp only [State.stored, h.cycle, h.mem, h.seals]

theorem tally_stored (s : State) (tile ev : Nat) (slot : Option Nat) (n : Nat) : (s.tally tile ev slot n).stored = s.stored :=
  (Counts.tally ..).stored

theorem tallySlot_stored (s : State) (w : Who) (ev : Nat) : (s.tallySlot w ev).stored = s.stored :=
  (Counts.tallySlot ..).stored

theorem modRegion_stored (s : State) (id : Nat) (f : Region → Region) : (s.modRegion id f).stored = s.stored := by
  unfold State.modRegion; split <;> rfl

theorem modLaunch_stored (s : State) (n : Nat) (f : Launch → Launch) : (s.modLaunch n f).stored = s.stored :=
  ite_stored rfl rfl

theorem setAllInputs_stored (tile input : Nat) (s : State) : (setAllInputs tile input s).stored = s.stored :=
  foldl_stored (f := fun s k => setInput ⟨tile, k⟩ input s) (fun _ _ => modThread_stored ..) _ s

theorem sendTrace_stored (tile : Nat) (s : State) : (sendTrace tile s).stored = s.stored := rfl

theorem enterTrace_stored (tile : Nat) (r : Vec) (s : State) : (enterTrace tile r s).stored = s.stored := by
  unfold enterTrace
  refine ite_stored ?_ (sendTrace_stored ..)
  rw [tally_stored, modTile_stored, setAllInputs_stored]

theorem deviate_stored (r : Region) (tile cause addr value aux : Nat) (s : State) :
    (deviate r tile cause addr value aux s).stored = s.stored := enterTrace_stored ..

theorem haltRecords_stored (r : Region) (s : State) : (haltRecords r s).stored = s.stored := by
  unfold haltRecords
  refine (foldl_stored (fun s f => deviate_stored ..) _ _).trans ?_
  split
  · exact deviate_stored ..
  · rfl

theorem resumeRegion_stored (region : Nat) (s : State) : (resumeRegion region s).stored = s.stored := by
  unfold resumeRegion
  split
  · rfl
  · rw [modRegion_stored]
    exact (foldl_stored (fun s t => modLaunch_stored ..) _ _).trans (haltRecords_stored ..)

theorem askDump_stored (die : Nat) (r : DumpReq) (s : State) : (askDump die r s).stored = s.stored := ite_stored rfl rfl

theorem dropRegion_stored (region : Nat) (s : State) : (dropRegion region s).stored = s.stored := by
  unfold dropRegion
  split
  · rfl
  · exact (foldl_stored (f := fun s t => s.modTimed t Timed.leave) (fun s t => rfl) _ _).trans (haltRecords_stored ..)

theorem fatalRegion_stored (region : Nat) (s : State) : (fatalRegion region s).stored = s.stored := by
  unfold fatalRegion
  split
  · rfl
  · exact (dropRegion_stored ..).trans (askDump_stored ..)

theorem deadlines_stored (id cycle : Nat) (s : State) (tile : Nat) : (deadlines id cycle s tile).stored = s.stored := by
  refine foldl_stored (fun s x => ?_) _ s
  exact ite_stored rfl rfl

theorem timeouts_stored (s : State) (f : Freeze) : (timeouts s f).stored = s.stored := by
  unfold timeouts
  split
  · exact ite_stored rfl rfl
  · rfl

theorem regionDue_stored (id : Nat) (advanced : Bool) (s : State) : (regionDue id advanced s).stored = s.stored := by
  unfold regionDue
  split
  · rfl
  · refine ite_stored (resumeRegion_stored ..) <| ite_stored (fatalRegion_stored ..) ?_
    refine (foldl_stored timeouts_stored _ _).trans <| .trans (ite_stored rfl rfl) <| .trans (ite_stored rfl rfl) <|
      .trans (ite_stored rfl rfl) <| ite_stored (foldl_stored (deadlines_stored id _) _ _) rfl

theorem regionTick_stored (s : State) (p : Nat × Region) : (regionTick s p).stored = s.stored :=
  (regionDue_stored ..).trans (modRegion_stored ..)

theorem traceTick_stored (s : State) (p : Nat × Tile) : (traceTick s p).stored = s.stored := by
  refine ite_stored rfl ?_
  exact foldl_stored (fun s k => foldl_stored (fun s r => enterTrace_stored ..) _ s) _ _

theorem tileTick_stored (s : State) (p : Nat × Tile) : (tileTick s p).stored = s.stored := by
  refine ite_stored rfl ?_
  exact .trans (ite_stored (tally_stored ..) rfl) <| .trans (ite_stored (tallySlot_stored ..) rfl) (tally_stored ..)

theorem timerTick_stored (s : State) (p : Nat × Tile) : (timerTick s p).stored = s.stored := by
  refine foldl_stored (fun s k => ?_) _ s
  split
  · exact ite_stored rfl rfl
  · rfl

theorem dogTick_stored (s : State) (p : Nat × Die) : (dogTick s p).stored = s.stored := by
  refine foldl_stored (fun s n => ?_) _ _
  exact ite_stored rfl rfl

theorem stored_nextCycle {s s' : State} (h : s'.stored = s.stored) :
    ({ s' with cycle := s'.cycle + 1 } : State).stored = (s.cycle + 1, s.mem, s.seals) := by
  simp only [State.stored, Prod.mk.injEq] at h ⊢
  obtain ⟨hcycle, hmem, hseals⟩ := h
  exact ⟨by rw [hcycle], hmem, hseals⟩

/-- The cycle's number goes up once, between the counters of the cycle that ends and what falls due on the next. -/
theorem tick_stored (s : State) : (tick s).stored = (s.cycle + 1, s.mem, s.seals) := by
  unfold tick
  refine (foldl_stored dogTick_stored _ _).trans <| (foldl_stored timerTick_stored _ _).trans <|
    (foldl_stored regionTick_stored _ _).trans <| stored_nextCycle ?_
  exact (foldl_stored tileTick_stored _ _).trans (foldl_stored traceTick_stored _ _)

/-- Settles O23: a row of the table is what `runEvent` or `runSlot` runs and completes (`runEvent_completes`, `runSlot_completes`,
`decodeStream_completes`); a step finds what is due in the order of `step_event`, `step_input`, `step_due` and `step_agent`, which is
the model's choice (logs 4, 5); and a cycle that passes stores nothing (`tick_stored`). -/
theorem stepRunsWhatIsDue : Obligations.StepRunsWhatIsDue := by
  unfold Obligations.StepRunsWhatIsDue
  refine ⟨fun s e i he => ?_, fun s o i ho => ?_, fun s a b i hi => decodeStream_completes hi s, fun s tile o i rest ho ht => ?_,
    fun s e i he => ⟨fun rest ht => ?_, fun ht => ⟨fun c rest h hc => ?_, fun hi d rest h hd hdue => ?_⟩⟩,
    fun s ht hi hd => ⟨fun tile i ha hq hw hdec hc => ?_, fun ha => ⟨tick s, step_tick ht hi hd ha, ?_⟩⟩⟩
  · rw [exec_of_isEvent he]
    exact runEvent_completes e s
  · rw [exec_of_isSlot ho]
    exact runSlot_completes o s
  · rw [exec_of_isSlot ho, step_slot ht]
  · rw [exec_of_isEvent he, step_event ht]
  · rw [exec_of_isEvent he, step_input ht h hc]
  · rw [exec_of_isEvent he, step_due ht hi h hdue, hd]
  · rw [step_agent ht hi hd ha, agentTurn_word hq hw hdec hc]
  · have h := tick_stored s
    simp only [State.stored, Prod.mk.injEq] at h
    obtain ⟨hcycle, hmem, hseals⟩ := h
    exact ⟨hcycle, fun a => by rw [State.byte, State.byte, hmem], hseals⟩

end Sys2Proof.Machine
end
